-- ==== Sys2Proof/Word.lean ====
section
/-! DEFINITION. Words, and the small closed types that instruction operands and steps are written with. -/

namespace Sys2Proof

/-- A byte of memory. -/
abbrev Byte := BitVec 8

/-- A value of the control processor: every operand, predicate and result is 64 bits (R181). -/
abbrev Word := BitVec 64

/-- A word of a block, and a value of an element's datapath (R174, R53). -/
abbrev W32 := BitVec 32

/-- A 9-bit target field (R177): slot in [8:7], body index in [4:0]. -/
abbrev Target := BitVec 9

/-- A sparse table: what is listed under a number; an unlisted number has the table's default. -/
abbrev SMap (α : Type) := List (Nat × α)

/-- The predicate field of a body word (R176); 11 is reserved and decodes to nothing. -/
inductive Pred where
  | always
  | onTrue
  | onFalse
deriving DecidableEq, Repr

/-- Ordering codes (R143). -/
inductive Ord where
  | rlx
  | acq
  | rel
  | ar
deriving DecidableEq, Repr

/-- Scope codes (R142). -/
inductive Scope where
  | core
  | die
  | device
  | system
deriving DecidableEq, Repr

/-- Where an uncorrectable error or a parity error is found (R462). -/
inductive ErrorPlace where
  | line (a : Nat)               -- a granule or line, by its number in the model's memory
  | register (c x j : Nat)       -- g register j of context x of core c
  | element (c e : Nat) (ctr : Bool)   -- element e of core c: its last result, or its counter
  | accumulator (c e : Nat)
  | config (c slot e : Nat)      -- a configuration store word
  | lane (c e lane : Nat)        -- an incoming grid lane
  | pulse (c e : Nat)            -- a pulse lane into element e
deriving DecidableEq, Repr

/-- What the host has sent to a bank just before a READ or WRITE of it: nothing, an ACTIVATE of a row, or a PRECHARGE
(DESIGN CHOICE, log 127). -/
inductive RowLead where
  | stay
  | activate (row : Nat)
  | precharge
deriving DecidableEq, Repr

/-- A host READ or WRITE command as it reaches the port (R341, R343, R458). -/
structure HostCmd where
  channel : Nat
  lead : RowLead := .stay
  bank : Nat
  group : Option Nat := none        -- in bank-group mode: the group, and `bank` is the bank address within it (R341)
  col : Nat
  bl32 : Bool
  reserved : Bool
deriving DecidableEq, Repr

/-- A mode register of a host channel, as a command names it (R342). -/
structure ModeReg where
  channel : Nat
  number : BitVec 7
deriving DecidableEq, Repr

/-- How the INIT step of a start ends (R351, R464). -/
inductive InitResult where
  | ready
  | stripRefused
  | linkFail (l : Nat)
  | dramFail (d : Nat)
  | memError
deriving DecidableEq, Repr

/-- One access of the service path (R135), with everything it states explicitly. -/
inductive ServiceOp where
  | readGranule (g : Nat)
  | writeGranule (g : Nat) (data : List Byte) (tag : BitVec 12) (poison : Bool) (presence : BitVec 8)
  | readReg (c x j : Nat)
  | writeReg (c x j : Nat) (v : Word) (tag : BitVec 12)
  | readElem (c e : Nat) (ctr : Bool)
  | writeElem (c e : Nat) (ctr : Bool) (v : W32) (tag : BitVec 12)
  | readPending (c e i : Nat)
  | writePending (c e i : Nat) (data : List Byte) (tag : BitVec 12)
  | readAcc (c e : Nat)
  | writeAcc (c e : Nat) (record : List Byte)
  | readConfig (c slot e f : Nat)
  | writeConfig (c slot e f : Nat) (v : BitVec 16)
  | readPhysical (c : Nat)
deriving DecidableEq, Repr

end Sys2Proof
end

