-- ==== Sys2Proof/Syntax.lean ====
section
/-! DEFINITION. The instructions: one constructor per row of spec/opcode_table.json. The first 154 are
body words of a block (R179); the others are steps that no word encodes (95_what_each_step_holds.md), whose
arguments say which part of the machine takes the step: `c` a core, `x` a program context, `r` a region's number
on its core, `e` an element (row * 16 + column), `p` an edge port (direction * 16 + index), `q` a queue, `d` a
die, `l` a die link, `a` an allocation, `id` a record of the state, `lane` an incoming lane (direction * 2 +
lane). -/

namespace Sys2Proof

inductive Instr where
  /-- Sends the value that register gj held when the block began to up to two targets. (R209) -/
  | read (p : Pred) (g : BitVec 5) (t0 : Target) (t1 : Target)
  /-- Records operand A as the value of gj at commit and so resolves gj. (R209) -/
  | write (p : Pred) (g : BitVec 5)
  /-- Produces the sign-extended 14-bit immediate. (R209) -/
  | movi (p : Pred) (imm : BitVec 14) (t0 : Target)
  /-- Produces A times 2^14 plus the unsigned 14-bit immediate. (R209) -/
  | appi (p : Pred) (imm : BitVec 14) (t0 : Target)
  /-- Sends operand A on to up to two targets. (R209) -/
  | mov (p : Pred) (t0 : Target) (t1 : Target)
  /-- Produces A or B according to bit 0 of the selector in its predicate slot. (R209) -/
  | sel (t0 : Target) (t1 : Target)
  /-- Resolves gj so that it keeps its value at commit. (R209) -/
  | nullw (p : Pred) (g : BitVec 5)
  /-- Resolves a masked LSID without making an access. (R227) -/
  | nulls (p : Pred) (l : BitVec 5)
  /-- Integer addition in 64 or 32 bits. (R211) -/
  | add (p : Pred) (w : Bool) (t0 : Target) (t1 : Target)
  /-- Integer subtraction. (R211) -/
  | sub (p : Pred) (w : Bool) (t0 : Target) (t1 : Target)
  /-- Low half of an integer product. (R211) -/
  | mul (p : Pred) (w : Bool) (t0 : Target) (t1 : Target)
  /-- High half of a signed product. (R211) -/
  | mulh (p : Pred) (w : Bool) (t0 : Target) (t1 : Target)
  /-- High half of an unsigned product. (R211) -/
  | mulhu (p : Pred) (w : Bool) (t0 : Target) (t1 : Target)
  /-- Signed division with defined results for a zero divisor and for overflow. (R211) -/
  | div (p : Pred) (w : Bool) (t0 : Target) (t1 : Target)
  /-- Unsigned division. (R211) -/
  | divu (p : Pred) (w : Bool) (t0 : Target) (t1 : Target)
  /-- Signed remainder. (R211) -/
  | rem (p : Pred) (w : Bool) (t0 : Target) (t1 : Target)
  /-- Unsigned remainder. (R211) -/
  | remu (p : Pred) (w : Bool) (t0 : Target) (t1 : Target)
  /-- Signed minimum. (R211) -/
  | min (p : Pred) (w : Bool) (t0 : Target) (t1 : Target)
  /-- Signed maximum. (R211) -/
  | max (p : Pred) (w : Bool) (t0 : Target) (t1 : Target)
  /-- Unsigned minimum. (R211) -/
  | minu (p : Pred) (w : Bool) (t0 : Target) (t1 : Target)
  /-- Unsigned maximum. (R211) -/
  | maxu (p : Pred) (w : Bool) (t0 : Target) (t1 : Target)
  /-- Bitwise and. (R212) -/
  | and (p : Pred) (w : Bool) (t0 : Target) (t1 : Target)
  /-- Bitwise or. (R212) -/
  | or (p : Pred) (w : Bool) (t0 : Target) (t1 : Target)
  /-- Bitwise exclusive-or. (R212) -/
  | xor (p : Pred) (w : Bool) (t0 : Target) (t1 : Target)
  /-- A and not B. (R212) -/
  | andn (p : Pred) (w : Bool) (t0 : Target) (t1 : Target)
  /-- A or not B. (R212) -/
  | orn (p : Pred) (w : Bool) (t0 : Target) (t1 : Target)
  /-- Left shift, giving 0 for a count out of range. (R212) -/
  | shl (p : Pred) (w : Bool) (t0 : Target) (t1 : Target)
  /-- Logical right shift. (R212) -/
  | shr (p : Pred) (w : Bool) (t0 : Target) (t1 : Target)
  /-- Arithmetic right shift. (R212) -/
  | sra (p : Pred) (w : Bool) (t0 : Target) (t1 : Target)
  /-- Left rotation. (R212) -/
  | rol (p : Pred) (w : Bool) (t0 : Target) (t1 : Target)
  /-- Right rotation. (R212) -/
  | ror (p : Pred) (w : Bool) (t0 : Target) (t1 : Target)
  /-- Extracts a bit field whose position and length come from B. (R212) -/
  | bfx (p : Pred) (w : Bool) (t0 : Target) (t1 : Target)
  /-- Counts leading zero bits. (R213) -/
  | clz (p : Pred) (w : Bool) (t0 : Target) (t1 : Target)
  /-- Counts trailing zero bits. (R213) -/
  | ctz (p : Pred) (w : Bool) (t0 : Target) (t1 : Target)
  /-- Counts one bits. (R213) -/
  | popc (p : Pred) (w : Bool) (t0 : Target) (t1 : Target)
  /-- Reverses the order of the bits. (R213) -/
  | brev (p : Pred) (w : Bool) (t0 : Target) (t1 : Target)
  /-- Reverses the order of the bytes. (R213) -/
  | bswap (p : Pred) (w : Bool) (t0 : Target) (t1 : Target)
  /-- Integer negation. (R213) -/
  | neg (p : Pred) (w : Bool) (t0 : Target) (t1 : Target)
  /-- Bitwise complement. (R213) -/
  | not (p : Pred) (w : Bool) (t0 : Target) (t1 : Target)
  /-- Sign-extends the low 8 bits. (R213) -/
  | sext8 (p : Pred) (w : Bool) (t0 : Target) (t1 : Target)
  /-- Sign-extends the low 16 bits. (R213) -/
  | sext16 (p : Pred) (w : Bool) (t0 : Target) (t1 : Target)
  /-- Sign-extends the low 32 bits. (R213) -/
  | sext32 (p : Pred) (w : Bool) (t0 : Target) (t1 : Target)
  /-- Zero-extends the low 8 bits. (R213) -/
  | zext8 (p : Pred) (w : Bool) (t0 : Target) (t1 : Target)
  /-- Zero-extends the low 16 bits. (R213) -/
  | zext16 (p : Pred) (w : Bool) (t0 : Target) (t1 : Target)
  /-- Zero-extends the low 32 bits. (R213) -/
  | zext32 (p : Pred) (w : Bool) (t0 : Target) (t1 : Target)
  /-- Adds a 9-bit signed immediate. (R214) -/
  | addi (p : Pred) (w : Bool) (imm : BitVec 9) (t0 : Target)
  /-- Bitwise and with the immediate. (R214) -/
  | andi (p : Pred) (w : Bool) (imm : BitVec 9) (t0 : Target)
  /-- Bitwise or with the immediate. (R214) -/
  | ori (p : Pred) (w : Bool) (imm : BitVec 9) (t0 : Target)
  /-- Bitwise exclusive-or with the immediate. (R214) -/
  | xori (p : Pred) (w : Bool) (imm : BitVec 9) (t0 : Target)
  /-- Left shift by the immediate. (R214) -/
  | shli (p : Pred) (w : Bool) (imm : BitVec 9) (t0 : Target)
  /-- Logical right shift by the immediate. (R214) -/
  | shri (p : Pred) (w : Bool) (imm : BitVec 9) (t0 : Target)
  /-- Arithmetic right shift by the immediate. (R214) -/
  | srai (p : Pred) (w : Bool) (imm : BitVec 9) (t0 : Target)
  /-- Multiplies by the immediate. (R214) -/
  | muli (p : Pred) (w : Bool) (imm : BitVec 9) (t0 : Target)
  /-- Yields 1 when A equals B. (R216) -/
  | teq (p : Pred) (w : Bool) (t0 : Target) (t1 : Target)
  /-- Yields 1 when A differs from B. (R216) -/
  | tne (p : Pred) (w : Bool) (t0 : Target) (t1 : Target)
  /-- Signed less-than test. (R216) -/
  | tlt (p : Pred) (w : Bool) (t0 : Target) (t1 : Target)
  /-- Signed less-or-equal test. (R216) -/
  | tle (p : Pred) (w : Bool) (t0 : Target) (t1 : Target)
  /-- Unsigned less-than test. (R216) -/
  | tltu (p : Pred) (w : Bool) (t0 : Target) (t1 : Target)
  /-- Unsigned less-or-equal test. (R216) -/
  | tleu (p : Pred) (w : Bool) (t0 : Target) (t1 : Target)
  /-- Tests equality with the immediate. (R216) -/
  | teqi (p : Pred) (w : Bool) (imm : BitVec 9) (t0 : Target)
  /-- Tests inequality with the immediate. (R216) -/
  | tnei (p : Pred) (w : Bool) (imm : BitVec 9) (t0 : Target)
  /-- Signed less-than test against the immediate. (R216) -/
  | tlti (p : Pred) (w : Bool) (imm : BitVec 9) (t0 : Target)
  /-- Signed less-or-equal test against the immediate. (R216) -/
  | tlei (p : Pred) (w : Bool) (imm : BitVec 9) (t0 : Target)
  /-- Signed greater-than test against the immediate. (R216) -/
  | tgti (p : Pred) (w : Bool) (imm : BitVec 9) (t0 : Target)
  /-- Signed greater-or-equal test against the immediate. (R216) -/
  | tgei (p : Pred) (w : Bool) (imm : BitVec 9) (t0 : Target)
  /-- Unsigned less-than test against the immediate. (R216) -/
  | tltui (p : Pred) (w : Bool) (imm : BitVec 9) (t0 : Target)
  /-- Unsigned greater-than test against the immediate. (R216) -/
  | tgtui (p : Pred) (w : Bool) (imm : BitVec 9) (t0 : Target)
  /-- Loads a byte and zero-extends it. (R219) -/
  | ldb (p : Pred) (l : BitVec 5) (imm : BitVec 9) (t0 : Target)
  /-- Loads a byte and sign-extends it. (R219) -/
  | ldbx (p : Pred) (l : BitVec 5) (imm : BitVec 9) (t0 : Target)
  /-- Loads a halfword and zero-extends it. (R219) -/
  | ldh (p : Pred) (l : BitVec 5) (imm : BitVec 9) (t0 : Target)
  /-- Loads a halfword and sign-extends it. (R219) -/
  | ldhx (p : Pred) (l : BitVec 5) (imm : BitVec 9) (t0 : Target)
  /-- Loads a word and zero-extends it. (R219) -/
  | ldw (p : Pred) (l : BitVec 5) (imm : BitVec 9) (t0 : Target)
  /-- Loads a word and sign-extends it. (R219) -/
  | ldwx (p : Pred) (l : BitVec 5) (imm : BitVec 9) (t0 : Target)
  /-- Loads a doubleword. (R219) -/
  | ldd (p : Pred) (l : BitVec 5) (imm : BitVec 9) (t0 : Target)
  /-- Loads a doubleword as an acquire of scope SYSTEM. (R221) -/
  | lda (p : Pred) (l : BitVec 5) (imm : BitVec 9) (t0 : Target)
  /-- Stores a byte. (R220) -/
  | stb (p : Pred) (l : BitVec 5) (imm : BitVec 9)
  /-- Stores a halfword. (R220) -/
  | sth (p : Pred) (l : BitVec 5) (imm : BitVec 9)
  /-- Stores a word. (R220) -/
  | stw (p : Pred) (l : BitVec 5) (imm : BitVec 9)
  /-- Stores a doubleword. (R220) -/
  | std (p : Pred) (l : BitVec 5) (imm : BitVec 9)
  /-- Stores a doubleword as a release of scope SYSTEM. (R221) -/
  | stl (p : Pred) (l : BitVec 5) (imm : BitVec 9)
  /-- Atomic add at the home of the word, returning the old value. (R224) -/
  | amoadd (p : Pred) (l : BitVec 5) (o : Ord) (sc : Scope) (w : Bool) (t0 : Target)
  /-- Atomic swap. (R224) -/
  | amoswp (p : Pred) (l : BitVec 5) (o : Ord) (sc : Scope) (w : Bool) (t0 : Target)
  /-- Atomic and. (R224) -/
  | amoand (p : Pred) (l : BitVec 5) (o : Ord) (sc : Scope) (w : Bool) (t0 : Target)
  /-- Atomic or. (R224) -/
  | amoor (p : Pred) (l : BitVec 5) (o : Ord) (sc : Scope) (w : Bool) (t0 : Target)
  /-- Atomic exclusive-or. (R224) -/
  | amoxor (p : Pred) (l : BitVec 5) (o : Ord) (sc : Scope) (w : Bool) (t0 : Target)
  /-- Atomic signed minimum. (R224) -/
  | amomin (p : Pred) (l : BitVec 5) (o : Ord) (sc : Scope) (w : Bool) (t0 : Target)
  /-- Atomic signed maximum. (R224) -/
  | amomax (p : Pred) (l : BitVec 5) (o : Ord) (sc : Scope) (w : Bool) (t0 : Target)
  /-- Atomic unsigned minimum. (R224) -/
  | amominu (p : Pred) (l : BitVec 5) (o : Ord) (sc : Scope) (w : Bool) (t0 : Target)
  /-- Atomic unsigned maximum. (R224) -/
  | amomaxu (p : Pred) (l : BitVec 5) (o : Ord) (sc : Scope) (w : Bool) (t0 : Target)
  /-- Atomic 32-bit compare-and-swap, which writes only when the compare succeeds. (R224) -/
  | amocas (p : Pred) (l : BitVec 5) (o : Ord) (sc : Scope) (t0 : Target)
  /-- Orders the context's accesses and engine commands within a scope. (R226) -/
  | fence (p : Pred) (l : BitVec 5) (sc : Scope)
  /-- Exit to a block at a signed word offset from the block address. (R229) -/
  | bri (p : Pred) (e : BitVec 3) (offs : BitVec 20)
  /-- Exit to an offset block, writing the return address to g30 at commit. (R229) -/
  | calli (p : Pred) (e : BitVec 3) (offs : BitVec 20)
  /-- Exit to the block address held in operand A. (R229) -/
  | br (p : Pred) (e : BitVec 3)
  /-- Exit to the block address in A, writing the return address to g30. (R229) -/
  | call (p : Pred) (e : BitVec 3)
  /-- Enters the handler at TVEC with CAUSE 0x00 and EPC set to the next block. (R231) -/
  | scall (p : Pred) (e : BitVec 3) (code : BitVec 20)
  /-- Enters the handler at TVEC with CAUSE 0x1F and EPC set to this block. (R231) -/
  | trap (p : Pred) (e : BitVec 3) (code : BitVec 20)
  /-- Ends the context's block issue at commit; the last HALT of an allocation sends it to ENDING. (R230) -/
  | halt (p : Pred) (e : BitVec 3)
  /-- Clears STATUS.INH and continues at EPC. (R232) -/
  | eret (p : Pred) (e : BitVec 3)
  /-- Reads a control and status register as it stood at block start. (R233) -/
  | csrr (p : Pred) (n : BitVec 12) (t0 : Target)
  /-- Writes a control and status register at commit. (R233) -/
  | csrw (p : Pred) (n : BitVec 12)
  /-- Queues a load of a configuration stream into a slot of a region on the configuration path. (R249) -/
  | cfgLoad (p : Pred) (r : BitVec 3) (sl : BitVec 2) (full : Bool)
  /-- Writes one configuration word through the configuration path. (R250) -/
  | cfgWr (p : Pred) (r : BitVec 3)
  /-- Makes a slot CURRENT, TAGGED, DRAINED or with RESET, and waits for the swap cycle. (R251) -/
  | cfgSwap (p : Pred) (r : BitVec 3) (sl : BitVec 2) (drained : Bool) (reset : Bool) (t0 : Target)
  /-- Waits until a slot is IDLE, dropping a READY slot at once. (R252) -/
  | cfgRetire (p : Pred) (r : BitVec 3) (sl : BitVec 2)
  /-- Returns the slot states of a region. (R253) -/
  | cfgStat (p : Pred) (r : BitVec 3) (t0 : Target)
  /-- Copies a pattern record into a binding on an edge port and returns its handle. (R255) -/
  | strBind (p : Pred) (dir : BitVec 2) (ix : BitVec 4) (lane : Bool) (go : Bool) (base : Bool) (t0 : Target)
  /-- Moves a BOUND binding to QUEUED and optionally sets its deadline. (R256) -/
  | strGo (p : Pred) (dl : Bool)
  /-- Ends a binding, recording its unfinished items as FAILED. (R257) -/
  | strCancel (p : Pred)
  /-- Waits for a binding to be DONE and returns its status. (R258) -/
  | strWait (p : Pred) (t0 : Target)
  /-- Writes bytes into a QUEUE or RANDOM buffer allocation. (R259) -/
  | strPush (p : Pred) (buf : BitVec 4) (sz : BitVec 2) (rand : Bool)
  /-- Reads bytes from a QUEUE or RANDOM buffer allocation. (R259) -/
  | strPop (p : Pred) (buf : BitVec 4) (sz : BitVec 2) (rand : Bool) (t0 : Target)
  /-- Returns the status of a port or of a buffer allocation. (R260) -/
  | strStat (p : Pred) (kind : Bool) (dir : BitVec 2) (ix : BitVec 4) (t0 : Target)
  /-- Adds tiles to a section's remaining count. (R261) -/
  | rgnArm (p : Pred) (r : BitVec 3) (sec : BitVec 3)
  /-- Freezes a region into a relocatable image in DRAM. (R262) -/
  | rgnFreeze (p : Pred) (r : BitVec 3)
  /-- Asks Teasel to place a frozen region image on the issuing core. (R263) -/
  | rgnThaw (p : Pred) (r : BitVec 3)
  /-- Aborts a region without keeping an image. (R264) -/
  | rgnAbort (p : Pred) (r : BitVec 3)
  /-- Runs the two-wave quiescence test and returns quiet or active. (R265) -/
  | rgnQuiet (p : Pred) (r : BitVec 3) (span : Bool) (t0 : Target)
  /-- Returns a region's status. (R266) -/
  | rgnStat (p : Pred) (r : BitVec 3) (t0 : Target)
  /-- Asks Teasel to place a spawnable subgraph and returns its local region number. (R267) -/
  | spawn (p : Pred) (r : BitVec 3) (t0 : Target)
  /-- Empties the selected accumulators and latches the drain fields of the CURRENT slot. (R269) -/
  | xaClr (p : Pred) (r : BitVec 3) (tile : Bool) (evt : Bool)
  /-- Drains the selected accumulators as tokens or, with MEM, as words in memory. (R269) -/
  | xaDrain (p : Pred) (r : BitVec 3) (tile : Bool) (evt : Bool) (mem : Bool)
  /-- Writes spill records of the selected accumulators. (R269) -/
  | xaSpill (p : Pred) (r : BitVec 3) (tile : Bool) (evt : Bool)
  /-- Installs spill records into the selected accumulators. (R269) -/
  | xaFill (p : Pred) (r : BitVec 3) (tile : Bool) (evt : Bool)
  /-- Adds spill records into the selected accumulators. (R269) -/
  | xaMerge (p : Pred) (r : BitVec 3) (tile : Bool) (evt : Bool)
  /-- Returns the state of one element's accumulator. (R270) -/
  | xaStat (p : Pred) (r : BitVec 3) (t0 : Target)
  /-- Waits until the stream's symbol or slot count reaches a value. (R272) -/
  | markWait (p : Pred) (kind : Bool) (t0 : Target)
  /-- Delivers a mark to a stream through the mark unit. (R273) -/
  | markRaise (p : Pred) (kind : Bool) (strm : BitVec 5)
  /-- Waits for an event count to be nonzero and then decrements it. (R274) -/
  | evtWait (p : Pred) (ev : BitVec 7) (t0 : Target)
  /-- Signals an event from 80 to 127 of a member of the same allocation. (R274) -/
  | evtSignal (p : Pred) (ev : BitVec 7)
  /-- Waits until a semaphore word can be decremented by the amount, then decrements it atomically. (R275) -/
  | semWait (p : Pred) (o : Ord) (sc : Scope) (t0 : Target)
  /-- Atomically adds the amount to a semaphore word. (R275) -/
  | semPost (p : Pred) (o : Ord) (sc : Scope) (t0 : Target)
  /-- F32 addition. (R235) -/
  | fadd (p : Pred) (t0 : Target) (t1 : Target)
  /-- F32 subtraction. (R235) -/
  | fsub (p : Pred) (t0 : Target) (t1 : Target)
  /-- F32 multiplication. (R235) -/
  | fmul (p : Pred) (t0 : Target) (t1 : Target)
  /-- F32 division on the shared divider. (R235) -/
  | fdiv (p : Pred) (t0 : Target) (t1 : Target)
  /-- F32 square root. (R235) -/
  | fsqrt (p : Pred) (t0 : Target) (t1 : Target)
  /-- F32 minimum. (R235) -/
  | fmin (p : Pred) (t0 : Target) (t1 : Target)
  /-- F32 maximum. (R235) -/
  | fmax (p : Pred) (t0 : Target) (t1 : Target)
  /-- Clears bit 31. (R235) -/
  | fabs (p : Pred) (t0 : Target) (t1 : Target)
  /-- Inverts bit 31. (R235) -/
  | fneg (p : Pred) (t0 : Target) (t1 : Target)
  /-- Yields 1 when A equals B as F32. (R236) -/
  | fcmpEq (p : Pred) (t0 : Target) (t1 : Target)
  /-- Yields 1 when A is less than B as F32. (R236) -/
  | fcmpLt (p : Pred) (t0 : Target) (t1 : Target)
  /-- Yields 1 when A is at most B as F32. (R236) -/
  | fcmpLe (p : Pred) (t0 : Target) (t1 : Target)
  /-- Yields 1 when A or B is NaN. (R236) -/
  | fcmpUn (p : Pred) (t0 : Target) (t1 : Target)
  /-- Converts F32 to a saturated signed 32-bit integer. (R237) -/
  | fcvtS32F (p : Pred) (t0 : Target) (t1 : Target)
  /-- Converts F32 to a saturated signed 64-bit integer. (R237) -/
  | fcvtS64F (p : Pred) (t0 : Target) (t1 : Target)
  /-- Converts a signed 32-bit integer to F32. (R237) -/
  | fcvtFS32 (p : Pred) (t0 : Target) (t1 : Target)
  /-- Converts a signed 64-bit integer to F32. (R237) -/
  | fcvtFS64 (p : Pred) (t0 : Target) (t1 : Target)
  /-- Converts an unsigned 64-bit integer to F32. (R237) -/
  | fcvtFN64 (p : Pred) (t0 : Target) (t1 : Target)
  /-- Converts F32 to BF16. (R237) -/
  | fcvtBf16F (p : Pred) (t0 : Target) (t1 : Target)
  /-- Converts BF16 to F32 exactly. (R237) -/
  | fcvtFBf16 (p : Pred) (t0 : Target) (t1 : Target)
  /-- Converts F32 to FP16. (R237) -/
  | fcvtFp16F (p : Pred) (t0 : Target) (t1 : Target)
  /-- Converts FP16 to F32 exactly. (R237) -/
  | fcvtFFp16 (p : Pred) (t0 : Target) (t1 : Target)
  /-- Fetches a block into a program context and checks its header and body words before any instruction fires. (R413) -/
  | blockFetch (c : Nat) (x : Nat)
  /-- On the cycle after its commit conditions hold, a block writes its registers and CSRs together and continues at the block its exit named. (R186) -/
  | blockCommit (c : Nat) (x : Nat)
  /-- A fault attributable to a block abandons it and either enters TVEC or aborts the allocation. (R393) -/
  | blockAbandon (c : Nat) (x : Nat)
  /-- Within 64 cycles of a block becoming stalled, the control processor abandons it with cause 0x09 or 0x0A. (R417) -/
  | stallDetect (c : Nat) (x : Nat)
  /-- An engine instruction that found its queue full is accepted when an entry frees, and may be refused there. (R240) -/
  | engineAccept (c : Nat) (x : Nat) (k : Nat)
  /-- A waiting instruction's condition comes to hold, so it is satisfied and the block's other engine instructions may issue. (R241) -/
  | waitSatisfied (c : Nat) (x : Nat)
  /-- On the swap cycle the target slot becomes CURRENT, the old one RETIRING, and entry elements begin emitting RETIRE. (R35) -/
  | swapTakesEffect (c : Nat) (r : Nat)
  /-- The loader starts serving the next configuration-path command and delivers its words into the region. (R72) -/
  | loaderServe (c : Nat)
  /-- When end of stream has reached every row, the loader checks the slot and makes it READY or refuses it. (R423) -/
  | configLoadComplete (c : Nat)
  /-- The core's region scheduler decides for a demand-mode region whether to change configuration, loading and swapping as needed. (R39) -/
  | regionSchedulerDecision (c : Nat) (r : Nat)
  /-- A demand-mode configuration has been current for the region's quantum, so a change may fall due. (R39) -/
  | quantumExpiry (c : Nat) (r : Nat)
  /-- Element forwards A on F4 and F5. (R280) -/
  | pass (c : Nat) (e : Nat)
  /-- Element forwards A on F4 or F5 by b[0], with an optional direction stream limited by credits. (R281) -/
  | steer (c : Nat) (e : Nat)
  /-- A STEER of VARIANT 1 decides each iteration in issue order, sending commit pulses or SQUASH tokens. (R283) -/
  | loopExitSteer (c : Nat) (e : Nat)
  /-- Element sends A on one of up to eight ways, with optional sequence numbers and free-slot counts. (R284) -/
  | swch (c : Nat) (e : Nat)
  /-- Element takes the arm named by the next direction token and returns a credit pulse. (R282) -/
  | merge (c : Nat) (e : Nat)
  /-- Element forwards DATA from its inputs in round-robin arrival order. (R282) -/
  | amrg (c : Nat) (e : Nat)
  /-- Element forwards or drops A by b[0]. (R280) -/
  | filt (c : Nat) (e : Nat)
  /-- Element forwards A when b[0] is 1, and otherwise emits a zero token. (R280) -/
  | expd (c : Nat) (e : Nat)
  /-- Element emits A n times. (R280) -/
  | rep (c : Nat) (e : Nat)
  /-- Element runs as a controller node or a leaf counter, emitting iteration values. (R286) -/
  | cnt (c : Nat) (e : Nat)
  /-- Element passes A while it holds grants from enable pulses. (R280) -/
  | gate (c : Nat) (e : Nat)
  /-- Element takes the lowest free tag for a new thread, or returns a tag to the pool from input B. (R288) -/
  | taga (c : Nat) (e : Nat)
  /-- Element counts a thread's tokens and sends its tag back when the thread completes. (R288) -/
  | tagf (c : Nat) (e : Nat)
  /-- Element releases tokens in the order of their SIDE sequence numbers from its window. (R285) -/
  | reord (c : Nat) (e : Nat)
  /-- Element forwards A and B once every configured input is present. (R280) -/
  | join (c : Nat) (e : Nat)
  /-- Element emits constant 0 in runs or continuously. (R280) -/
  | const (c : Nat) (e : Nat)
  /-- Element integer addition per subword, with optional saturation. (R289) -/
  | iadd (c : Nat) (e : Nat)
  /-- Element integer subtraction. (R289) -/
  | isub (c : Nat) (e : Nat)
  /-- Element integer multiplication. (R289) -/
  | imul (c : Nat) (e : Nat)
  /-- Element integer multiply-add. (R289) -/
  | imac (c : Nat) (e : Nat)
  /-- Element bitwise and. (R289) -/
  | iand (c : Nat) (e : Nat)
  /-- Element bitwise or. (R289) -/
  | ior (c : Nat) (e : Nat)
  /-- Element bitwise exclusive-or. (R289) -/
  | ixor (c : Nat) (e : Nat)
  /-- Element left shift. (R289) -/
  | ishl (c : Nat) (e : Nat)
  /-- Element logical right shift. (R289) -/
  | ishr (c : Nat) (e : Nat)
  /-- Element arithmetic right shift. (R289) -/
  | isra (c : Nat) (e : Nat)
  /-- Element minimum. (R289) -/
  | imin (c : Nat) (e : Nat)
  /-- Element maximum. (R289) -/
  | imax (c : Nat) (e : Nat)
  /-- Element absolute value. (R289) -/
  | iabs (c : Nat) (e : Nat)
  /-- Element clamps to an m-bit range. (R289) -/
  | isat (c : Nat) (e : Nat)
  /-- Element compares by VARIANT and yields 1 or 0. (R289) -/
  | icmp (c : Nat) (e : Nat)
  /-- Element F32 addition or subtraction. (R291) -/
  | elemFadd (c : Nat) (e : Nat)
  /-- Element F32 multiplication. (R291) -/
  | elemFmul (c : Nat) (e : Nat)
  /-- Element F32 fused multiply-add with one rounding. (R291) -/
  | ffma (c : Nat) (e : Nat)
  /-- Element F32 minimum. (R291) -/
  | elemFmin (c : Nat) (e : Nat)
  /-- Element F32 maximum. (R291) -/
  | elemFmax (c : Nat) (e : Nat)
  /-- Element F32 comparison by VARIANT. (R291) -/
  | elemFcmp (c : Nat) (e : Nat)
  /-- Element format conversion by VARIANT. (R292) -/
  | elemFcvt (c : Nat) (e : Nat)
  /-- Element correctly rounded reciprocal. (R291) -/
  | frcp (c : Nat) (e : Nat)
  /-- Element correctly rounded reciprocal square root. (R291) -/
  | frsq (c : Nat) (e : Nat)
  /-- Element correctly rounded 2^a. (R291) -/
  | fexp2 (c : Nat) (e : Nat)
  /-- Element correctly rounded log2 a. (R291) -/
  | flog2 (c : Nat) (e : Nat)
  /-- Element fixed-point multiplication with saturation. (R293) -/
  | qmul (c : Nat) (e : Nat)
  /-- Element fixed-point reciprocal square root, warm or cold. (R294) -/
  | qrsq (c : Nat) (e : Nat)
  /-- Element fixed-point division, warm or cold. (R294) -/
  | qdiv (c : Nat) (e : Nat)
  /-- Element regularises pivots below a threshold and counts them. (R295) -/
  | pivg (c : Nat) (e : Nat)
  /-- Element complex addition. (R296) -/
  | cadd (c : Nat) (e : Nat)
  /-- Element complex subtraction. (R296) -/
  | csub (c : Nat) (e : Nat)
  /-- Element complex multiplication with scaling. (R296) -/
  | cmul (c : Nat) (e : Nat)
  /-- Element complex multiply-accumulate, emitting the sum at END. (R296) -/
  | cmac (c : Nat) (e : Nat)
  /-- Element complex conjugate. (R296) -/
  | cconj (c : Nat) (e : Nat)
  /-- Element squared complex magnitude. (R296) -/
  | cabs2 (c : Nat) (e : Nat)
  /-- Element complex scaling by a real value. (R296) -/
  | cscl (c : Nat) (e : Nat)
  /-- Element rotates a lifted block held in a gang. (R297) -/
  | rotz (c : Nat) (e : Nat)
  /-- Element permutes the bits or bytes of a word. (R298) -/
  | perm (c : Nat) (e : Nat)
  /-- Element forms offset min-sum check-node messages over a group. (R299) -/
  | mins (c : Nat) (e : Nat)
  /-- Element adds log-likelihood ratios per lane, with hard decisions. (R300) -/
  | llrs (c : Nat) (e : Nat)
  /-- Element exclusive-or reduction. (R301) -/
  | xorr (c : Nat) (e : Nat)
  /-- Element cyclic redundancy check, emitted at END. (R302) -/
  | crcs (c : Nat) (e : Nat)
  /-- Element adds products of A and B into its exact accumulator as one block addition. (R303) -/
  | mma (c : Nat) (e : Nat)
  /-- Element adds one value into its exact accumulator. (R306) -/
  | xacc (c : Nat) (e : Nat)
  /-- Element issues gather or scatter requests on a request port and forwards responses. (R307) -/
  | req (c : Nat) (e : Nat)
  /-- Element computes a counter-based random value from the allocation's key. (R308) -/
  | rng (c : Nat) (e : Nat)
  /-- An element consumes a marker that heads every non-KEEP input and emits it on every output. (R62) -/
  | markerConsume (c : Nat) (e : Nat)
  /-- A SQUASH removes buffered DATA and pending updates of its tag, and is forwarded once it has arrived on every input. (R63) -/
  | squashArrival (c : Nat) (e : Nat) (lane : Nat)
  /-- An enable pulse arrives at an element, starting a run or a child and being forwarded. (R60) -/
  | enablePulse (c : Nat) (e : Nat)
  /-- A child's done pulse arrives at its controller node. (R31) -/
  | donePulse (c : Nat) (e : Nat) (route : Nat)
  /-- A commit pulse makes the oldest pending update permanent. (R28) -/
  | commitPulse (c : Nat) (e : Nat)
  /-- A credit pulse lowers a STEER's OUTST, or adds a free slot to a SWCH way. (R281) -/
  | creditPulse (c : Nat) (e : Nat) (route : Nat)
  /-- A switchbox carries a token from an incoming lane to an outgoing lane once there is space. (R57) -/
  | switchboxPass (c : Nat) (e : Nat) (lane : Nat)
  /-- A chain token arriving on the chain lane is forwarded on the drain route. (R305) -/
  | drainChainForward (c : Nat) (e : Nat)
  /-- After a block addition brings COUNT to KLEN, the element drains its accumulator. (R103) -/
  | klenDrain (c : Nat) (e : Nat)
  /-- An accumulator command acts at an element at a gap between firings, or after the next END with TILE. (R268) -/
  | xaCommandAct (c : Nat) (e : Nat)
  /-- An accumulator command has acted at every element and its writes are performed; with EVT it signals event 72 + LR. (R268) -/
  | xaCommandComplete (c : Nat) (id : Nat)
  /-- A reduction wave of the quiescence test completes; after the second wave RGN.QUIET finishes with quiet or active. (R42) -/
  | quiescenceWaveComplete (c : Nat) (x : Nat)
  /-- After any LOADING slot completes, a freeze wave stops the region's elements and the region is read out as an image. (R44) -/
  | freezeWave (c : Nat) (r : Nat)
  /-- A region's image is written: its elements and number are freed and event 64 + LR is signalled. (R262) -/
  | freezeImageWritten (c : Nat) (r : Nat)
  /-- A freeze image is reinstalled on a free region, restamped and rejoined, and fires again. (R46) -/
  | thawInstall (a : Nat) (c : Nat) (r : Nat)
  /-- An abort completes: issued accesses performed, unfinished items FAILED 0x7B, state and tokens dropped. (R411) -/
  | abortComplete (a : Nat) (c : Nat) (r : Nat)
  /-- Teasel places a waiting SPAWN or RGN.THAW on freed reserved elements and joins its ports. (R43) -/
  | spawnQueueService (a : Nat)
  /-- An END held at a region boundary is released once every earlier write through the region's edge ports is performed or resolved. (R157) -/
  | endRelease (c : Nat) (k : Nat)
  /-- A staging bank that holds every core's log for a round applies its entries in logical order. (R167) -/
  | detRoundApply (a : Nat)
  /-- After 2^20 cycles with an empty pool and a thread waiting, TAGA writes a record with cause 0x66. (R451) -/
  | tagdry (c : Nat) (e : Nat)
  /-- A QUEUED binding becomes ACTIVE once earlier bindings on its port have moved their last token. (R254) -/
  | bindingActivate (c : Nat) (p : Nat)
  /-- A binding moves one token between memory and its port in pattern order, converting formats. (R246) -/
  | streamMove (c : Nat) (p : Nat)
  /-- A gather binding serves one request token, returning the indexed token on the response lane. (R247) -/
  | gatherRequest (c : Nat) (p : Nat)
  /-- A scatter binding writes a data token at the index taken with it. (R247) -/
  | scatterRequest (c : Nat) (p : Nat)
  /-- An item finishes and the engine writes its status record as COMPLETE, LATE, FAILED or POISONED. (R248) -/
  | itemFinish (c : Nat) (p : Nat)
  /-- A binding becomes DONE once its last item has finished and its records are written. (R254) -/
  | bindingDone (c : Nat) (p : Nat)
  /-- A stream engine obtains the translation of a pattern's next page ahead of its position. (R124) -/
  | translateAhead (c : Nat) (p : Nat)
  /-- A sending engine pushes a channel token into a free slot of the receiving ring. (R66) -/
  | ringSend (c : Nat) (p : Nat)
  /-- A receiving engine pops a ring slot and delivers its token, or an ERROR or zero token, at its edge port. (R66) -/
  | ringDeliver (c : Nat) (p : Nat)
  /-- Freed ring slots are returned to the sending engine in units of 8 tokens. (R350) -/
  | ringSlotReturn (c : Nat) (p : Nat)
  /-- A core's memory arbiter serves the highest waiting rank, granting at most one request per cycle. (R330) -/
  | arbitrationRound (c : Nat)
  /-- The die walker reads the translation tables for a miss and fills the TLB, or ends with a fault. (R121) -/
  | walk (d : Nat) (id : Nat)
  /-- A memory home performs an access, fixing a read's value or applying a write or atomic. (R137) -/
  | accessPerformed (id : Nat)
  /-- At least every 1,024 cycles, the home tests a waiting semaphore word again. (R275) -/
  | semRetest (id : Nat)
  /-- Campion scrubs a core's dead-generation state and restarts its generation counter. (R132) -/
  | sweep (c : Nat)
  /-- Campion sweeps a die's staging buffer when its staging counter wraps. (R132) -/
  | stagingSweep (d : Nat)
  /-- A patrol scrub rewrites corrected lines at least every 24 hours. (R462) -/
  | patrolScrub (line : Nat)
  /-- An uncorrectable error in a register, accumulator, configuration word or link lane is found and handled by its location. (R462) -/
  | softErrorDetect (place : ErrorPlace)
  /-- The mark unit applies a mark to a stream's counts and delivers it, with the registers' values, to its cores and to the copy logic. (R271) -/
  | markUnitApply
  /-- A core applies a stream mark: late policy, new limits and shares, then deferred requests checked again. (R329) -/
  | markApply (c : Nat)
  /-- An EVT.SIGNAL reaches its target context and adds 1 to the event count. (R274) -/
  | eventDelivery (n : Nat)
  /-- Teasel's row 0 chooses a queue by priority and reads its next packet line. (R319) -/
  | packetRead
  /-- The earliest QTOL deadline of a pending TAIL write expires and Teasel serves every pending queue. (R336) -/
  | teaselWake (q : Nat)
  /-- A completion's QTOL deadline expires and IRQ_N is asserted. (R337) -/
  | irqToleranceExpiry (q : Nat)
  /-- A packet completes: its completion word is posted and, with IRQ, QSTAT.DONE is set. (R314) -/
  | packetComplete (id : Nat)
  /-- Teasel tries to place a LAUNCH or THAW, stamping generations and starting contexts, or holds it until resources free. (R322) -/
  | placement
  /-- A stream engine moves one piece of up to 4 KiB of a COPY, metered against the copy allowance. (R317) -/
  | copyPiece (id : Nat)
  /-- Packet that completes when it has started. (R315) -/
  | nop (q : Nat)
  /-- Packet that makes an allocation and has it placed. (R316) -/
  | launch (q : Nat)
  /-- Packet that delivers a mark to a stream through the mark unit. (R315) -/
  | mark (q : Nat)
  /-- Packet that posts a semaphore as a release of scope SYSTEM. (R315) -/
  | signal (q : Nat)
  /-- Packet that holds its queue until a semaphore wait is performed. (R315) -/
  | wait (q : Nat)
  /-- Packet that copies bytes between physical ranges in pieces. (R317) -/
  | copy (q : Nat)
  /-- Packet that holds later packets until every earlier packet of the queue has completed. (R164) -/
  | fencePacket (q : Nat)
  /-- Packet that writes a stream's limits, late policy and weight. (R315) -/
  | budget (q : Nat)
  /-- Packet that freezes an allocation's regions and contexts into an image area. (R404) -/
  | freeze (q : Nat)
  /-- Packet that checks an image area and places the frozen allocation again. (R408) -/
  | thaw (q : Nat)
  /-- Packet that aborts an allocation. (R411) -/
  | abort (q : Nat)
  /-- Packet that writes a signed report of the manifest. (R358) -/
  | attest (q : Nat)
  /-- Packet that executes the packets of a buffer in its place. (R318) -/
  | indirect (q : Nat)
  /-- Campion writes a fault record into the fault ring, or drops it, and sets QSTAT.DONE of QSEL. (R390) -/
  | faultRecordWrite
  /-- A host read burst returns window bytes at the fixed read latency. (R344) -/
  | hostRead (h : HostCmd)
  /-- A host write burst is performed on arrival, honouring the data mask. (R162) -/
  | hostWrite (h : HostCmd) (data : List (BitVec 8)) (mask : List Bool)
  /-- The host writes a mode register, which is stored or ignored. (R342) -/
  | modeRegisterWrite (n : ModeReg) (v : BitVec 8)
  /-- The host reads a mode register. (R342) -/
  | modeRegisterRead (n : ModeReg)
  /-- A refresh command is accepted and ignored. (R341) -/
  | refresh (ch : Nat)
  /-- Power-down is accepted, keeping contents while work continues. (R341) -/
  | powerDown (ch : Nat) (enter : Bool)
  /-- Self refresh is accepted, keeping contents while work continues. (R341) -/
  | selfRefresh (ch : Nat) (enter : Bool)
  /-- Host training of the command bus. (R341) -/
  | commandBusTraining (ch : Nat)
  /-- Host WCK2CK levelling. (R341) -/
  | wck2ckLevelling (ch : Nat)
  /-- A calibration read returns the stored pattern registers. (R342) -/
  | readDqCalibration (ch : Nat)
  /-- A write-training write into the write FIFO. (R341) -/
  | writeFifo (ch : Nat) (data : List (BitVec 8))
  /-- A write-training read from the read FIFO. (R341) -/
  | readFifo (ch : Nat)
  /-- The host advances a queue's TAIL, releasing its earlier writes to Teasel. (R163) -/
  | qtailWrite (q : Nat) (v : BitVec 64) (bm : BitVec 8)
  /-- A write of QSIZE sets HEAD and TAIL to 0 and enables or disables the queue. (R311) -/
  | qsizeWrite (q : Nat) (v : BitVec 64) (bm : BitVec 8)
  /-- A write of QBASE sets the ring's offset, and a misaligned ring reads as empty with a 0x61 record. (R444) -/
  | qbaseWrite (q : Nat) (v : BitVec 64) (bm : BitVec 8)
  /-- Write-one-to-clear of QSTAT.DONE or QSTAT.REFUSED. (R310) -/
  | qstatWrite (q : Nat) (v : BitVec 64) (bm : BitVec 8)
  /-- A host write to a stream's MARKW delivers one mark through the mark unit. (R313) -/
  | markwWrite (m : Nat) (v : BitVec 64) (bm : BitVec 8)
  /-- A write to BDRAM, BLINK or BLOAD reads back at once and takes effect at the next slot mark, setting PEND. (R313) -/
  | limitWrite (m : Nat) (b : Nat) (v : BitVec 64) (bm : BitVec 8)
  /-- A write to BCTL sets LATEPOL, which keeps its value for a write of 3, and WT, both effective at the next slot mark. (R313) -/
  | bctlWrite (m : Nat) (v : BitVec 64) (bm : BitVec 8)
  /-- A write of START = 1 in WAITFW, MINIMAL or after a failed start begins verification of the bundle. (R351) -/
  | bootctlStart (v : BitVec 64) (bm : BitVec 8)
  /-- Driver software accepts features, of which only offered bits are kept. (R353) -/
  | feath0Write (v : BitVec 64) (bm : BitVec 8)
  /-- A power cap write that takes effect at the next estimate. (R359) -/
  | pwrcapWrite (v : BitVec 64) (bm : BitVec 8)
  /-- Write-one-to-clear of IRQSTAT causes, which releases IRQ_N when no enabled cause remains. (R347) -/
  | irqstatWrite (v : BitVec 64) (bm : BitVec 8)
  /-- Writes the interrupt enables, which IRQ_N follows. (R347) -/
  | irqmaskWrite (v : BitVec 64) (bm : BitVec 8)
  /-- Sets up the fault ring; a change of LOG2N or OFFSET resets HEAD, TAIL and LOST. (R390) -/
  | fltringWrite (v : BitVec 64) (bm : BitVec 8)
  /-- Driver software advances HEAD of the fault ring. (R390) -/
  | fltptrWrite (v : BitVec 64) (bm : BitVec 8)
  /-- A write to a register with no behaviour of its own, such as QTOL or TLIM, stores the writable fields. (R346) -/
  | registerWrite (off : Nat) (v : BitVec 64) (bm : BitVec 8)
  /-- A die link delivers a flit in class order and returns credits. (R349) -/
  | flitReceive (l : Nat) (down : Bool) (cls : Nat)
  /-- When no flit is due within 16 cycles, a CREDIT-only flit returns credits. (R349) -/
  | creditFlit (l : Nat) (down : Bool)
  /-- After eight failed replays a link retrains and, on success, writes a 0x83 record. (R460) -/
  | linkretrain (l : Nat)
  /-- After three failed retrains the link is down, the affected allocations are aborted, and traffic reroutes. (R461) -/
  | linkdown (l : Nat)
  /-- Every 0.5 µs the port die estimates power and temperature and moves the ladder one step. (R339) -/
  | powerEstimate (est : BitVec 32) (temps : List (BitVec 8))
  /-- At 125 °C the compute dies and Campion are held in reset and the device enters MINIMAL. (R466) -/
  | thermalTrip
  /-- The boot ROM brings up the host port and security complex in WAITFW. (R351) -/
  | powerOn
  /-- The security complex finishes checking the bundle and either starts INIT or fails the start. (R352) -/
  | bundleVerify
  /-- Campion finishes INIT, and the device reaches READY and sets IRQSTAT.BOOT. (R351) -/
  | initComplete (res : InitResult)
  /-- Campion does not reach INIT within 10 ms, and the start fails with REASON 0x10. (R464) -/
  | campionTimeout
  /-- A debugger's read or write of a granule, register, element state register or accumulator through Campion's service path, taking its place in the granule's per-location order. (R135) -/
  | serviceAccess (o : ServiceOp)
  /-- Each cycle, for each link and direction, the die-link interface serves the highest waiting rank of flits, granting up to WT + 1 flits per source. (R331) -/
  | linkArbitrationRound (l : Nat) (down : Bool)
deriving DecidableEq, Repr

end Sys2Proof
end

