-- ==== Sys2Proof/Decode.lean ====
section
/-! DEFINITION. From the bits of a body word to an instruction or a named rejection, and back. The field
positions are those of R176 to R180, R208, R210, R217, R223, R226 to R228, R233, R234 and R239; the order of the
checks is that of R413, checks 4 to 7. Check 8 (targets) needs the whole block: it is part of BLOCK_FETCH. -/

namespace Sys2Proof

/-- Why a body word is no instruction (R412, R413). -/
inductive Reject where
  | reservedOp      -- 0x05 RSVOP
  | reservedPred    -- 0x06 RSVPRED
  | reservedBits    -- 0x07 RSVBITS
  | csrNumber       -- 0x0E CSRNUM
deriving DecidableEq, Repr

/-- The cause code of a rejection (R412). -/
def Reject.cause : Reject → Nat
  | .reservedOp => 0x05
  | .reservedPred => 0x06
  | .reservedBits => 0x07
  | .csrNumber => 0x0E

def Pred.bits : Pred → BitVec 2
  | .always => 0
  | .onTrue => 1
  | .onFalse => 2

/-- The predicate field of R176; 11 is reserved. -/
def Pred.ofBits (b : BitVec 2) : Option Pred :=
  if b = 0 then some .always else if b = 1 then some .onTrue else if b = 2 then some .onFalse else none

/-- Ordering codes (R143). -/
def Ord.bits : Ord → BitVec 2
  | .rlx => 0
  | .acq => 1
  | .rel => 2
  | .ar => 3

def Ord.ofBits (b : BitVec 2) : Ord :=
  if b = 0 then .rlx else if b = 1 then .acq else if b = 2 then .rel else .ar

/-- Scope codes (R142). -/
def Scope.bits : Scope → BitVec 2
  | .core => 0
  | .die => 1
  | .device => 2
  | .system => 3

def Scope.ofBits (b : BitVec 2) : Scope :=
  if b = 0 then .core else if b = 1 then .die else if b = 2 then .device else .system

/-- A body word cut at the bounds that all formats share (R178): [31:25], [24:23], [22:18], [17:9], [8:0]. -/
structure Fields where
  op : BitVec 7
  p : BitVec 2
  a : BitVec 5
  b : BitVec 9
  c : BitVec 9
deriving DecidableEq, Repr

def unpack (w : W32) : Fields :=
  { op := w.extractLsb' 25 7, p := w.extractLsb' 23 2, a := w.extractLsb' 18 5, b := w.extractLsb' 9 9,
    c := w.extractLsb' 0 9 }

def pack (f : Fields) : W32 := f.op ++ f.p ++ f.a ++ f.b ++ f.c

/-- XOP[4], the width bit of classes 001, 010 and 011 (R205). -/
def Fields.wide (f : Fields) : Bool := f.a.getLsbD 4

/-- EXIT of format X. -/
def Fields.exitNo (f : Fields) : BitVec 3 := f.a.extractLsb' 2 3

/-- OFFS20 of format X. -/
def Fields.offs20 (f : Fields) : BitVec 20 := f.a.extractLsb' 0 2 ++ f.b ++ f.c

/-- XOP[2:0] * 512 + FIELD (R233). -/
def Fields.csrNo (f : Fields) : BitVec 12 := f.a.extractLsb' 0 3 ++ f.b

/-- The register numbers that R171 lists below 0x800. -/
def csrListed (n : BitVec 12) : Bool :=
  let k := n.toNat
  k ≤ 4 || (8 ≤ k && k ≤ 0xC) || k == 0x10 || k == 0x11 || k == 0x20 || k == 0x21 || k == 0x22 || k == 0x30
    || k == 0x40 || k == 0x41 || (0x100 ≤ k && k ≤ 0x10F)

/-- What an opcode and XOP stand for, before the checks of R413 that follow the opcode's: the instruction under
its predicate, whether the reserved bits are zero, whether only predicate 00 is allowed, and a CSR number. -/
structure Draft where
  under : Pred → Instr
  zero : Bool := true
  alwaysOnly : Bool := false
  csr : Option (BitVec 12) := none

/-- The operations of opcode 0x10, XOP in listed order (R179). -/
def decodeArith (f : Fields) : Option Draft :=
  match f.a.extractLsb' 0 4 with
  | 0 => some { under := fun p => .add p f.wide f.b f.c }
  | 1 => some { under := fun p => .sub p f.wide f.b f.c }
  | 2 => some { under := fun p => .mul p f.wide f.b f.c }
  | 3 => some { under := fun p => .mulh p f.wide f.b f.c }
  | 4 => some { under := fun p => .mulhu p f.wide f.b f.c }
  | 5 => some { under := fun p => .div p f.wide f.b f.c }
  | 6 => some { under := fun p => .divu p f.wide f.b f.c }
  | 7 => some { under := fun p => .rem p f.wide f.b f.c }
  | 8 => some { under := fun p => .remu p f.wide f.b f.c }
  | 9 => some { under := fun p => .min p f.wide f.b f.c }
  | 10 => some { under := fun p => .max p f.wide f.b f.c }
  | 11 => some { under := fun p => .minu p f.wide f.b f.c }
  | 12 => some { under := fun p => .maxu p f.wide f.b f.c }
  | _ => none

/-- The operations of opcode 0x11, XOP in listed order (R179). -/
def decodeLogic (f : Fields) : Option Draft :=
  match f.a.extractLsb' 0 4 with
  | 0 => some { under := fun p => .and p f.wide f.b f.c }
  | 1 => some { under := fun p => .or p f.wide f.b f.c }
  | 2 => some { under := fun p => .xor p f.wide f.b f.c }
  | 3 => some { under := fun p => .andn p f.wide f.b f.c }
  | 4 => some { under := fun p => .orn p f.wide f.b f.c }
  | 5 => some { under := fun p => .shl p f.wide f.b f.c }
  | 6 => some { under := fun p => .shr p f.wide f.b f.c }
  | 7 => some { under := fun p => .sra p f.wide f.b f.c }
  | 8 => some { under := fun p => .rol p f.wide f.b f.c }
  | 9 => some { under := fun p => .ror p f.wide f.b f.c }
  | 10 => some { under := fun p => .bfx p f.wide f.b f.c }
  | _ => none

/-- The operations of opcode 0x12, XOP in listed order (R179). -/
def decodeUnary (f : Fields) : Option Draft :=
  match f.a.extractLsb' 0 4 with
  | 0 => some { under := fun p => .clz p f.wide f.b f.c }
  | 1 => some { under := fun p => .ctz p f.wide f.b f.c }
  | 2 => some { under := fun p => .popc p f.wide f.b f.c }
  | 3 => some { under := fun p => .brev p f.wide f.b f.c }
  | 4 => some { under := fun p => .bswap p f.wide f.b f.c }
  | 5 => some { under := fun p => .neg p f.wide f.b f.c }
  | 6 => some { under := fun p => .not p f.wide f.b f.c }
  | 7 => some { under := fun p => .sext8 p f.wide f.b f.c }
  | 8 => some { under := fun p => .sext16 p f.wide f.b f.c }
  | 9 => some { under := fun p => .sext32 p f.wide f.b f.c }
  | 10 => some { under := fun p => .zext8 p f.wide f.b f.c }
  | 11 => some { under := fun p => .zext16 p f.wide f.b f.c }
  | 12 => some { under := fun p => .zext32 p f.wide f.b f.c }
  | _ => none

/-- The operations of opcode 0x20, XOP in listed order (R179). -/
def decodeImm (f : Fields) : Option Draft :=
  match f.a.extractLsb' 0 4 with
  | 0 => some { under := fun p => .addi p f.wide f.b f.c }
  | 1 => some { under := fun p => .andi p f.wide f.b f.c }
  | 2 => some { under := fun p => .ori p f.wide f.b f.c }
  | 3 => some { under := fun p => .xori p f.wide f.b f.c }
  | 4 => some { under := fun p => .shli p f.wide f.b f.c }
  | 5 => some { under := fun p => .shri p f.wide f.b f.c }
  | 6 => some { under := fun p => .srai p f.wide f.b f.c }
  | 7 => some { under := fun p => .muli p f.wide f.b f.c }
  | _ => none

/-- The operations of opcode 0x30, XOP in listed order (R179). -/
def decodeTest (f : Fields) : Option Draft :=
  match f.a.extractLsb' 0 4 with
  | 0 => some { under := fun p => .teq p f.wide f.b f.c }
  | 1 => some { under := fun p => .tne p f.wide f.b f.c }
  | 2 => some { under := fun p => .tlt p f.wide f.b f.c }
  | 3 => some { under := fun p => .tle p f.wide f.b f.c }
  | 4 => some { under := fun p => .tltu p f.wide f.b f.c }
  | 5 => some { under := fun p => .tleu p f.wide f.b f.c }
  | _ => none

/-- The operations of opcode 0x31, XOP in listed order (R179). -/
def decodeTestImm (f : Fields) : Option Draft :=
  match f.a.extractLsb' 0 4 with
  | 0 => some { under := fun p => .teqi p f.wide f.b f.c }
  | 1 => some { under := fun p => .tnei p f.wide f.b f.c }
  | 2 => some { under := fun p => .tlti p f.wide f.b f.c }
  | 3 => some { under := fun p => .tlei p f.wide f.b f.c }
  | 4 => some { under := fun p => .tgti p f.wide f.b f.c }
  | 5 => some { under := fun p => .tgei p f.wide f.b f.c }
  | 6 => some { under := fun p => .tltui p f.wide f.b f.c }
  | 7 => some { under := fun p => .tgtui p f.wide f.b f.c }
  | _ => none

/-- The atomics of opcode 0x4D (R180); AMOCAS takes W = 1. -/
def decodeAtomic (f : Fields) : Option Draft :=
  let o := Ord.ofBits (f.b.extractLsb' 3 2)
  let sc := Scope.ofBits (f.b.extractLsb' 1 2)
  let w := f.b.getLsbD 0
  match f.b.extractLsb' 5 4 with
  | 0 => some { under := fun p => .amoadd p f.a o sc w f.c }
  | 1 => some { under := fun p => .amoswp p f.a o sc w f.c }
  | 2 => some { under := fun p => .amoand p f.a o sc w f.c }
  | 3 => some { under := fun p => .amoor p f.a o sc w f.c }
  | 4 => some { under := fun p => .amoxor p f.a o sc w f.c }
  | 5 => some { under := fun p => .amomin p f.a o sc w f.c }
  | 6 => some { under := fun p => .amomax p f.a o sc w f.c }
  | 7 => some { under := fun p => .amominu p f.a o sc w f.c }
  | 8 => some { under := fun p => .amomaxu p f.a o sc w f.c }
  | 9 => if w then some { under := fun p => .amocas p f.a o sc f.c } else none
  | _ => none

/-- The commands of opcode 0x60 with the FIELD layout of R239. -/
def decodeCfg (f : Fields) : Option Draft :=
  match f.a with
  | 0 => some { under := fun p => .cfgLoad p (f.b.extractLsb' 6 3) (f.b.extractLsb' 4 2) (f.b.getLsbD 3), zero := f.b.extractLsb' 0 3 == 0 && f.c == 0 }
  | 1 => some { under := fun p => .cfgWr p (f.b.extractLsb' 6 3), zero := f.b.extractLsb' 0 6 == 0 && f.c == 0 }
  | 2 => some { under := fun p => .cfgSwap p (f.b.extractLsb' 6 3) (f.b.extractLsb' 4 2) (f.b.getLsbD 3) (f.b.getLsbD 2) f.c, zero := f.b.extractLsb' 0 2 == 0 }
  | 3 => some { under := fun p => .cfgRetire p (f.b.extractLsb' 6 3) (f.b.extractLsb' 4 2), zero := f.b.extractLsb' 0 4 == 0 && f.c == 0 }
  | 4 => some { under := fun p => .cfgStat p (f.b.extractLsb' 6 3) f.c, zero := f.b.extractLsb' 0 6 == 0 }
  | _ => none

/-- The commands of opcode 0x61 with the FIELD layout of R239. -/
def decodeStr (f : Fields) : Option Draft :=
  match f.a with
  | 0 => some { under := fun p => .strBind p (f.b.extractLsb' 7 2) (f.b.extractLsb' 3 4) (f.b.getLsbD 2) (f.b.getLsbD 1) (f.b.getLsbD 0) f.c }
  | 1 => some { under := fun p => .strGo p (f.b.getLsbD 0), zero := f.b.extractLsb' 1 8 == 0 && f.c == 0 }
  | 2 => some { under := fun p => .strCancel p, zero := f.b.extractLsb' 0 9 == 0 && f.c == 0 }
  | 3 => some { under := fun p => .strWait p f.c, zero := f.b.extractLsb' 0 9 == 0 }
  | 4 => some { under := fun p => .strPush p (f.b.extractLsb' 5 4) (f.b.extractLsb' 3 2) (f.b.getLsbD 2), zero := f.b.extractLsb' 0 2 == 0 && f.c == 0 }
  | 5 => some { under := fun p => .strPop p (f.b.extractLsb' 5 4) (f.b.extractLsb' 3 2) (f.b.getLsbD 2) f.c, zero := f.b.extractLsb' 0 2 == 0 }
  | 6 => some { under := fun p => .strStat p (f.b.getLsbD 8) (f.b.extractLsb' 6 2) (f.b.extractLsb' 0 4) f.c, zero := f.b.extractLsb' 4 2 == 0 }
  | _ => none

/-- The commands of opcode 0x62 with the FIELD layout of R239. -/
def decodeRgn (f : Fields) : Option Draft :=
  match f.a with
  | 0 => some { under := fun p => .rgnArm p (f.b.extractLsb' 6 3) (f.b.extractLsb' 3 3), zero := f.b.extractLsb' 0 3 == 0 && f.c == 0 }
  | 1 => some { under := fun p => .rgnFreeze p (f.b.extractLsb' 6 3), zero := f.b.extractLsb' 0 6 == 0 && f.c == 0 }
  | 2 => some { under := fun p => .rgnThaw p (f.b.extractLsb' 6 3), zero := f.b.extractLsb' 0 6 == 0 && f.c == 0 }
  | 3 => some { under := fun p => .rgnAbort p (f.b.extractLsb' 6 3), zero := f.b.extractLsb' 0 6 == 0 && f.c == 0 }
  | 4 => some { under := fun p => .rgnQuiet p (f.b.extractLsb' 6 3) (f.b.getLsbD 5) f.c, zero := f.b.extractLsb' 0 5 == 0 }
  | 5 => some { under := fun p => .rgnStat p (f.b.extractLsb' 6 3) f.c, zero := f.b.extractLsb' 0 6 == 0 }
  | 6 => some { under := fun p => .spawn p (f.b.extractLsb' 6 3) f.c, zero := f.b.extractLsb' 0 6 == 0 }
  | _ => none

/-- The commands of opcode 0x63 with the FIELD layout of R239. -/
def decodeXa (f : Fields) : Option Draft :=
  match f.a with
  | 0 => some { under := fun p => .xaClr p (f.b.extractLsb' 6 3) (f.b.getLsbD 5) (f.b.getLsbD 4), zero := f.b.extractLsb' 0 4 == 0 && f.c == 0 }
  | 1 => some { under := fun p => .xaDrain p (f.b.extractLsb' 6 3) (f.b.getLsbD 5) (f.b.getLsbD 4) (f.b.getLsbD 3), zero := f.b.extractLsb' 0 3 == 0 && f.c == 0 }
  | 2 => some { under := fun p => .xaSpill p (f.b.extractLsb' 6 3) (f.b.getLsbD 5) (f.b.getLsbD 4), zero := f.b.extractLsb' 0 4 == 0 && f.c == 0 }
  | 3 => some { under := fun p => .xaFill p (f.b.extractLsb' 6 3) (f.b.getLsbD 5) (f.b.getLsbD 4), zero := f.b.extractLsb' 0 4 == 0 && f.c == 0 }
  | 4 => some { under := fun p => .xaMerge p (f.b.extractLsb' 6 3) (f.b.getLsbD 5) (f.b.getLsbD 4), zero := f.b.extractLsb' 0 4 == 0 && f.c == 0 }
  | 5 => some { under := fun p => .xaStat p (f.b.extractLsb' 6 3) f.c, zero := f.b.extractLsb' 0 6 == 0 }
  | _ => none

/-- The commands of opcode 0x64 with the FIELD layout of R239. -/
def decodeSync (f : Fields) : Option Draft :=
  match f.a with
  | 0 => some { under := fun p => .markWait p (f.b.getLsbD 8) f.c, zero := f.b.extractLsb' 0 8 == 0 }
  | 1 => some { under := fun p => .markRaise p (f.b.getLsbD 8) (f.b.extractLsb' 0 5), zero := f.b.extractLsb' 5 3 == 0 && f.c == 0 }
  | 2 => some { under := fun p => .evtWait p (f.b.extractLsb' 0 7) f.c, zero := f.b.extractLsb' 7 2 == 0 }
  | 3 => some { under := fun p => .evtSignal p (f.b.extractLsb' 0 7), zero := f.b.extractLsb' 7 2 == 0 && f.c == 0 }
  | 4 => some { under := fun p => .semWait p (Ord.ofBits (f.b.extractLsb' 2 2)) (Scope.ofBits (f.b.extractLsb' 0 2)) f.c, zero := f.b.extractLsb' 4 5 == 0 }
  | 5 => some { under := fun p => .semPost p (Ord.ofBits (f.b.extractLsb' 2 2)) (Scope.ofBits (f.b.extractLsb' 0 2)) f.c, zero := f.b.extractLsb' 4 5 == 0 }
  | _ => none

/-- The operations of opcode 0x70, XOP in listed order (R179). -/
def decodeFloat (f : Fields) : Option Draft :=
  match f.a with
  | 0 => some { under := fun p => .fadd p f.b f.c }
  | 1 => some { under := fun p => .fsub p f.b f.c }
  | 2 => some { under := fun p => .fmul p f.b f.c }
  | 3 => some { under := fun p => .fdiv p f.b f.c }
  | 4 => some { under := fun p => .fsqrt p f.b f.c }
  | 5 => some { under := fun p => .fmin p f.b f.c }
  | 6 => some { under := fun p => .fmax p f.b f.c }
  | 7 => some { under := fun p => .fabs p f.b f.c }
  | 8 => some { under := fun p => .fneg p f.b f.c }
  | _ => none

/-- The operations of opcode 0x71, XOP in listed order (R179). -/
def decodeFcmp (f : Fields) : Option Draft :=
  match f.a with
  | 0 => some { under := fun p => .fcmpEq p f.b f.c }
  | 1 => some { under := fun p => .fcmpLt p f.b f.c }
  | 2 => some { under := fun p => .fcmpLe p f.b f.c }
  | 3 => some { under := fun p => .fcmpUn p f.b f.c }
  | _ => none

/-- The operations of opcode 0x72, XOP in listed order (R179). -/
def decodeFcvt (f : Fields) : Option Draft :=
  match f.a with
  | 0 => some { under := fun p => .fcvtS32F p f.b f.c }
  | 1 => some { under := fun p => .fcvtS64F p f.b f.c }
  | 2 => some { under := fun p => .fcvtFS32 p f.b f.c }
  | 3 => some { under := fun p => .fcvtFS64 p f.b f.c }
  | 4 => some { under := fun p => .fcvtFN64 p f.b f.c }
  | 5 => some { under := fun p => .fcvtBf16F p f.b f.c }
  | 6 => some { under := fun p => .fcvtFBf16 p f.b f.c }
  | 7 => some { under := fun p => .fcvtFp16F p f.b f.c }
  | 8 => some { under := fun p => .fcvtFFp16 p f.b f.c }
  | _ => none

/-- The opcode map (R179); `none` for a reserved opcode, XOP or AOP. -/
def decodeOp (f : Fields) : Option Draft :=
  match f.op with
  | 0x01 => some { under := fun p => .read p f.a f.b f.c }
  | 0x02 => some { under := fun p => .write p f.a, zero := f.b == 0 && f.c == 0 }
  | 0x03 => some { under := fun p => .movi p (f.a ++ f.b) f.c }
  | 0x04 => some { under := fun p => .appi p (f.a ++ f.b) f.c }
  | 0x05 => if f.a = 0 then some { under := fun p => .mov p f.b f.c } else none
  | 0x06 => if f.a = 0 then some { under := fun _ => .sel f.b f.c, alwaysOnly := true } else none
  | 0x07 => some { under := fun p => .nullw p f.a, zero := f.b == 0 && f.c == 0 }
  | 0x08 => some { under := fun p => .nulls p f.a, zero := f.b == 0 && f.c == 0 }
  | 0x10 => decodeArith f
  | 0x11 => decodeLogic f
  | 0x12 => decodeUnary f
  | 0x20 => decodeImm f
  | 0x30 => decodeTest f
  | 0x31 => decodeTestImm f
  | 0x40 => some { under := fun p => .ldb p f.a f.b f.c }
  | 0x41 => some { under := fun p => .ldbx p f.a f.b f.c }
  | 0x42 => some { under := fun p => .ldh p f.a f.b f.c }
  | 0x43 => some { under := fun p => .ldhx p f.a f.b f.c }
  | 0x44 => some { under := fun p => .ldw p f.a f.b f.c }
  | 0x45 => some { under := fun p => .ldwx p f.a f.b f.c }
  | 0x46 => some { under := fun p => .ldd p f.a f.b f.c }
  | 0x47 => some { under := fun p => .lda p f.a f.b f.c }
  | 0x48 => some { under := fun p => .stb p f.a f.b, zero := f.c == 0 }
  | 0x49 => some { under := fun p => .sth p f.a f.b, zero := f.c == 0 }
  | 0x4a => some { under := fun p => .stw p f.a f.b, zero := f.c == 0 }
  | 0x4b => some { under := fun p => .std p f.a f.b, zero := f.c == 0 }
  | 0x4c => some { under := fun p => .stl p f.a f.b, zero := f.c == 0 }
  | 0x4d => decodeAtomic f
  | 0x4e => some { under := fun p => .fence p f.a (Scope.ofBits (f.b.extractLsb' 1 2)), zero := f.b.extractLsb' 3 6 == 0 && f.b.extractLsb' 0 1 == 0 && f.c == 0 }
  | 0x50 => some { under := fun p => .bri p f.exitNo f.offs20 }
  | 0x51 => some { under := fun p => .calli p f.exitNo f.offs20 }
  | 0x52 => some { under := fun p => .br p f.exitNo, zero := f.offs20 == 0 }
  | 0x53 => some { under := fun p => .call p f.exitNo, zero := f.offs20 == 0 }
  | 0x54 => some { under := fun p => .scall p f.exitNo f.offs20 }
  | 0x55 => some { under := fun p => .trap p f.exitNo f.offs20 }
  | 0x56 => some { under := fun p => .halt p f.exitNo, zero := f.offs20 == 0 }
  | 0x57 => some { under := fun p => .eret p f.exitNo, zero := f.offs20 == 0 }
  | 0x58 => some { under := fun p => .csrr p f.csrNo f.c, zero := f.a.extractLsb' 3 2 == 0, csr := some f.csrNo }
  | 0x59 => some { under := fun p => .csrw p f.csrNo, zero := f.a.extractLsb' 3 2 == 0 && f.c == 0, csr := some f.csrNo }
  | 0x60 => decodeCfg f
  | 0x61 => decodeStr f
  | 0x62 => decodeRgn f
  | 0x63 => decodeXa f
  | 0x64 => decodeSync f
  | 0x70 => decodeFloat f
  | 0x71 => decodeFcmp f
  | 0x72 => decodeFcvt f
  | _ => none

/-- Checks 4 to 7 of R413, in that order. -/
def decodeFields (f : Fields) : Except Reject Instr :=
  match decodeOp f with
  | none => .error .reservedOp
  | some d =>
    match Pred.ofBits f.p with
    | none => .error .reservedPred
    | some p =>
      if d.alwaysOnly && p != .always then .error .reservedPred
      else if !d.zero then .error .reservedBits
      else if (match d.csr with | some n => !csrListed n | none => false) then .error .csrNumber
      else .ok (d.under p)

/-- The instruction a body word holds, or the first check it fails. -/
def decode (w : W32) : Except Reject Instr := decodeFields (unpack w)

/-- XOP of a form with a width bit. -/
def xopW (w : Bool) (op : BitVec 4) : BitVec 5 := BitVec.ofBool w ++ op

/-- IMM9 of an atomic (R180): AOP, ordering code, scope code, W. -/
def aopBits (aop : BitVec 4) (o : Ord) (sc : Scope) (w : Bool) : BitVec 9 :=
  aop ++ o.bits ++ sc.bits ++ BitVec.ofBool w

/-- The fields of a body word; `none` for the steps that no word encodes. -/
def encodeFields : Instr → Option Fields
  | .read p g t0 t1 => some ⟨0x01, p.bits, g, t0, t1⟩
  | .write p g => some ⟨0x02, p.bits, g, 0, 0⟩
  | .movi p imm t0 => some ⟨0x03, p.bits, imm.extractLsb' 9 5, imm.extractLsb' 0 9, t0⟩
  | .appi p imm t0 => some ⟨0x04, p.bits, imm.extractLsb' 9 5, imm.extractLsb' 0 9, t0⟩
  | .mov p t0 t1 => some ⟨0x05, p.bits, 0, t0, t1⟩
  | .sel t0 t1 => some ⟨0x06, 0, 0, t0, t1⟩
  | .nullw p g => some ⟨0x07, p.bits, g, 0, 0⟩
  | .nulls p l => some ⟨0x08, p.bits, l, 0, 0⟩
  | .add p w t0 t1 => some ⟨0x10, p.bits, xopW w 0, t0, t1⟩
  | .sub p w t0 t1 => some ⟨0x10, p.bits, xopW w 1, t0, t1⟩
  | .mul p w t0 t1 => some ⟨0x10, p.bits, xopW w 2, t0, t1⟩
  | .mulh p w t0 t1 => some ⟨0x10, p.bits, xopW w 3, t0, t1⟩
  | .mulhu p w t0 t1 => some ⟨0x10, p.bits, xopW w 4, t0, t1⟩
  | .div p w t0 t1 => some ⟨0x10, p.bits, xopW w 5, t0, t1⟩
  | .divu p w t0 t1 => some ⟨0x10, p.bits, xopW w 6, t0, t1⟩
  | .rem p w t0 t1 => some ⟨0x10, p.bits, xopW w 7, t0, t1⟩
  | .remu p w t0 t1 => some ⟨0x10, p.bits, xopW w 8, t0, t1⟩
  | .min p w t0 t1 => some ⟨0x10, p.bits, xopW w 9, t0, t1⟩
  | .max p w t0 t1 => some ⟨0x10, p.bits, xopW w 10, t0, t1⟩
  | .minu p w t0 t1 => some ⟨0x10, p.bits, xopW w 11, t0, t1⟩
  | .maxu p w t0 t1 => some ⟨0x10, p.bits, xopW w 12, t0, t1⟩
  | .and p w t0 t1 => some ⟨0x11, p.bits, xopW w 0, t0, t1⟩
  | .or p w t0 t1 => some ⟨0x11, p.bits, xopW w 1, t0, t1⟩
  | .xor p w t0 t1 => some ⟨0x11, p.bits, xopW w 2, t0, t1⟩
  | .andn p w t0 t1 => some ⟨0x11, p.bits, xopW w 3, t0, t1⟩
  | .orn p w t0 t1 => some ⟨0x11, p.bits, xopW w 4, t0, t1⟩
  | .shl p w t0 t1 => some ⟨0x11, p.bits, xopW w 5, t0, t1⟩
  | .shr p w t0 t1 => some ⟨0x11, p.bits, xopW w 6, t0, t1⟩
  | .sra p w t0 t1 => some ⟨0x11, p.bits, xopW w 7, t0, t1⟩
  | .rol p w t0 t1 => some ⟨0x11, p.bits, xopW w 8, t0, t1⟩
  | .ror p w t0 t1 => some ⟨0x11, p.bits, xopW w 9, t0, t1⟩
  | .bfx p w t0 t1 => some ⟨0x11, p.bits, xopW w 10, t0, t1⟩
  | .clz p w t0 t1 => some ⟨0x12, p.bits, xopW w 0, t0, t1⟩
  | .ctz p w t0 t1 => some ⟨0x12, p.bits, xopW w 1, t0, t1⟩
  | .popc p w t0 t1 => some ⟨0x12, p.bits, xopW w 2, t0, t1⟩
  | .brev p w t0 t1 => some ⟨0x12, p.bits, xopW w 3, t0, t1⟩
  | .bswap p w t0 t1 => some ⟨0x12, p.bits, xopW w 4, t0, t1⟩
  | .neg p w t0 t1 => some ⟨0x12, p.bits, xopW w 5, t0, t1⟩
  | .not p w t0 t1 => some ⟨0x12, p.bits, xopW w 6, t0, t1⟩
  | .sext8 p w t0 t1 => some ⟨0x12, p.bits, xopW w 7, t0, t1⟩
  | .sext16 p w t0 t1 => some ⟨0x12, p.bits, xopW w 8, t0, t1⟩
  | .sext32 p w t0 t1 => some ⟨0x12, p.bits, xopW w 9, t0, t1⟩
  | .zext8 p w t0 t1 => some ⟨0x12, p.bits, xopW w 10, t0, t1⟩
  | .zext16 p w t0 t1 => some ⟨0x12, p.bits, xopW w 11, t0, t1⟩
  | .zext32 p w t0 t1 => some ⟨0x12, p.bits, xopW w 12, t0, t1⟩
  | .addi p w imm t0 => some ⟨0x20, p.bits, xopW w 0, imm, t0⟩
  | .andi p w imm t0 => some ⟨0x20, p.bits, xopW w 1, imm, t0⟩
  | .ori p w imm t0 => some ⟨0x20, p.bits, xopW w 2, imm, t0⟩
  | .xori p w imm t0 => some ⟨0x20, p.bits, xopW w 3, imm, t0⟩
  | .shli p w imm t0 => some ⟨0x20, p.bits, xopW w 4, imm, t0⟩
  | .shri p w imm t0 => some ⟨0x20, p.bits, xopW w 5, imm, t0⟩
  | .srai p w imm t0 => some ⟨0x20, p.bits, xopW w 6, imm, t0⟩
  | .muli p w imm t0 => some ⟨0x20, p.bits, xopW w 7, imm, t0⟩
  | .teq p w t0 t1 => some ⟨0x30, p.bits, xopW w 0, t0, t1⟩
  | .tne p w t0 t1 => some ⟨0x30, p.bits, xopW w 1, t0, t1⟩
  | .tlt p w t0 t1 => some ⟨0x30, p.bits, xopW w 2, t0, t1⟩
  | .tle p w t0 t1 => some ⟨0x30, p.bits, xopW w 3, t0, t1⟩
  | .tltu p w t0 t1 => some ⟨0x30, p.bits, xopW w 4, t0, t1⟩
  | .tleu p w t0 t1 => some ⟨0x30, p.bits, xopW w 5, t0, t1⟩
  | .teqi p w imm t0 => some ⟨0x31, p.bits, xopW w 0, imm, t0⟩
  | .tnei p w imm t0 => some ⟨0x31, p.bits, xopW w 1, imm, t0⟩
  | .tlti p w imm t0 => some ⟨0x31, p.bits, xopW w 2, imm, t0⟩
  | .tlei p w imm t0 => some ⟨0x31, p.bits, xopW w 3, imm, t0⟩
  | .tgti p w imm t0 => some ⟨0x31, p.bits, xopW w 4, imm, t0⟩
  | .tgei p w imm t0 => some ⟨0x31, p.bits, xopW w 5, imm, t0⟩
  | .tltui p w imm t0 => some ⟨0x31, p.bits, xopW w 6, imm, t0⟩
  | .tgtui p w imm t0 => some ⟨0x31, p.bits, xopW w 7, imm, t0⟩
  | .ldb p l imm t0 => some ⟨0x40, p.bits, l, imm, t0⟩
  | .ldbx p l imm t0 => some ⟨0x41, p.bits, l, imm, t0⟩
  | .ldh p l imm t0 => some ⟨0x42, p.bits, l, imm, t0⟩
  | .ldhx p l imm t0 => some ⟨0x43, p.bits, l, imm, t0⟩
  | .ldw p l imm t0 => some ⟨0x44, p.bits, l, imm, t0⟩
  | .ldwx p l imm t0 => some ⟨0x45, p.bits, l, imm, t0⟩
  | .ldd p l imm t0 => some ⟨0x46, p.bits, l, imm, t0⟩
  | .lda p l imm t0 => some ⟨0x47, p.bits, l, imm, t0⟩
  | .stb p l imm => some ⟨0x48, p.bits, l, imm, 0⟩
  | .sth p l imm => some ⟨0x49, p.bits, l, imm, 0⟩
  | .stw p l imm => some ⟨0x4a, p.bits, l, imm, 0⟩
  | .std p l imm => some ⟨0x4b, p.bits, l, imm, 0⟩
  | .stl p l imm => some ⟨0x4c, p.bits, l, imm, 0⟩
  | .amoadd p l o sc w t0 => some ⟨0x4d, p.bits, l, aopBits 0 o sc w, t0⟩
  | .amoswp p l o sc w t0 => some ⟨0x4d, p.bits, l, aopBits 1 o sc w, t0⟩
  | .amoand p l o sc w t0 => some ⟨0x4d, p.bits, l, aopBits 2 o sc w, t0⟩
  | .amoor p l o sc w t0 => some ⟨0x4d, p.bits, l, aopBits 3 o sc w, t0⟩
  | .amoxor p l o sc w t0 => some ⟨0x4d, p.bits, l, aopBits 4 o sc w, t0⟩
  | .amomin p l o sc w t0 => some ⟨0x4d, p.bits, l, aopBits 5 o sc w, t0⟩
  | .amomax p l o sc w t0 => some ⟨0x4d, p.bits, l, aopBits 6 o sc w, t0⟩
  | .amominu p l o sc w t0 => some ⟨0x4d, p.bits, l, aopBits 7 o sc w, t0⟩
  | .amomaxu p l o sc w t0 => some ⟨0x4d, p.bits, l, aopBits 8 o sc w, t0⟩
  | .amocas p l o sc t0 => some ⟨0x4d, p.bits, l, aopBits 9 o sc true, t0⟩
  | .fence p l sc => some ⟨0x4e, p.bits, l, (0 : BitVec 6) ++ sc.bits ++ (0 : BitVec 1), 0⟩
  | .bri p e offs => some ⟨0x50, p.bits, e ++ offs.extractLsb' 18 2, offs.extractLsb' 9 9, offs.extractLsb' 0 9⟩
  | .calli p e offs => some ⟨0x51, p.bits, e ++ offs.extractLsb' 18 2, offs.extractLsb' 9 9, offs.extractLsb' 0 9⟩
  | .br p e => some ⟨0x52, p.bits, e ++ (0 : BitVec 2), 0, 0⟩
  | .call p e => some ⟨0x53, p.bits, e ++ (0 : BitVec 2), 0, 0⟩
  | .scall p e code => some ⟨0x54, p.bits, e ++ code.extractLsb' 18 2, code.extractLsb' 9 9, code.extractLsb' 0 9⟩
  | .trap p e code => some ⟨0x55, p.bits, e ++ code.extractLsb' 18 2, code.extractLsb' 9 9, code.extractLsb' 0 9⟩
  | .halt p e => some ⟨0x56, p.bits, e ++ (0 : BitVec 2), 0, 0⟩
  | .eret p e => some ⟨0x57, p.bits, e ++ (0 : BitVec 2), 0, 0⟩
  | .csrr p n t0 => some ⟨0x58, p.bits, (0 : BitVec 2) ++ n.extractLsb' 9 3, n.extractLsb' 0 9, t0⟩
  | .csrw p n => some ⟨0x59, p.bits, (0 : BitVec 2) ++ n.extractLsb' 9 3, n.extractLsb' 0 9, 0⟩
  | .cfgLoad p r sl full => some ⟨0x60, p.bits, 0, r ++ sl ++ BitVec.ofBool full ++ (0 : BitVec 3), 0⟩
  | .cfgWr p r => some ⟨0x60, p.bits, 1, r ++ (0 : BitVec 6), 0⟩
  | .cfgSwap p r sl drained reset t0 => some ⟨0x60, p.bits, 2, r ++ sl ++ BitVec.ofBool drained ++ BitVec.ofBool reset ++ (0 : BitVec 2), t0⟩
  | .cfgRetire p r sl => some ⟨0x60, p.bits, 3, r ++ sl ++ (0 : BitVec 4), 0⟩
  | .cfgStat p r t0 => some ⟨0x60, p.bits, 4, r ++ (0 : BitVec 6), t0⟩
  | .strBind p dir ix lane go base t0 => some ⟨0x61, p.bits, 0, dir ++ ix ++ BitVec.ofBool lane ++ BitVec.ofBool go ++ BitVec.ofBool base, t0⟩
  | .strGo p dl => some ⟨0x61, p.bits, 1, (0 : BitVec 8) ++ BitVec.ofBool dl, 0⟩
  | .strCancel p => some ⟨0x61, p.bits, 2, (0 : BitVec 9), 0⟩
  | .strWait p t0 => some ⟨0x61, p.bits, 3, (0 : BitVec 9), t0⟩
  | .strPush p buf sz rand => some ⟨0x61, p.bits, 4, buf ++ sz ++ BitVec.ofBool rand ++ (0 : BitVec 2), 0⟩
  | .strPop p buf sz rand t0 => some ⟨0x61, p.bits, 5, buf ++ sz ++ BitVec.ofBool rand ++ (0 : BitVec 2), t0⟩
  | .strStat p kind dir ix t0 => some ⟨0x61, p.bits, 6, BitVec.ofBool kind ++ dir ++ (0 : BitVec 2) ++ ix, t0⟩
  | .rgnArm p r sec => some ⟨0x62, p.bits, 0, r ++ sec ++ (0 : BitVec 3), 0⟩
  | .rgnFreeze p r => some ⟨0x62, p.bits, 1, r ++ (0 : BitVec 6), 0⟩
  | .rgnThaw p r => some ⟨0x62, p.bits, 2, r ++ (0 : BitVec 6), 0⟩
  | .rgnAbort p r => some ⟨0x62, p.bits, 3, r ++ (0 : BitVec 6), 0⟩
  | .rgnQuiet p r span t0 => some ⟨0x62, p.bits, 4, r ++ BitVec.ofBool span ++ (0 : BitVec 5), t0⟩
  | .rgnStat p r t0 => some ⟨0x62, p.bits, 5, r ++ (0 : BitVec 6), t0⟩
  | .spawn p r t0 => some ⟨0x62, p.bits, 6, r ++ (0 : BitVec 6), t0⟩
  | .xaClr p r tile evt => some ⟨0x63, p.bits, 0, r ++ BitVec.ofBool tile ++ BitVec.ofBool evt ++ (0 : BitVec 4), 0⟩
  | .xaDrain p r tile evt mem => some ⟨0x63, p.bits, 1, r ++ BitVec.ofBool tile ++ BitVec.ofBool evt ++ BitVec.ofBool mem ++ (0 : BitVec 3), 0⟩
  | .xaSpill p r tile evt => some ⟨0x63, p.bits, 2, r ++ BitVec.ofBool tile ++ BitVec.ofBool evt ++ (0 : BitVec 4), 0⟩
  | .xaFill p r tile evt => some ⟨0x63, p.bits, 3, r ++ BitVec.ofBool tile ++ BitVec.ofBool evt ++ (0 : BitVec 4), 0⟩
  | .xaMerge p r tile evt => some ⟨0x63, p.bits, 4, r ++ BitVec.ofBool tile ++ BitVec.ofBool evt ++ (0 : BitVec 4), 0⟩
  | .xaStat p r t0 => some ⟨0x63, p.bits, 5, r ++ (0 : BitVec 6), t0⟩
  | .markWait p kind t0 => some ⟨0x64, p.bits, 0, BitVec.ofBool kind ++ (0 : BitVec 8), t0⟩
  | .markRaise p kind strm => some ⟨0x64, p.bits, 1, BitVec.ofBool kind ++ (0 : BitVec 3) ++ strm, 0⟩
  | .evtWait p ev t0 => some ⟨0x64, p.bits, 2, (0 : BitVec 2) ++ ev, t0⟩
  | .evtSignal p ev => some ⟨0x64, p.bits, 3, (0 : BitVec 2) ++ ev, 0⟩
  | .semWait p o sc t0 => some ⟨0x64, p.bits, 4, (0 : BitVec 5) ++ o.bits ++ sc.bits, t0⟩
  | .semPost p o sc t0 => some ⟨0x64, p.bits, 5, (0 : BitVec 5) ++ o.bits ++ sc.bits, t0⟩
  | .fadd p t0 t1 => some ⟨0x70, p.bits, 0, t0, t1⟩
  | .fsub p t0 t1 => some ⟨0x70, p.bits, 1, t0, t1⟩
  | .fmul p t0 t1 => some ⟨0x70, p.bits, 2, t0, t1⟩
  | .fdiv p t0 t1 => some ⟨0x70, p.bits, 3, t0, t1⟩
  | .fsqrt p t0 t1 => some ⟨0x70, p.bits, 4, t0, t1⟩
  | .fmin p t0 t1 => some ⟨0x70, p.bits, 5, t0, t1⟩
  | .fmax p t0 t1 => some ⟨0x70, p.bits, 6, t0, t1⟩
  | .fabs p t0 t1 => some ⟨0x70, p.bits, 7, t0, t1⟩
  | .fneg p t0 t1 => some ⟨0x70, p.bits, 8, t0, t1⟩
  | .fcmpEq p t0 t1 => some ⟨0x71, p.bits, 0, t0, t1⟩
  | .fcmpLt p t0 t1 => some ⟨0x71, p.bits, 1, t0, t1⟩
  | .fcmpLe p t0 t1 => some ⟨0x71, p.bits, 2, t0, t1⟩
  | .fcmpUn p t0 t1 => some ⟨0x71, p.bits, 3, t0, t1⟩
  | .fcvtS32F p t0 t1 => some ⟨0x72, p.bits, 0, t0, t1⟩
  | .fcvtS64F p t0 t1 => some ⟨0x72, p.bits, 1, t0, t1⟩
  | .fcvtFS32 p t0 t1 => some ⟨0x72, p.bits, 2, t0, t1⟩
  | .fcvtFS64 p t0 t1 => some ⟨0x72, p.bits, 3, t0, t1⟩
  | .fcvtFN64 p t0 t1 => some ⟨0x72, p.bits, 4, t0, t1⟩
  | .fcvtBf16F p t0 t1 => some ⟨0x72, p.bits, 5, t0, t1⟩
  | .fcvtFBf16 p t0 t1 => some ⟨0x72, p.bits, 6, t0, t1⟩
  | .fcvtFp16F p t0 t1 => some ⟨0x72, p.bits, 7, t0, t1⟩
  | .fcvtFFp16 p t0 t1 => some ⟨0x72, p.bits, 8, t0, t1⟩
  | .blockFetch _ _ => none
  | .blockCommit _ _ => none
  | .blockAbandon _ _ => none
  | .stallDetect _ _ => none
  | .engineAccept _ _ _ => none
  | .waitSatisfied _ _ => none
  | .swapTakesEffect _ _ => none
  | .loaderServe _ => none
  | .configLoadComplete _ => none
  | .regionSchedulerDecision _ _ => none
  | .quantumExpiry _ _ => none
  | .pass _ _ => none
  | .steer _ _ => none
  | .loopExitSteer _ _ => none
  | .swch _ _ => none
  | .merge _ _ => none
  | .amrg _ _ => none
  | .filt _ _ => none
  | .expd _ _ => none
  | .rep _ _ => none
  | .cnt _ _ => none
  | .gate _ _ => none
  | .taga _ _ => none
  | .tagf _ _ => none
  | .reord _ _ => none
  | .join _ _ => none
  | .const _ _ => none
  | .iadd _ _ => none
  | .isub _ _ => none
  | .imul _ _ => none
  | .imac _ _ => none
  | .iand _ _ => none
  | .ior _ _ => none
  | .ixor _ _ => none
  | .ishl _ _ => none
  | .ishr _ _ => none
  | .isra _ _ => none
  | .imin _ _ => none
  | .imax _ _ => none
  | .iabs _ _ => none
  | .isat _ _ => none
  | .icmp _ _ => none
  | .elemFadd _ _ => none
  | .elemFmul _ _ => none
  | .ffma _ _ => none
  | .elemFmin _ _ => none
  | .elemFmax _ _ => none
  | .elemFcmp _ _ => none
  | .elemFcvt _ _ => none
  | .frcp _ _ => none
  | .frsq _ _ => none
  | .fexp2 _ _ => none
  | .flog2 _ _ => none
  | .qmul _ _ => none
  | .qrsq _ _ => none
  | .qdiv _ _ => none
  | .pivg _ _ => none
  | .cadd _ _ => none
  | .csub _ _ => none
  | .cmul _ _ => none
  | .cmac _ _ => none
  | .cconj _ _ => none
  | .cabs2 _ _ => none
  | .cscl _ _ => none
  | .rotz _ _ => none
  | .perm _ _ => none
  | .mins _ _ => none
  | .llrs _ _ => none
  | .xorr _ _ => none
  | .crcs _ _ => none
  | .mma _ _ => none
  | .xacc _ _ => none
  | .req _ _ => none
  | .rng _ _ => none
  | .markerConsume _ _ => none
  | .squashArrival _ _ _ => none
  | .enablePulse _ _ => none
  | .donePulse _ _ _ => none
  | .commitPulse _ _ => none
  | .creditPulse _ _ _ => none
  | .switchboxPass _ _ _ => none
  | .drainChainForward _ _ => none
  | .klenDrain _ _ => none
  | .xaCommandAct _ _ => none
  | .xaCommandComplete _ _ => none
  | .quiescenceWaveComplete _ _ => none
  | .freezeWave _ _ => none
  | .freezeImageWritten _ _ => none
  | .thawInstall _ _ _ => none
  | .abortComplete _ _ _ => none
  | .spawnQueueService _ => none
  | .endRelease _ _ => none
  | .detRoundApply _ => none
  | .tagdry _ _ => none
  | .bindingActivate _ _ => none
  | .streamMove _ _ => none
  | .gatherRequest _ _ => none
  | .scatterRequest _ _ => none
  | .itemFinish _ _ => none
  | .bindingDone _ _ => none
  | .translateAhead _ _ => none
  | .ringSend _ _ => none
  | .ringDeliver _ _ => none
  | .ringSlotReturn _ _ => none
  | .arbitrationRound _ => none
  | .walk _ _ => none
  | .accessPerformed _ => none
  | .semRetest _ => none
  | .sweep _ => none
  | .stagingSweep _ => none
  | .patrolScrub _ => none
  | .softErrorDetect _ => none
  | .markUnitApply => none
  | .markApply _ => none
  | .eventDelivery _ => none
  | .packetRead => none
  | .teaselWake _ => none
  | .irqToleranceExpiry _ => none
  | .packetComplete _ => none
  | .placement => none
  | .copyPiece _ => none
  | .nop _ => none
  | .launch _ => none
  | .mark _ => none
  | .signal _ => none
  | .wait _ => none
  | .copy _ => none
  | .fencePacket _ => none
  | .budget _ => none
  | .freeze _ => none
  | .thaw _ => none
  | .abort _ => none
  | .attest _ => none
  | .indirect _ => none
  | .faultRecordWrite => none
  | .hostRead _ => none
  | .hostWrite _ _ _ => none
  | .modeRegisterWrite _ _ => none
  | .modeRegisterRead _ => none
  | .refresh _ => none
  | .powerDown _ _ => none
  | .selfRefresh _ _ => none
  | .commandBusTraining _ => none
  | .wck2ckLevelling _ => none
  | .readDqCalibration _ => none
  | .writeFifo _ _ => none
  | .readFifo _ => none
  | .qtailWrite _ _ _ => none
  | .qsizeWrite _ _ _ => none
  | .qbaseWrite _ _ _ => none
  | .qstatWrite _ _ _ => none
  | .markwWrite _ _ _ => none
  | .limitWrite _ _ _ _ => none
  | .bctlWrite _ _ _ => none
  | .bootctlStart _ _ => none
  | .feath0Write _ _ => none
  | .pwrcapWrite _ _ => none
  | .irqstatWrite _ _ => none
  | .irqmaskWrite _ _ => none
  | .fltringWrite _ _ => none
  | .fltptrWrite _ _ => none
  | .registerWrite _ _ _ => none
  | .flitReceive _ _ _ => none
  | .creditFlit _ _ => none
  | .linkretrain _ => none
  | .linkdown _ => none
  | .powerEstimate _ _ => none
  | .thermalTrip => none
  | .powerOn => none
  | .bundleVerify => none
  | .initComplete _ => none
  | .campionTimeout => none
  | .serviceAccess _ => none
  | .linkArbitrationRound _ _ => none

/-- The word of a body instruction. -/
def encode (i : Instr) : Option W32 := (encodeFields i).map pack

/-- The four bytes of a word, lowest address first (R174). -/
def wordBytes (w : W32) : List Byte :=
  [w.extractLsb' 0 8, w.extractLsb' 8 8, w.extractLsb' 16 8, w.extractLsb' 24 8]

/-- The word that four bytes hold. -/
def bytesWord : List Byte → Option W32
  | [b0, b1, b2, b3] => some (b3 ++ b2 ++ b1 ++ b0)
  | _ => none

/-- The decoder on bytes, total: four bytes and a legal word, or a rejection. -/
def decodeBytes (bs : List Byte) : Option (Except Reject Instr) := (bytesWord bs).map decode

/-- The instruction read from bits numbered as the opcode table numbers them; every instruction is one word. -/
def decodeTableWord (nbits w : Nat) : Option Instr :=
  if nbits ≤ 32 ∧ w < 2 ^ nbits then
    match decodeBytes (wordBytes (BitVec.ofNat 32 w)) with
    | some (.ok i) => some i
    | _ => none
  else none

end Sys2Proof
end

