-- ==== Sys2Proof/Machine/Maps.lean ====
section
/-! DEFINITION. Sparse tables and byte memory: look up, write, and the canonical form of memory. -/

namespace Sys2Proof

/-- What a table lists under a number. -/
def SMap.look {α : Type} : SMap α → Nat → Option α
  | [], _ => none
  | (k, v) :: m, i => if k = i then some v else SMap.look m i

/-- What a table holds under a number, with the table's default. -/
def SMap.lookD {α : Type} (m : SMap α) (i : Nat) (d : α) : α := (m.look i).getD d

/-- A table with a number's entry written; numbers stay in rising order. -/
def SMap.put {α : Type} : SMap α → Nat → α → SMap α
  | [], i, v => [(i, v)]
  | (k, w) :: m, i, v =>
    if i < k then (i, v) :: (k, w) :: m else if i = k then (i, v) :: m else (k, w) :: SMap.put m i v

/-- A table without a number's entry. -/
def SMap.del {α : Type} : SMap α → Nat → SMap α
  | [], _ => []
  | (k, w) :: m, i => if i = k then m else (k, w) :: SMap.del m i

/-- A table with one listed entry changed. -/
def SMap.upd {α : Type} : SMap α → Nat → (α → α) → SMap α
  | [], _, _ => []
  | (k, w) :: m, i, f => if i = k then (k, f w) :: m else (k, w) :: SMap.upd m i f

/-- Every listed entry changed. -/
def SMap.mapVal {α β : Type} (m : SMap α) (f : Nat → α → β) : SMap β := m.map fun e => (e.1, f e.1 e.2)

/-- The byte at an address; a byte that nothing has written reads as zero (DESIGN CHOICE, log 4). -/
def Memory.read : List Host.Cell → Nat → Byte
  | [], _ => 0
  | (b, w) :: m, a => if b = a then w else Memory.read m a

/-- One byte written, in canonical form: addresses rise, and no listed byte is zero. -/
def Memory.write : List Host.Cell → Nat → Byte → List Host.Cell
  | [], a, v => if v = 0 then [] else [(a, v)]
  | (b, w) :: m, a, v =>
    if a < b then (if v = 0 then (b, w) :: m else (a, v) :: (b, w) :: m)
    else if a = b then (if v = 0 then m else (a, v) :: m)
    else (b, w) :: Memory.write m a v

/-- The canonical form: addresses strictly rising, no byte equal to what an unlisted one reads as. -/
def Memory.wf : List Host.Cell → Bool
  | [] => true
  | [(_, v)] => v != 0
  | (a, v) :: (b, w) :: m => v != 0 && a < b && Memory.wf ((b, w) :: m)

/-- Consecutive bytes from an address. -/
def Memory.readN (m : List Host.Cell) (a : Nat) : Nat → List Byte
  | 0 => []
  | n + 1 => Memory.read m a :: Memory.readN m (a + 1) n

/-- Consecutive bytes written from an address. -/
def Memory.writeN (m : List Host.Cell) (a : Nat) : List Byte → List Host.Cell
  | [] => m
  | v :: vs => Memory.writeN (Memory.write m a v) (a + 1) vs

/-- Bytes as a number, lowest address least significant (R174, R219). -/
def leNat : List Byte → Nat
  | [] => 0
  | b :: bs => b.toNat + 256 * leNat bs

/-- The n low bytes of a number, least significant first. -/
def leBytes (v : Nat) : Nat → List Byte
  | 0 => []
  | n + 1 => BitVec.ofNat 8 (v % 256) :: leBytes (v / 256) n

/-- The bytes at which a data mask lets a burst write (R341, R344). -/
def Memory.writeMasked (m : List Host.Cell) (a : Nat) : List Byte → List Bool → List Host.Cell
  | v :: vs, k :: ks => Memory.writeMasked (if k then Memory.write m a v else m) (a + 1) vs ks
  | _, _ => m

/-- A number read as a two's-complement number of k bits (R205). -/
def signedOf (x k : Nat) : Int := if x < 2 ^ (k - 1) then (x : Int) else (x : Int) - (2 ^ k : Nat)

/-- The low k bits of an integer, as an unsigned number. -/
def modPow (x : Int) (k : Nat) : Nat := (x % ((2 ^ k : Nat) : Int)).toNat

/-- A 64-bit word from an integer. -/
def wordOf (x : Int) : Word := BitVec.ofNat 64 (modPow x 64)

/-- An integer kept between two bounds. -/
def clampInt (x lo hi : Int) : Int := if x < lo then lo else if hi < x then hi else x

/-- Bits [hi:lo] of a number, by position and width. -/
def bitsOf (x lo n : Nat) : Nat := x / 2 ^ lo % 2 ^ n

end Sys2Proof
end

