-- ==== Sys2Proof/Config.lean ====
section
/-! DEFINITION. What the spec fixes for every device, and the values it leaves to the device or leaves open: the
latter are opaque, so that no proof can see one (log entries named beside each). -/

namespace Sys2Proof

/-- Cores, cores per die (R8, R9). -/
def Config.cores : Nat := 160
def Config.coresPerDie : Nat := 40

/-- Cycles that a core counts during the n-th act of the machine (R17, R171): free (DESIGN CHOICE, log 7). -/
opaque Config.stepCycles : Nat → Nat → Nat

/-- SHAKE256 of a byte string, as the little-endian number that its first n bytes make (R352, R356, R357, R404):
a given function (DESIGN CHOICE, log 10). -/
opaque Config.shake256 : List Byte → Nat → Nat

/-- ML-DSA-65 (FIPS 204): does the signature verify over the message under the public key (R352; DESIGN CHOICE, log 10)? -/
opaque Config.mldsaVerify : List Byte → List Byte → List Byte → Bool

/-- The signature, as a little-endian number of 3,309 bytes, that the identity key made from a seed gives over a
message (R357, R358; DESIGN CHOICE, log 10). -/
opaque Config.mldsaSign : Nat → List Byte → Nat

/-- The public key, as a little-endian number of 1,952 bytes, of the key pair made from a seed (R357; DESIGN CHOICE, log 10). -/
opaque Config.mldsaPublic : Nat → Nat

/-- Whether the signer's self-test passes at the n-th act (R465; DESIGN CHOICE, log 10). -/
opaque Config.signerWorks : Nat → Bool

/-- The fuses (R352, R357, R464; DESIGN CHOICE, log 10): the key hash, the device seed, the minimum SVN, and whether they can be
read. -/
opaque Config.fusedKeyHash : Nat
opaque Config.fusedSeed : List Byte
opaque Config.fusedMinSvn : Nat
opaque Config.fusesReadable : Bool

/-- The device features that the firmware offers (R353): FEATD0 "firmware"; only bits 0 to 4 can be set (DESIGN CHOICE, log 13). -/
opaque Config.featd : BitVec 64

/-- The version of Teasel's placement and packet tables (R355; DESIGN CHOICE, log 13). -/
opaque Config.tableVersion : BitVec 32

/-- TVAL of a trap for which R394 states none (a poisoned g register, a refused configuration, a deferred walk), at
the n-th act (R394, R420, R462; DESIGN CHOICE, log 14). -/
opaque Config.openTval : Nat → Word

/-- The SIDE byte of a result whose F17 takes it from an input that is no token, at the n-th act: the spec states
none (R64; DESIGN CHOICE, log 22). -/
opaque Config.sideOfNoToken : Nat → BitVec 8

/-- The magnitude that MINS has for the one input of a group of one, at the n-th act: the spec states none (R299;
DESIGN CHOICE, log 23). -/
opaque Config.minsAlone : Nat → Nat

/-- Units of 64 bytes by which a region's freeze image bound exceeds the image as it stands, by the region's number of
elements: the spec states no bound (R266; DESIGN CHOICE, log 31). -/
opaque Config.imageSlack : Nat → Nat

/-- How long a configuration has been current, in cycles, of a region that freezes before its quantum is up, at the n-th act:
the model does not count cycles (R39, R405; DESIGN CHOICE, log 32). -/
opaque Config.quantumPosition : Nat → Nat

/-- The second operand of the i-th pending update of an image that no freeze of this machine wrote: the 8 bytes that R406
gives an update hold one operand (R406; DESIGN CHOICE, log 32). -/
opaque Config.pendingOperand : Nat → Nat → W32

/-- The order in which a die's test map takes its physical cores, as a key of each (R8: fixed at test and stated nowhere;
DESIGN CHOICE, log 113). -/
opaque Config.testKey : Nat → Nat → Nat

/-- The stream engine of a die that takes the first piece of a COPY there: Teasel gives the pieces to the engines in turn, from
one that the spec does not name (R317; DESIGN CHOICE, log 37). -/
opaque Config.copyEngine : Nat → Nat

/-- Operand B of a PERM or ROTZ that takes it and has none configured, at the n-th act: the spec states no value (R278, R297,
R298; DESIGN CHOICE, log 126). -/
opaque Config.absentOperand : Nat → W32

/-- H0 in the TVAL of a fetch whose header lies in no partition, at the n-th act: the spec states none (R394; DESIGN CHOICE, log 15). -/
opaque Config.noHeader : Nat → W32

end Sys2Proof
end

