-- ==== Sys2Proof/Machine/State.lean ====
section
/-! DEFINITION. The state of the machine as plain data, why a step can stop, and the state after reset. -/

namespace Sys2Proof.Machine

/-- Why the machine stops. (DESIGN CHOICE, log 111.) -/
inductive Fault where
  /-- Raised by a body word whose context has no block in flight at the word's index. Safe: `step` fires only a
  word of a block in flight, so no run reaches it. -/
  | noBlockInFlight
  /-- Raised by `step` when the word it is to fire is no instruction. Safe: BLOCK_FETCH has checked every word of
  a block in flight (R413), so no run reaches it. -/
  | undecodableWord
deriving DecidableEq, Repr

/-- Why an instruction has no meaning. -/
inductive Refusal where
  /-- Raised by an arm of `exec` that has no meaning yet. Safe. -/
  | notModelled (mnemonic : String)
deriving DecidableEq, Repr

/-- What a step does when the agenda names it: fire the lowest ready body word of a context, or a step of the
table's events. -/
inductive Move where
  | cp (c x : Nat)
  | ev (i : Instr)
deriving DecidableEq, Repr

/-- The body word under execution. -/
structure Focus where
  core : Nat := 0
  ctx : Nat := 0
  idx : Nat := 0
deriving DecidableEq, Repr

/-! ## Tokens and accumulators -/

/-- Token kinds (R58). -/
inductive Kind where
  | data
  | endTile
  | round
  | error
  | squash
  | retire
deriving DecidableEq, Repr

/-- A token (R58). -/
structure Token where
  kind : Kind := .data
  ctx : BitVec 2 := 0
  tag : BitVec 6 := 0
  side : BitVec 8 := 0
  pay : W32 := 0
  void : Bool := false                   -- a RETIRE whose context has become CURRENT again (R39)
deriving DecidableEq, Repr

/-- A pulse waiting at an element: the route it arrived on (direction + 4 * lane) and its context (R60). -/
structure Pulse where
  route : Nat := 0
  ctx : BitVec 2 := 0
deriving DecidableEq, Repr

/-- An exact accumulator (R95). -/
structure Xa where
  v : BitVec 640 := 0
  nan : Bool := false
  pinf : Bool := false
  ninf : Bool := false
  guarded : Bool := false
  poison : Bool := false
  count : BitVec 32 := 0
  dfmt : BitVec 4 := 0
  drnd : BitVec 3 := 0
  dftz : Bool := false
  klen : BitVec 16 := 0
  gen : BitVec 12 := 0
deriving DecidableEq, Repr

/-- What an operation keeps from firing to firing (R279 to R308), in the order "Element operations" names it. -/
structure OpState where
  outst : Nat := 0                       -- STEER (R281)
  free : SMap Nat := []                  -- SWCH FREE[i] (R284)
  seq : BitVec 8 := 0                    -- SWCH SEQ
  next : BitVec 8 := 0                   -- REORD NEXT and window (R285)
  window : List Token := []
  grants : Nat := 0                      -- GATE (R280)
  rep : Nat := 0                         -- REP: copies left, and the token that they are copies of
  repTok : Option Token := none
  amrgLast : Nat := 2                    -- AMRG: the input served last (R282)
  tagf : SMap Nat := []                  -- TAGF counts (R288)
  tagaPos : Nat := 0                     -- TAGA thread position and tag
  tagaTag : BitVec 6 := 0
  issue : List (BitVec 6) := []          -- loop-exit STEER (R283)
  sq : Bool := false
  runsDue : List (BitVec 2) := []        -- enable pulses not yet served, by context (R280, R286)
  swapDue : List (BitVec 2) := []        -- runs that a swap cycle has started and that wait for an earlier one
  run : Option (BitVec 2 × Nat) := none  -- the run under way: its context and how many steps are done
  runFrom : Option (BitVec 6 × BitVec 8) := none  -- TAG and SIDE of the token that started it (R279)
  enabled : List Nat := []               -- CNT node: iterations for which each child has been enabled
  doneCnt : List Nat := []               -- CNT node: done pulses of each child in this run
  sumR : BitVec 64 := 0                  -- CMAC (R296)
  sumI : BitVec 64 := 0
  x : W32 := 0                           -- XORR (R301)
  xCount : Nat := 0
  crc : W32 := 0                         -- CRCS (R302)
  live : Bool := false
  group : List Token := []               -- MINS (R299)
  endNo : Nat := 0                       -- tile number of the next END that CNT or CONST writes (R59)
  reqOut : Nat := 0                      -- REQ responses outstanding (R307)
  fenceNext : Bool := false
  chain : Nat := 0                       -- chain tokens since the last own drained value (R305)
deriving DecidableEq, Repr

/-- A state register of an element with its tag and poison bit (R130, R462). -/
structure EReg where
  val : W32 := 0
  tag : BitVec 12 := 0
  poison : Bool := false
deriving DecidableEq, Repr

/-- An END held at its region's boundary (R157): the tokens that had left by each edge port lane (port * 2 + lane)
before it, and whether it may go. -/
structure Hold where
  left : SMap Nat := []
  released : Bool := false
deriving DecidableEq, Repr

/-- What a firing of an element can change and a SQUASH can take back (R28, R287). -/
structure Priv where
  own : EReg := {}
  ctr : EReg := {}
  op : OpState := {}
  xa : Xa := {}
  due : Option (BitVec 2) := none        -- a firing of this context has brought COUNT to KLEN (R103)
deriving DecidableEq, Repr

/-- What a pending update will do when it becomes permanent (R28, R287): a firing's change, the end of a tile, or the
drain that follows a firing (R103). -/
inductive UpdKind where
  | fire
  | tileEnd
  | drain
deriving DecidableEq, Repr

/-- A pending update: its tag, the slot it was made under, the OWN it writes, and the operands that counters, sums and
the accumulator take from it. -/
structure Upd where
  kind : UpdKind := .fire
  gen : BitVec 12 := 0                   -- its tag as a state register (R130)
  tag : BitVec 6 := 0
  slot : Nat := 0
  own : Option W32 := none
  a : W32 := 0
  b : W32 := 0
  sa : BitVec 8 := 0
  sb : BitVec 8 := 0
  err : Bool := false                    -- the firing took an ERROR (R401)
  reads : Bool := true                   -- the firing read its operands, CTR among them (R279)
  waits : Bool := true                   -- a commit pulse or a ROUND makes it permanent; else its turn does
  strict : Bool := false                 -- its allocation reads under STRICT (R129)
deriving DecidableEq, Repr

/-- An incoming lane: markers the region itself puts ahead of the stage (R35, R40), the two-token stage, and on a
lane that crosses the region's boundary the tokens accepted since the last ROUND and the number of the next
(R40). -/
structure Lane where
  pre : List Token := []
  stage : List Token := []
  since : Nat := 0
  rounds : BitVec 32 := 0
  hold : Option Hold := none             -- an END at its head held before a switchbox takes it out of the region (R157)
deriving DecidableEq, Repr

/-- One token on its way out of an element, with the outgoing lanes it drives (direction * 2 + lane), and, of a RETIRE,
the path of R77 that it has passed once it has left. -/
structure OutTok where
  lanes : List Nat
  tok : Token
  path : Option Nat := none
deriving DecidableEq, Repr

/-- An element (R9, R53). -/
structure Elem where
  bufA : List Token := []
  bufB : List Token := []
  bufC : List Token := []
  lanes : SMap Lane := []
  pulses : List Pulse := []
  priv : Priv := {}
  pend : List Upd := []                  -- uncommitted updates, oldest first
  out : List OutTok := []                -- outputs awaiting space
  drains : List Token := []              -- drained values awaiting the chain (R305)
  held : BitVec 4 := 0                   -- slots held (R77)
  passed : SMap (List Nat) := []         -- per slot, the switchbox lanes and datapath that RETIRE has passed
  squashIn : List (Nat × BitVec 6) := [] -- SQUASH arrivals by input (R63)
  kept : SMap Token := []                -- operands of KEEP inputs in use (R61)
  malign : Bool := false                 -- a MARKALIGN record stands for the marker at the head (R430)
  dry : Bool := false                    -- a TAGDRY record stands (R451)
  hold : Option Hold := none             -- an END of `out` held before a link to another region (R157)
deriving DecidableEq, Repr

/-! ## Memory -/

/-- What stands beside the bytes of a granule or line: tag, poison, presence bits (R109, R118, R134), an
uncorrectable error that no read has found yet, and whether its error has been reported (R398, R462). -/
structure Granule where
  tag : BitVec 12 := 0
  poison : Bool := false
  presence : BitVec 8 := 0
  bad : Bool := false
  reported : Bool := false
deriving DecidableEq, Repr

/-- Page attributes (R122). -/
inductive Attr where
  | normal
  | ordered
  | once
  | device
deriving DecidableEq, Repr

/-- A TLB entry (R123). -/
structure TlbEntry where
  alloc : Nat
  page : Nat
  big : Bool
  pa : Nat
  attr : Attr
  rd : Bool
  wr : Bool
deriving DecidableEq, Repr

/-- The operations of an atomic (R180, R275). -/
inductive AOp where
  | add
  | swap
  | and
  | or
  | xor
  | min
  | max
  | minu
  | maxu
  | cas
  | semWait
  | semPost
deriving DecidableEq, Repr

/-- What an access does at its home. -/
inductive AccKind where
  | load
  | store
  | atomic (o : AOp)
  | clear
  | fence
deriving DecidableEq, Repr

/-- Who issued an access on core c, and where its result goes (R136). -/
inductive Client where
  /-- instruction `idx` of block number `num` of context `x` -/
  | body (c x num idx : Nat)
  /-- move `move` of binding `seq` on port `p` -/
  | move (c p seq move : Nat)
  /-- the scale byte of block `blk` of a binding (R83, R90) -/
  | scale (c p seq blk : Nat)
  /-- the translation of a page ahead of a binding's moves (R124) -/
  | ahead (c p seq page : Nat)
  /-- the loader, for the next line of its stream (R72) -/
  | loader (c : Nat)
  /-- bytes from `off` on of record or word `k` of accumulator command `id`, at element `e` (R269) -/
  | xa (c e id k off : Nat)
  /-- a line of COPY piece `id` at stream engine `u` (R317) -/
  | piece (c u id : Nat)
  /-- the table read of a walk (R121) -/
  | walk (c id : Nat)
deriving DecidableEq, Repr

/-- Whose budgets a request is checked against and charged to (R317, R326, R330): nobody's, a member's by its core and
context, or a stream's copy allowance on a die. -/
inductive Payer where
  | background
  | member (c x : Nat)
  | copies (d m : Nat)
deriving DecidableEq, Repr

/-- What an access came to at its home: its bytes with the cause of poison in them, or the cause for which it was not
performed, with what a record of it says in INFO. -/
inductive Result where
  | bytes (bs : List Byte) (poison : Option Nat)
  | failed (cause : Nat) (info : Nat := 0)
deriving DecidableEq, Repr

/-- An access that has been issued and not yet performed (R137). -/
structure Access where
  id : Nat
  client : Client
  alloc : Nat
  kind : AccKind
  addr : Word                    -- in the form the program gave
  size : Nat
  data : List Byte := []         -- store data, or operand B of an atomic in eight bytes
  acq : Bool := false
  rel : Bool := false
  scope : Scope := .core
  order : Nat := 0               -- program order within the agent: a later access has a larger number
  block : Nat := 0               -- block number of a body access
  engine : Bool := false         -- SEM.WAIT and SEM.POST: unordered against the block's memory instructions
  chained : Bool := false        -- performed only after the accesses of its agent before it (R155, R269)
  place : Option (Nat × Attr) := none   -- where it is performed, once translated
  fault : Option Nat := none     -- the translation ended with this cause
  granted : Bool := false        -- it needs no arbiter, or the arbiter has granted it
  payer : Payer := .background
  deferred : Option Nat := none  -- the period in which it was deferred
  deferNo : Nat := 0             -- its place among what has been deferred (R329)
  grants : Nat := 0              -- of its lines, how many the arbiter has granted (R330)
  crossing : Bool := false       -- it is on its way over die links, or its response is
  parked : Bool := false         -- a read that waits at its bank for ONCE words (R118)
  got : Option Result := none    -- performed: what its client has still to receive
  poisoned : Bool := false       -- a store of zeros under poison (R398)
  tail : Option (Nat × Attr) := none    -- where the bytes beyond a page's end lie, or beyond a buffer's end (R440)
  cut : Nat := 0                        -- the bytes before a buffer's end, for a request that wraps round it
  item : Nat := 0                       -- of a binding: the item it counts for
  mark : Option (Nat × Nat) := none     -- of a store: the lane and number of its token at the port (R157)
  round : Option (BitVec 32) := none    -- of a DET write: the round whose log takes it (R167)
  ba : Word := 0                        -- of a body access: the address of its block, and whether that was abandoned
  quiet : Bool := false
  fenced : List (Nat × Nat × Scope) := []  -- of a read: block, order and scope of later FENCEs performed (R148)
deriving DecidableEq, Repr

/-- A fault record before its SEQ and OVF are known (R389). -/
structure FaultRec where
  cause : BitVec 8
  src : BitVec 8
  core : BitVec 8 := 0xFF
  unit : BitVec 8 := 0
  place : BitVec 8 := 0
  alloc : BitVec 8 := 0xFF
  strm : BitVec 8 := 0xFF
  fatal : Bool := false
  item : Bool := false
  addr : Word := 0
  info : Word := 0
  slot : W32 := 0
  gen : BitVec 12 := 0
deriving DecidableEq, Repr

/-- A walk under way (R123), numbered by the access that started it. -/
structure Walk where
  id : Nat
  core : Nat
  alloc : Nat
  va : Nat
  level : Nat := 0
  payer : Payer := .background
  note : FaultRec                       -- of its requester, for an error that a table read finds (R389)
deriving DecidableEq, Repr

/-! ## Control processor -/

/-- A g register (R168, R130, R462). -/
structure Reg where
  val : Word := 0
  tag : BitVec 12 := 0
  poison : Bool := false
deriving DecidableEq, Repr

/-- The exits (R228). -/
inductive ExitKind where
  | branch
  | call
  | scall (code : BitVec 20)
  | trap (code : BitVec 20)
  | halt
  | eret
deriving DecidableEq, Repr

/-- The exit of a block that has fired (R185). -/
structure Exit where
  no : BitVec 3
  idx : Nat
  kind : ExitKind
  next : Word
deriving DecidableEq, Repr

/-- A fault attributable to a block: body index (0x1F for header, fetch and stall), cause, TVAL (R392, R394). -/
structure BlockFault where
  idx : Nat
  cause : BitVec 8
  tval : Word
deriving DecidableEq, Repr

/-- A block in flight (R168, R174, R181 to R186). -/
structure Block where
  addr : Word := 0
  h0 : W32 := 0
  smask : W32 := 0
  wmask : W32 := 0
  words : List W32 := []
  num : Nat := 0
  cycle : Word := 0                    -- CYCLE, MARKCNT and MARKKIND as the block began (R172)
  markcnt : Word := 0
  markkind : Word := 0
  slotA : SMap Word := []
  slotB : SMap Word := []
  slotP : SMap Word := []
  fired : List Nat := []
  ops : SMap Instr := []               -- memory and engine instructions that have fired, as fired
  issued : List Nat := []              -- memory instructions issued, engine instructions accepted
  done : List Nat := []                -- performed, or satisfied
  nulled : List Nat := []              -- LSIDs a NULLS has resolved
  regw : SMap (Option Word) := []      -- per register: written with a value, or kept
  csrw : SMap (BitVec 12 × Word) := [] -- per body index
  deferred : SMap Nat := []            -- per body index: the period in which the command was deferred (R328)
  exit : Option Exit := none
  faults : List BlockFault := []
  swung : List Nat := []               -- predicate slots that have received both values of bit 0 (R181)
deriving DecidableEq, Repr

/-- A buffer allocation of a member (R113, R115): place and size in the core's stream buffer. -/
structure Buf where
  base : Nat
  size : Nat
  queue : Bool
  wptr : Nat := 0
  rptr : Nat := 0
deriving DecidableEq, Repr

/-- One budget of a member or of a die's copies: share (none: unlimited) and use, in units of 64 bytes (R326,
R327). -/
structure Share where
  limit : Option Nat := none
  used : Nat := 0
deriving DecidableEq, Repr

/-- The three budgets of a member, or of a stream in a die's copy logic (R317, R326). -/
structure Shares where
  dram : Share := {}
  link : Share := {}
  load : Share := {}
deriving DecidableEq, Repr

/-- Does a context issue blocks (R21, R230, R394)? -/
inductive RunState where
  | running
  | halted
  | stopped
deriving DecidableEq, Repr

/-- A program context (R168). -/
structure Ctx where
  alloc : Nat := 0
  member : Nat := 0
  run : RunState := .running
  regs : SMap Reg := []
  next : Word := 0                     -- the block to fetch next
  block : Option Block := none
  blocks : Nat := 0                    -- blocks begun, the number of the next block
  lexit : BitVec 3 := 0                -- STATUS
  inh : Bool := false
  strict : Bool := false
  cause : BitVec 8 := 0
  epc : Word := 0
  tval : Word := 0
  tvec : Word := 0
  gen : BitVec 12 := 0
  stream : BitVec 5 := 16
  ftz : Bool := false                  -- FPCTL
  daz : Bool := false
  rnd : BitVec 3 := 0
  seed0 : Word := 0
  seed1 : Word := 0
  scratch : SMap Word := []
  events : SMap Nat := []
  pbase : Nat := 0                     -- partition (R116): offset in the core's control-processor memory, and size
  psize : Nat := 0x10000
  bufs : SMap Buf := []
  portMap : SMap Nat := []             -- of a thawed member (R409)
  budget : Shares := {}
  loadBytes : Nat := 0                 -- running count of loader bytes (R327)
  freezing : Bool := false             -- a packet FREEZE is to stop the context (R44)
  quiet : Option (List (Nat × Nat × Nat × Nat)) := none  -- totals of the first wave of RGN.QUIET, per region
deriving DecidableEq, Repr

/-! ## Regions and engines -/

/-- Context slot states (R34). -/
inductive SlotState where
  | idle
  | loading
  | ready
  | current
  | retiring
deriving DecidableEq, Repr

/-- A slot of a region: its state and header words HW0 to HW9 (R34, R70). -/
structure Slot where
  st : SlotState := .idle
  header : List W32 := []
  hasHeader : Bool := false
  eccElems : List Nat := []            -- elements whose words under this slot hold an uncorrectable error (R462)
deriving DecidableEq, Repr

/-- What a region is doing (R266). -/
inductive RegionPhase where
  | placed
  | joining
  | freezing (addr : Word) (packet : Bool)
  | aborting
deriving DecidableEq, Repr

/-- An entry of a round's write log (R41, R167, R405): address, operation, size, round, value, and where it came
from (element, issue order, and the port of a DET scatter or request). -/
structure LogEntry where
  va : Word
  op : Option AOp
  size : Nat
  round : BitVec 32
  value : Word
  elem : Nat
  port : Nat
  seq : Nat                            -- the binding and item whose write it is
  item : Nat
  no : Nat := 0                        -- the access that brought it: its place in issue order
  place : Nat := 0                     -- where it lies, and its page's attribute
  attr : Attr := .normal
  mark : Nat × Nat                     -- lane and number of its token at the port (R157)
  poisoned : Bool := false
  clear : Bool := false                -- a CLEAR store (R118)
deriving DecidableEq, Repr

/-- A region (R20, R23, R25). -/
structure Region where
  alloc : Nat := 0
  ctx : Nat := 0                       -- program context of the member
  lr : Nat := 0                        -- local region number
  ireg : Nat := 0                      -- index in the image's region table
  row0 : Nat := 0
  col0 : Nat := 0
  rows : Nat := 1
  cols : Nat := 1
  slots : SMap Slot := []
  cur : Nat := 0
  remaining : SMap Nat := []           -- section counts (R25)
  tagUsed : BitVec 64 := 0             -- tags taken from the pool (R26): free is the complement
  sent : Nat := 0                      -- totals of R42
  recv : Nat := 0
  drained : List (Nat × Bool) := []    -- slots that DRAINED swaps have left, with RESET or not (R36, R251)
  quantumUp : Bool := false            -- the CURRENT configuration has been current for its quantum (R39)
  order : List Nat := []               -- slots, least recently current first
  wantConf : Option Nat := none        -- configuration the scheduler is loading
  steps : Nat := 0                     -- sequence steps taken (R45)
  phase : RegionPhase := .placed
  stopped : Bool := false              -- the freeze wave has passed (R44)
  spawned : Bool := false
  det : Bool := false
  log : List LogEntry := []
  rounds : Nat := 0                    -- rounds published, and applied, of the log (R167)
  applied : Nat := 0
deriving DecidableEq, Repr

/-- A pattern record (R244, R245). -/
structure Pattern where
  base : Word := 0
  cnt0 : W32 := 0
  str0 : W32 := 0
  cnt1 : W32 := 0
  str1 : W32 := 0
  cnt2 : W32 := 0
  str2 : W32 := 0
  cnt3 : W32 := 0
  str3 : W32 := 0
  lo : W32 := 0
  hi : W32 := 0
  mxbase : Word := 0
  ctrl : W32 := 0
  stat : W32 := 0
deriving DecidableEq, Repr

/-- States of a binding (R254); `drained` has moved its last token and waits for its last item. -/
inductive BState where
  | bound
  | queued
  | active
  | drained
deriving DecidableEq, Repr

/-- An item of a binding that has not finished (R246 to R248, R397). -/
structure Item where
  no : Nat
  bytes : Nat := 0
  failed : Bool := false
  poisoned : Bool := false
  cause : BitVec 8 := 0
  addr : Word := 0                     -- address of its first faulting access
  waits : Nat := 0                     -- its accesses not yet performed
  tokens : Nat := 0                    -- its tokens not yet accepted at the port
  closed : Bool := false               -- it gets no more tokens or accesses
  faultSlot : Option W32 := none       -- SLOTCNT of its stream when its first fault was detected (R389)
deriving DecidableEq, Repr

/-- A move of a load or gather whose tokens have not all been sent: what its access has come to, and its tokens once
they are ready. -/
structure Fetched where
  move : Nat
  item : Nat
  got : Option Result := none
  line : Nat := 0                      -- the line that its access read
  addr : Word := 0
  ready : Bool := false
  toks : List Token := []
  tag : BitVec 6 := 0                  -- gather: the request's TAG
  ends : Bool := false                 -- an END follows it (R246)
  no : Nat := 0                        -- number of its first token in the order of production (R83)
deriving DecidableEq, Repr

/-- A scale byte that a reading binding has read, or the cause of its fault and whether the read was not performed
(R399). -/
structure ScaleByte where
  side : BitVec 8 := 0
  cause : Option Nat := none
  failed : Bool := false
deriving DecidableEq, Repr

/-- A page translated ahead: asked for, or its place and attribute, or the fault that the walk ended with (R124,
R437). -/
inductive PageEnd where
  | asked
  | placed (pa : Nat) (attr : Attr)
  | fault (cause : Nat)
deriving DecidableEq, Repr

/-- A binding (R254, R255). -/
structure Binding where
  seq : Nat
  lane : Bool := false
  named : Nat := 0                     -- the port the instruction named (R409)
  pat : Pattern := {}
  ctx : Nat := 0
  alloc : Nat := 0
  gen : BitVec 12 := 0
  st : BState := .bound
  deadline : W32 := 0
  issued : Nat := 0                    -- moves whose access has been issued
  moved : Nat := 0                     -- tokens moved through the port
  fetched : List Fetched := []
  items : List Item := []
  itemNo : Nat := 0                    -- the open item
  finished : Nat := 0
  failAny : Bool := false
  lateAny : Bool := false
  ended : Option (BitVec 8) := none    -- cancelled, cut or aborted, with the cause of its unfinished items
  endSlot : W32 := 0                   -- SLOTCNT of its stream at that moment
  found : Option (Nat × Nat) := none   -- item and line of an error that a read of it has found (R399)
  demoted : Bool := false
  late : Bool := false                 -- LATEPOL has changed it (R335)
  half : List Token := []              -- tokens of an unfinished move (CB9, FP4 with W = 1)
  endsAt : Bool := false               -- the next token to take is an item's END (R247)
  discard : Bool := false              -- a store discards DATA until an END (R247)
  translated : List (Nat × PageEnd) := []  -- pages translated ahead (R124)
  scales : SMap ScaleByte := []        -- by block: scale bytes read (R83)
  scaleNext : Nat := 0                 -- blocks whose scale byte has been asked for, or written
deriving DecidableEq, Repr

/-- Status kept of a DONE binding (R258). -/
structure DoneStatus where
  seq : Nat
  ctx : Nat
  items : Nat
  failAny : Bool
  lateAny : Bool
  cancelled : Bool
deriving DecidableEq, Repr

/-- The sending end of a ring channel (R66, R350): receiving core and port, the member and buffer allocation that
hold the ring, and the free slots counted by a sender on another die. -/
structure RingTx where
  core : Nat
  port : Nat
  ctx : Nat
  buf : Nat
  slots : Nat
deriving DecidableEq, Repr

/-- The receiving end: the sender, the buffer allocation that holds the ring, and the slots still to return. -/
structure RingRx where
  core : Nat
  port : Nat
  ctx : Nat
  buf : Nat
  owed : Nat := 0
deriving DecidableEq, Repr

/-- An edge port (R55, R56, R254 to R258). -/
structure Port where
  out0 : List Token := []              -- outgoing lanes
  out1 : List Token := []
  bindings : List Binding := []
  dones : List DoneStatus := []
  seqNext : Nat := 0
  tx : Option RingTx := none
  rx : Option RingRx := none
  hold : Option Hold := none           -- an END held before it leaves by a ring channel (R157)
  left : SMap Nat := []                -- DATA and ERROR tokens put on each outgoing lane
  offered : List (Nat × Option (Nat × Nat)) := []  -- tokens offered and not accepted: lane, binding and item
  ringCount : Nat := 0                 -- tokens a ring channel has taken or delivered here (R42)
  rounds : SMap Nat := []              -- per lane: ROUNDs that have passed this port of a DET region (R167)
deriving DecidableEq, Repr

/-- A command on the configuration path (R240). -/
inductive CfgOp where
  | load (slot : Nat) (addr : Word) (full : Bool) (sched : Bool)
  | init (addr : Word)
  | write (word : W32)
  | clr (sel : Word)
  | drain (sel : Word) (mem : Option Word)
  | spill (sel addr : Word)
  | fill (sel addr : Word)
  | merge (sel addr : Word)
  | freeze (addr : Word)
  | abort
deriving DecidableEq, Repr

structure CfgCmd where
  id : Nat
  ctx : Option Nat                     -- none: the region scheduler, or Teasel's INIT load
  region : Nat                         -- number on the core
  alloc : Nat
  op : CfgOp
  tile : Bool := false
  evt : Bool := false
deriving DecidableEq, Repr

/-- A configuration stream that the loader has read and whose end has not reached every row (R73). -/
structure Loading where
  cmd : CfgCmd
  slot : Nat
  words : List W32 := []               -- as read
  ended : Bool := false                -- the end of the stream, or a failure, has been met
  cause : Option Nat := none           -- the read that failed
deriving DecidableEq, Repr

/-- A write of an accumulator command that waits for its turn in the order of k (R269): its element, the act in which
the command acted there, its bytes, and whether they go under poison. -/
structure XaWrite where
  elem : Nat
  act : Nat
  bytes : List Byte
  poisoned : Bool
deriving DecidableEq, Repr

/-- An accumulator command in the fabric (R268): the elements at which it has still to act with each one's number k,
those at which it acts before the next firing, records read, and words and records to be written in the order of k. -/
structure XaCmd where
  cmd : CfgCmd
  left : List (Nat × Nat)
  armed : List Nat := []
  records : SMap (SMap Result) := []   -- per record: its parts by offset, as they have come
  asked : Nat := 0                     -- records whose reads have been issued
  outbox : SMap XaWrite := []          -- by k
  nextK : Nat := 0
  guardAt : Option Nat := none
  guardCount : Nat := 0
  badAt : Option Word := none
  badCount : Nat := 0
deriving DecidableEq, Repr

/-- The marks of a stream as a core has applied them, and the values in force (R271, R313, R326). -/
structure MarkView where
  sym : W32 := 0
  slot : W32 := 0
  kind : Bool := false
  index : BitVec 16 := 0
  ldram : W32 := 0xFFFFFFFF
  llink : W32 := 0xFFFFFFFF
  lload : W32 := 0xFFFFFFFF
  latepol : BitVec 2 := 0
  wt : BitVec 4 := 0
deriving DecidableEq, Repr

/-- A mark on its way to a core: the stream, the mark's kind and what the unit delivers with it (R313). -/
structure MarkMsg where
  stream : Nat
  slotMark : Bool
  view : MarkView
deriving DecidableEq, Repr

/-- The structured content that a freeze image was written from, beside the bytes it wrote (DESIGN CHOICE, log 17). -/
structure FrozenRegion where
  region : Region := {}
  elems : SMap Elem := []              -- by ELEM within the region
  ports : SMap Port := []
  config : SMap (BitVec 16) := []
  accesses : List Access := []         -- of its bindings, not yet issued (R449)
  gen : BitVec 12 := 0                 -- the member's generation when the image was taken
  feat0 : Word := 0                    -- the features it requires
  feat1 : Word := 0
deriving DecidableEq, Repr

/-- A core (R9). (DESIGN CHOICE, log 5.) -/
structure Core where
  ctxs : SMap Ctx := []
  regions : SMap Region := []
  elems : SMap Elem := []
  ports : SMap Port := []
  config : SMap (BitVec 16) := []      -- configuration store: ((slot * 256 + element) * 64 + field); 0 unlisted
  cfgPath : List CfgCmd := []
  loading : Option Loading := none
  xaCmds : List XaCmd := []
  tlb : List TlbEntry := []            -- least recently used first
  installs : SMap FrozenRegion := []   -- regions being thawed, by number, with what is to be put into them
  genNext : Nat := 1
  sweepDue : Bool := false
  marks : SMap MarkView := []
  markQ : List MarkMsg := []
  oldRegs : SMap (SMap Reg) := []      -- g registers of contexts that have left (R22, R130)
  fireLast : Nat := 3                  -- the context that a cycle's first instruction was of, and the one that may still
  fireMore : Option (Nat × Nat × Nat) := none  -- fire in that cycle: its context, block number and index (R169)
  fetchLast : Nat := 3                 -- the context that began a block last (R32)
  engineLast : SMap Nat := []          -- per stream engine: the side it served last (R324)
  schedLast : Nat := 255               -- the region whose decision the scheduler made last (R334)
deriving DecidableEq, Repr

/-! ## Allocations -/

/-- States of an allocation (R21). -/
inductive AllocState where
  | placing
  | running
  | frozen
  | ending
  | ended
deriving DecidableEq, Repr

/-- A region shape of an image (R200). -/
structure Shape where
  rows : Nat
  cols : Nat
  flags : BitVec 8
  nconf : Nat
  init : Nat
  conftab : Nat
deriving DecidableEq, Repr

/-- A channel entry of an image (R200): region and port at each end, log2 of the ring size, 0 for a link. -/
structure Chan where
  src : Nat
  srcPort : Nat
  dst : Nat
  dstPort : Nat
  logSize : Nat
deriving DecidableEq, Repr

/-- A section of an image (R199). -/
structure Sect where
  type : Nat
  fileOff : Nat
  size : Nat
  addr : Nat
deriving DecidableEq, Repr

/-- A relocation (R202). -/
structure Reloc where
  offset : Nat
  sect : Nat
  type : Nat
  addend : Nat
deriving DecidableEq, Repr

/-- What Teasel reads of a .moa file (R198 to R202). -/
structure Image where
  feat0 : Word := 0
  feat1 : Word := 0
  entry : Nat := 0
  cpmem : Nat := 0
  bufs : List (Nat × Bool) := []       -- log2 of the size, QUEUE
  affin : Option Nat := none
  segSize : Nat := 0
  sects : List Sect := []
  relocs : List Reloc := []
  shapes : List Shape := []
  chans : List Chan := []
  tree : List Byte := []               -- configuration words with FIELD 10 to 12 (R356)
  spawnRows : Nat := 0
  spawnCols : Nat := 0
  spawnAreas : Nat := 0
  bytes : List Byte := []              -- the file, for IMGH and TREEH (R356)
deriving DecidableEq, Repr

/-- A member: core and program context (R19). -/
structure Member where
  core : Nat
  ctx : Nat
deriving DecidableEq, Repr

/-- A request in the spawn queue (R43, R263, R267). -/
structure SpawnReq where
  core : Nat
  ctx : Nat
  region : Nat                         -- the requesting region's local number
  lr : Nat                             -- the number given
  thaw : Option Word                   -- RGN.THAW: the image's address
  subgraph : Nat
deriving DecidableEq, Repr

/-- An area reserved for SPAWN (R43, R322). -/
structure Area where
  core : Nat
  row : Nat
  col : Nat
  rows : Nat
  cols : Nat
  used : Option Nat := none            -- the region in it
deriving DecidableEq, Repr

/-- An allocation (R19). -/
structure Alloc where
  st : AllocState := .placing
  strm : Nat := 16
  strict : Bool := false
  root : Nat := 0
  segbase : Nat := 0
  moa : Word := 0
  args : Word := 0
  seed0 : Word := 0
  seed1 : Word := 0
  img : Image := {}
  members : List Member := []
  count : Nat := 0                     -- members placed at LAUNCH; 0 before (R356)
  sgens : List (BitVec 12) := []       -- staging generations of dies 0 to 3 (R117)
  spawnQ : List SpawnReq := []
  areas : List Area := []
  launch : Option Nat := none          -- the packet that completes when it is ENDED
  aborting : Bool := false
  inits : Nat := 0                     -- INIT loads not yet complete
deriving DecidableEq, Repr

structure FrozenMember where
  ctx : Ctx := {}
  core : Nat := 0
  regions : List FrozenRegion := []
  partition : List (List Byte × Bool × Bool) := []    -- granules: bytes, present, poison
  bufData : List (List (List Byte × Bool × Bool)) := []
deriving DecidableEq, Repr

structure Frozen where
  area : Option Nat := none            -- a packet's FREEZE: the allocation
  bytes : List Byte := []
  members : List FrozenMember := []
deriving DecidableEq, Repr

/-! ## Streams, queues, Teasel -/

/-- A stream's registers and what the mark unit has applied (R312, R313). -/
structure Stream where
  view : MarkView := {}                -- as the mark unit last applied
  ldram : W32 := 0xFFFFFFFF            -- written values
  llink : W32 := 0xFFFFFFFF
  lload : W32 := 0xFFFFFFFF
  latepol : BitVec 2 := 0
  wt : BitVec 4 := 0
  pend : Bool := false
  laten : W32 := 0
  defer : W32 := 0
  shared : Nat := 0                    -- members that received shares at the last slot mark (R326)
deriving DecidableEq, Repr

/-- A mark at the mark unit, with the packet that waits for it (R271). -/
structure Mark where
  stream : Nat
  kind : Bool
  index : BitVec 16
  packet : Option Nat := none
deriving DecidableEq, Repr

/-- Where a packet stands. -/
inductive PacketState where
  | read
  | started
  | finished
deriving DecidableEq, Repr

/-- A packet that Teasel has read (R314, R318): its queue, its place, the INDIRECT it came from. -/
structure Packet where
  id : Nat
  queue : Nat
  d : List Word
  addr : Nat
  parent : Option Nat := none
  st : PacketState := .read
  refused : Bool := false              -- it posts no completion word and sets no DONE (R445)
  left : Nat := 0                      -- INDIRECT: lines still to read
  pieces : Nat := 0                    -- COPY: pieces not yet performed; INDIRECT: packets not yet completed
  status : BitVec 8 := 0               -- COPY: 2 FAILED, 3 POISONED, 0 otherwise
  cause : BitVec 8 := 0
  causeAt : Nat := 0
  bytes : Nat := 0
deriving DecidableEq, Repr

/-- A piece of a COPY (R317): the core and stream engine that serve it, its place, what it has moved, the line that
it has read and not yet written, and its first fault. -/
structure Piece where
  id : Nat
  packet : Nat
  core : Nat
  unit : Nat
  src : Nat
  dst : Nat
  len : Nat
  clear : Bool
  strm : Nat
  off : Nat := 0
  line : Option Result := none
  moved : Nat := 0
  failed : Bool := false
  poisoned : Bool := false
  cause : Nat := 0
  addr : Nat := 0
  info : Nat := 0                      -- INFO of its first fault, and SLOTCNT of its stream then (R389, R441)
  faultSlot : W32 := 0
deriving DecidableEq, Repr

/-- A command queue (R310, R311). -/
structure Queue where
  base : BitVec 24 := 0
  log2n : BitVec 4 := 0
  tail : W32 := 0
  head : W32 := 0
  infl : BitVec 16 := 0
  done : Bool := false
  refused : Bool := false
  waiting : Bool := false
  tol : BitVec 16 := 0
  overNoted : Bool := false            -- TAIL - HEAD exceeds the ring, noted (R443)
  noticed : Bool := true               -- Teasel has noticed the latest TAIL (R336)
  irqDue : Bool := false               -- DONE is set and IRQ_N not yet asserted for it (R337)
  cur : Option Nat := none             -- the packet in the strip
deriving DecidableEq, Repr

/-- Teasel (R319 to R323, R336). -/
structure Teasel where
  packets : List Packet := []
  pieces : List Piece := []
  placing : List Nat := []             -- packets handed to the placement logic, in order
  streamRun : Nat := 0                 -- consecutive choices from Q0 to Q15 (R320)
  lastBg : Nat := 19
  asleep : Bool := false
  marks : List Mark := []              -- at the mark unit
deriving DecidableEq, Repr

/-- An event signal on its way to a context of an allocation (R242, R274). -/
structure EventMsg where
  alloc : Nat
  core : Nat
  ctx : Nat
  event : Nat
deriving DecidableEq, Repr

/-- What travels over die links: a token of allocation a for the ring in buffer allocation b of context x of core c,
with its number among what has been sent, an access on its way to its home, or what it came to on its way back (R66,
R348). -/
inductive Cargo where
  | token (a c x b no : Nat) (t : Token)
  | request (id : Nat)
  | response (id : Nat)
deriving DecidableEq, Repr

/-- A flit's content on its way: its class, the core that sent it (160: the port die) and its place among that core's
sources, who pays, the die links still to cross (true: from the link's second end to its first), the budget check
of R328, whether it holds a credit of the next link, its place in the order of what has been sent, 0 before its first
link, and whether the loss of a link has turned it. (DESIGN CHOICE, log 80.) -/
structure Flight where
  what : Cargo
  cls : Nat
  core : Nat
  src : Nat
  payer : Payer
  units : Nat := 1
  hops : List (Nat × Bool) := []
  deferred : Option Nat := none
  deferNo : Nat := 0
  credit : Bool := false
  sent : Nat := 0
  turned : Bool := false
deriving DecidableEq, Repr

/-- Ring slots on their way back to a sender: its core and port, the ring's core, context and buffer allocation, the
units of eight slots, and the links still to cross (R350). -/
structure SlotReturn where
  core : Nat
  port : Nat
  rxCore : Nat
  ctx : Nat
  buf : Nat
  units : Nat
  hops : List (Nat × Bool) := []
deriving DecidableEq, Repr

/-! ## The device -/

/-- BOOTST.STATE (R346, R351). -/
inductive BootState where
  | waitfw
  | verify
  | init
  | ready
  | minimal
deriving DecidableEq, Repr

/-- The device registers (R346, R390) and the manifest header (R355). -/
structure Dev where
  boot : BootState := .waitfw
  reason : BitVec 8 := 0
  tries : BitVec 8 := 0
  fromMinimal : Bool := false          -- the start under way was asked for in MINIMAL (R464)
  detail : BitVec 4 := 0
  featd : Word := 0
  feath : Word := 0
  feathNext : Option Word := none      -- written while a queue was busy (R353)
  pwrcap : BitVec 16 := 600
  capNow : BitVec 16 := 600            -- the cap in force (R359)
  est : W32 := 0
  pstep : Nat := 0
  lowRun : Nat := 0                    -- consecutive estimates that let the ladder down
  capRec : Bool := false               -- the 0x8C and 0x8D records stand (R466)
  tempRec : Bool := false
  temps : List (BitVec 8) := [0, 0, 0, 0, 0]
  tlim : BitVec 8 := 105
  irqPwr : Bool := false
  irqBoot : Bool := false
  irqMask : BitVec 22 := 0x3FFFFF
  irqN : Bool := false                 -- IRQ_N is asserted
  lost : BitVec 16 := 0                -- FLTRING, FLTPTR
  qsel : BitVec 5 := 0x1F
  log2n : BitVec 4 := 0
  offset : BitVec 24 := 0
  head : W32 := 0
  tail : W32 := 0
  seq : BitVec 16 := 0                 -- SEQ of the next record, and whether OVF is due
  ovf : Bool := false
  svn : W32 := 0                       -- manifest header
  fwhash : List Byte := []
  striphash : List Byte := []
deriving DecidableEq, Repr

/-- The host port (R341, R342, R458). -/
structure HostPort where
  mrs : SMap (BitVec 8) := []          -- mode registers: number + 128 * set point
  fsp : Bool := false                  -- active set point
  rows : SMap Nat := []                -- open row of a bank, by channel * 16 + bank (R343, R458)
  fifo : SMap (List Byte) := []        -- write FIFO per channel
  down : SMap Bool := []               -- channel in power-down
  selfRef : SMap Bool := []            -- channel in self refresh
  readData : List Byte := []           -- what the last read returned
  quietFor : SMap Nat := []            -- per cause and channel: commands for which no record is written
  missed : SMap Nat := []              -- events not recorded meanwhile
deriving DecidableEq, Repr

/-- A compute die: staging generations, copy allowances, walks (R117, R123, R317). -/
structure Die where
  sgenNext : Nat := 1
  sweepDue : Bool := false
  copies : SMap Shares := []           -- per stream
  copyNext : Nat := 0                  -- the engine that takes the next piece, counted from the first (R317)
  walks : List Walk := []
deriving DecidableEq, Repr

/-- A die link (R348 to R350, R460, R461): direction true is from the higher-numbered end. -/
structure Link where
  down : Bool := false
  credits : SMap Nat := []             -- per class + 4 * direction: flits the sender may still send, of 32
  buffers : SMap (List Flight) := []   -- per class + 4 * direction: flits at the receiver
  owed : SMap Nat := []                -- per class + 4 * direction: credits to return
  wire : SMap (List Byte) := []        -- per direction: the flit that crossed last, in its 256 bytes (R348)
deriving DecidableEq, Repr

/-- The machine. -/
structure State where
  acts : Nat := 0
  coresReset : Nat := 0                -- the act at which the cores were last reset (CYCLE counts from it)
  agenda : List Move := []
  turn : Nat := 0
  focus : Focus := {}
  mem : List Host.Cell := []
  gran : SMap Granule := []
  cores : SMap Core := []
  feat0 : SMap Word := []              -- FEAT0 of a core; an unlisted core has every feature (DESIGN CHOICE, log 6)
  allocs : SMap Alloc := []
  streams : SMap Stream := []
  queues : SMap Queue := []
  dies : SMap Die := []
  links : SMap Link := []
  accesses : List Access := []
  nextId : Nat := 1
  teasel : Teasel := {}
  eventMsgs : List EventMsg := []
  flights : List Flight := []
  slotReturns : List SlotReturn := []
  faultQ : List FaultRec := []
  dev : Dev := {}
  host : HostPort := {}
  frozen : List Frozen := []
  oncePages : List Nat := []           -- staging pages that the last walk to meet them found ONCE (R317)
  serviceOut : List Byte := []
deriving DecidableEq, Repr

/-- The machine right after reset: BOOTST.STATE is WAITFW, nothing is placed, every register at the value its rule
gives for reset (R312, R346, R351, R390), and every other at the value the assumption log names. -/
def State.reset : State := {}

end Sys2Proof.Machine
end

