-- ==== Sys2Proof/Machine/Ops.lean ====
section
/-! DEFINITION. The named operations over the state: where things stand, memory with its generations and poison,
fault records, the slots of a block in flight, and taking and leaving a trap. -/

namespace Sys2Proof.Machine

/-! ## Reading and writing the parts of the state -/

def State.core (s : State) (c : Nat) : Core := s.cores.lookD c {}
def State.setCore (s : State) (c : Nat) (k : Core) : State := { s with cores := s.cores.put c k }
def State.updCore (s : State) (c : Nat) (f : Core → Core) : State := s.setCore c (f (s.core c))
def State.ctx? (s : State) (c x : Nat) : Option Ctx := (s.core c).ctxs.look x
def State.setCtx (s : State) (c x : Nat) (k : Ctx) : State :=
  s.updCore c fun q => { q with ctxs := q.ctxs.put x k }
def State.updCtx (s : State) (c x : Nat) (f : Ctx → Ctx) : State :=
  match s.ctx? c x with
  | some k => s.setCtx c x (f k)
  | none => s
def State.updBlock (s : State) (c x : Nat) (f : Block → Block) : State :=
  s.updCtx c x fun k => { k with block := k.block.map f }
def State.elem (s : State) (c e : Nat) : Elem := (s.core c).elems.lookD e {}
def State.setElem (s : State) (c e : Nat) (v : Elem) : State :=
  s.updCore c fun q => { q with elems := q.elems.put e v }
def State.updElem (s : State) (c e : Nat) (f : Elem → Elem) : State := s.setElem c e (f (s.elem c e))
def State.region? (s : State) (c r : Nat) : Option Region := (s.core c).regions.look r
def State.setRegion (s : State) (c r : Nat) (v : Region) : State :=
  s.updCore c fun q => { q with regions := q.regions.put r v }
def State.updRegion (s : State) (c r : Nat) (f : Region → Region) : State :=
  s.updCore c fun q => { q with regions := q.regions.upd r f }
def State.port (s : State) (c p : Nat) : Port := (s.core c).ports.lookD p {}
def State.setPort (s : State) (c p : Nat) (v : Port) : State :=
  s.updCore c fun q => { q with ports := q.ports.put p v }
def State.updPort (s : State) (c p : Nat) (f : Port → Port) : State := s.setPort c p (f (s.port c p))
def State.alloc? (s : State) (a : Nat) : Option Alloc := s.allocs.look a
def State.setAlloc (s : State) (a : Nat) (v : Alloc) : State := { s with allocs := s.allocs.put a v }
def State.updAlloc (s : State) (a : Nat) (f : Alloc → Alloc) : State := { s with allocs := s.allocs.upd a f }
def State.stream (s : State) (m : Nat) : Stream := s.streams.lookD m {}
def State.updStream (s : State) (m : Nat) (f : Stream → Stream) : State :=
  { s with streams := s.streams.put m (f (s.stream m)) }
def State.queue (s : State) (q : Nat) : Queue := s.queues.lookD q {}
def State.updQueue (s : State) (q : Nat) (f : Queue → Queue) : State :=
  { s with queues := s.queues.put q (f (s.queue q)) }
def State.die (s : State) (d : Nat) : Die := s.dies.lookD d {}
def State.updDie (s : State) (d : Nat) (f : Die → Die) : State := { s with dies := s.dies.put d (f (s.die d)) }
def State.link (s : State) (l : Nat) : Link := s.links.lookD l {}
def State.updLink (s : State) (l : Nat) (f : Link → Link) : State := { s with links := s.links.put l (f (s.link l)) }
def State.updDev (s : State) (f : Dev → Dev) : State := { s with dev := f s.dev }
def State.updTeasel (s : State) (f : Teasel → Teasel) : State := { s with teasel := f s.teasel }

/-- One act performed: the number that free values and the turn of the agents are counted by (DESIGN CHOICE, log 1). -/
def State.acted (s : State) : State := { s with acts := s.acts + 1 }

/-- A step of the machine that has an effect only when its conditions hold; otherwise its agent waits (R33). -/
def attempt (f : State → Option State) (s : State) : Host.Outcome State Fault Refusal :=
  match f s with
  | some t => .next t.acted
  | none => .next s

/-- The die of a core (R8). -/
def dieOf (c : Nat) : Nat := c / Config.coresPerDie

/-! ## Where a byte lives (R109, R111; DESIGN CHOICE, log 3 for the core-local memories) -/

def dramEnd : Nat := 0x10_0000_0000
def stagingBase : Nat := 0x10_0000_0000
def stagingEnd : Nat := 0x10_0200_0000
def portBase : Nat := 0x11_0000_0000
def portEnd : Nat := 0x11_0100_0000
def regsBase : Nat := 0x11_0200_0000
def regsEnd : Nat := 0x11_0201_0000
def localBase : Nat := 0x20_0000_0000

/-- Address of a byte of core c's stream buffer, and of its control-processor memory, in the model's memory. -/
def sbufAddr (c off : Nat) : Nat := localBase + c * 0x20_0000 + off
def cpAddr (c off : Nat) : Nat := localBase + c * 0x20_0000 + 0x10_0000 + off

inductive Home where
  | dram (d : Nat)
  | staging (d : Nat)
  | portMem
  | regs
  | sbuf (c : Nat)
  | cpMem (c : Nat)
deriving DecidableEq, Repr

/-- The home of a byte (R111, R137); none where no memory is. -/
def homeOf (a : Nat) : Option Home :=
  if a < dramEnd then some (.dram (a / 0x4_0000_0000))
  else if a < stagingEnd then some (.staging ((a - stagingBase) / 0x80_0000))
  else if a < portBase then none
  else if a < portEnd then some .portMem
  else if a < regsBase then none
  else if a < regsEnd then some .regs
  else if a < localBase then none
  else
    let c := (a - localBase) / 0x20_0000
    let o := (a - localBase) % 0x20_0000
    if c < Config.cores then
      if o < 0x10_0000 then some (.sbuf c) else if o < 0x11_0000 then some (.cpMem c) else none
    else none

/-- Tagged memory carries a generation on every granule (R109). -/
def taggedAt (a : Nat) : Bool :=
  match homeOf a with
  | some (.staging _) | some (.sbuf _) | some (.cpMem _) => true
  | _ => false

/-- The generation under which an agent of an allocation, with its member's generation g, reaches a byte (R127). -/
def State.genAt (s : State) (a : Nat) (g : BitVec 12) (addr : Nat) : BitVec 12 :=
  match homeOf addr with
  | some (.staging d) => ((s.alloc? a).map fun k => k.sgens.getD d 0).getD 0
  | _ => g

def State.strictOf (s : State) (a : Nat) : Bool := ((s.alloc? a).map (·.strict)).getD false

/-! ## Fault records (R388, R389) -/

def State.report (s : State) (r : FaultRec) : State := { s with faultQ := s.faultQ ++ [r] }

def State.strmOf (s : State) (a : Nat) : Nat := ((s.alloc? a).map (·.strm)).getD 16

/-- The marks of the allocation's stream as a core has applied them (R271). -/
def State.markView (s : State) (c : Nat) (m : Nat) : MarkView :=
  if m < 16 then (s.core c).marks.lookD m {} else {}

/-- Does Campion run? It starts at the INIT step (R351). -/
def Dev.campionUp (d : Dev) : Bool := d.boot = .init || d.boot = .ready

/-- The fields of a record that name an allocation's work on a core (R389). -/
def State.recordFor (s : State) (c : Nat) (a : Nat) (gen : BitVec 12) (cause src : Nat) : FaultRec :=
  { cause := BitVec.ofNat 8 cause, src := BitVec.ofNat 8 src, core := BitVec.ofNat 8 c, alloc := BitVec.ofNat 8 a,
    strm := BitVec.ofNat 8 (s.strmOf a), slot := (s.markView c (s.strmOf a)).slot, gen := gen }

/-! ## Memory with tags, poison and errors -/

def State.granule (s : State) (g : Nat) : Granule := s.gran.lookD g {}
def State.setGranule (s : State) (g : Nat) (v : Granule) : State := { s with gran := s.gran.put g v }

/-- The lines that n bytes from a touch. -/
def linesOf (a n : Nat) : List Nat := if n = 0 then [] else List.range' (a / 64) ((a + n - 1) / 64 - a / 64 + 1)

def State.bytesAt (s : State) (a n : Nat) : List Byte := Memory.readN s.mem a n

/-- What a home answers to a read (R129, R398, R399, R403). -/
structure ReadOut where
  st : State
  bytes : List Byte
  foreign : Bool := false     -- under STRICT, some granule was under another generation: not performed
  poisoned : Bool := false
  fresh : Bool := false       -- the error was found by this very read

/-- The home checks every read: a line with an error that no read has found becomes poisoned and is reported once
(R398, R462). -/
def State.checkLine (s : State) (g : Nat) (r : FaultRec) : State × Bool :=
  let k := s.granule g
  if k.bad then
    let t := s.setGranule g { k with bad := false, poison := true, reported := true }
    (if k.reported then t
     else t.report { r with cause := 0x26, src := 4, info := if r.info = 0 then BitVec.ofNat 64 (g * 64) else r.info },
     true)
  else (s, false)

def State.checkLines (s : State) (r : FaultRec) : List Nat → State × Bool
  | [] => (s, false)
  | g :: gs =>
    let p := s.checkLine g r
    let q := p.1.checkLines r gs
    (q.1, p.2 || q.2)

/-- The bytes of a read under generation g, granule by granule: zeros where the tag is another (R129). -/
def State.ownBytes (s : State) (g : BitVec 12) (a : Nat) : Nat → List Byte
  | 0 => []
  | n + 1 =>
    (if taggedAt a && (s.granule (a / 64)).tag != g then 0 else Memory.read s.mem a) :: s.ownBytes g (a + 1) n

/-- A read of n bytes under generation g. -/
def State.readAs (s : State) (g : BitVec 12) (strict : Bool) (a n : Nat) (r : FaultRec) : ReadOut :=
  let ls := linesOf a n
  let p := s.checkLines r ls
  let own (l : Nat) : Bool := !taggedAt (l * 64) || (p.1.granule l).tag == g
  { st := p.1, bytes := p.1.ownBytes g a n, foreign := strict && ls.any fun l => !own l,
    poisoned := ls.any fun l => own l && (p.1.granule l).poison, fresh := p.2 }

/-- Bytes of line l that the range [a, a + n) covers: all of them? -/
def coversLine (a n l : Nat) : Bool := a ≤ l * 64 && (l + 1) * 64 ≤ a + n

/-- Before a write under g into line l: a granule under another tag loses its bytes, poison and presence (R118,
R128), a line covered whole loses its poison (R134, R398), and a tagged granule is stamped. -/
def State.stampLine (s : State) (g : BitVec 12) (a n l : Nat) : State :=
  let k := s.granule l
  let foreign := taggedAt (l * 64) && k.tag != g
  let whole := coversLine a n l
  let s := if foreign then { s with mem := Memory.writeN s.mem (l * 64) (List.replicate 64 0) } else s
  s.setGranule l { k with
    tag := if taggedAt (l * 64) then g else k.tag
    presence := if foreign then 0 else k.presence
    poison := if whole || foreign then false else k.poison
    bad := if whole || foreign then false else k.bad
    reported := if whole || foreign then false else k.reported }

/-- A write of bytes under generation g (R128). -/
def State.writeAs (s : State) (g : BitVec 12) (a : Nat) (bs : List Byte) : State :=
  let s := (linesOf a bs.length).foldl (fun s l => s.stampLine g a bs.length l) s
  { s with mem := Memory.writeN s.mem a bs }

/-- A write that leaves poison behind on every granule or line it touches (R398). -/
def State.poisonAs (s : State) (g : BitVec 12) (a n : Nat) : State :=
  let s := s.writeAs g a (List.replicate n 0)
  (linesOf a n).foldl (fun s l => s.setGranule l { s.granule l with poison := true }) s

/-- A write to memory without tags, or one that keeps each granule's tag (R119, R317). -/
def State.writeRaw (s : State) (a : Nat) (bs : List Byte) : State :=
  let s := (linesOf a bs.length).foldl (fun s l =>
    if coversLine a bs.length l then
      s.setGranule l { s.granule l with poison := false, bad := false, reported := false } else s) s
  { s with mem := Memory.writeN s.mem a bs }

/-- A little-endian number read from memory as it stands. -/
def State.numAt (s : State) (a n : Nat) : Nat := leNat (s.bytesAt a n)

/-! ## Generations of registers (R128 to R130) -/

/-- A g register as a reader under generation g sees it: under another tag, zero. -/
def Reg.readAs (r : Reg) (g : BitVec 12) : Word := if r.tag = g then r.val else 0

def Ctx.reg (k : Ctx) (j : Nat) : Reg := k.regs.lookD j {}
def Ctx.setReg (k : Ctx) (j : Nat) (v : Word) : Ctx :=
  { k with regs := k.regs.put j { val := v, tag := k.gen, poison := false } }

/-! ## Blocks in flight -/

/-- The body word under execution, with its context and block. -/
structure Here where
  c : Nat
  x : Nat
  k : Nat
  ctx : Ctx
  blk : Block

def State.here? (s : State) : Option Here :=
  match s.ctx? s.focus.core s.focus.ctx with
  | some k =>
    match k.block with
    | some b => if s.focus.idx < b.words.length
        then some { c := s.focus.core, x := s.focus.ctx, k := s.focus.idx, ctx := k, blk := b } else none
    | none => none
  | none => none

def Here.a (h : Here) : Option Word := h.blk.slotA.look h.k
def Here.b (h : Here) : Option Word := h.blk.slotB.look h.k

/-- The operands A and B, when both have arrived. -/
def Here.ab (h : Here) : Option (Word × Word) :=
  match h.a, h.b with
  | some a, some b => some (a, b)
  | _, _ => none

/-- A predicate lets its instruction fire (R176, R181). -/
def predMet (p : Pred) (b : Block) (k : Nat) : Bool :=
  match p with
  | .always => true
  | .onTrue => !b.swung.contains k && match b.slotP.look k with | some v => v.getLsbD 0 | none => false
  | .onFalse => !b.swung.contains k && match b.slotP.look k with | some v => !v.getLsbD 0 | none => false

/-- An instruction whose predicate has arrived with the other value, be it once among several arrivals, is declined
(R181). -/
def declinedAt (p : Pred) (b : Block) (k : Nat) : Bool := (b.slotP.look k).isSome && p != .always && !predMet p b k

/-- May the word at k still fire: not yet fired, its predicate met, and the block not faulted (R181, R393)? -/
def mayFire (p : Pred) (b : Block) (k : Nat) : Bool :=
  !b.fired.contains k && b.faults.isEmpty && predMet p b k

def targetSlot (t : Target) : Nat := bitsOf t.toNat 7 2
def targetIdx (t : Target) : Nat := bitsOf t.toNat 0 5

/-- A result sent to the slot a target names (R177, R181). Of two values sent to one slot A or B, or to the
slot of SEL's selector, the later one stays (DESIGN CHOICE, log 114). -/
def Block.send (b : Block) (t : Target) (v : Word) : Block :=
  if targetSlot t = 1 then { b with slotA := b.slotA.put (targetIdx t) v }
  else if targetSlot t = 2 then { b with slotB := b.slotB.put (targetIdx t) v }
  else if targetSlot t = 3 then
    { b with
      slotP := b.slotP.put (targetIdx t) v
      swung := if (b.slotP.look (targetIdx t)).any fun u => u.getLsbD 0 != v.getLsbD 0 then targetIdx t :: b.swung
        else b.swung }
  else b

def Block.fire (b : Block) (k : Nat) : Block := { b with fired := k :: b.fired }

/-- A memory or engine instruction has fired and is to be issued or accepted. -/
def Block.fireAs (b : Block) (k : Nat) (i : Instr) : Block := { b with fired := k :: b.fired, ops := b.ops.put k i }

/-- Firing the word under execution: it fires at most once, under its predicate, when `go` finds its operands
(R181); otherwise it stays as it is. -/
def fireWith (p : Pred) (s : State) (go : Here → Option State) : Host.Outcome State Fault Refusal :=
  match s.here? with
  | none => .fault .noBlockInFlight
  | some h =>
    if mayFire p h.blk h.k then
      match go h with
      | some t => .next t.acted
      | none => .next s
    else .next s

/-- An instruction that only computes: it sends one value to its targets (R204). -/
def fireResult (p : Pred) (t0 t1 : Target) (s : State) (f : Here → Option Word) :
    Host.Outcome State Fault Refusal :=
  fireWith p s fun h => (f h).map fun v =>
    s.setCtx h.c h.x { h.ctx with block := some (((h.blk.fire h.k).send t0 v).send t1 v) }

/-! ## Traps -/

/-- TVAL of causes 0x01 to 0x1E: body index and word; 0x1F and H0 for the header, the fetch and a stall (R394). -/
def tvalOf (idx : Nat) (w : W32) : Word := BitVec.ofNat 64 (idx * 2 ^ 32 + w.toNat)

/-- A fault attributable to the block in flight is noted; BLOCK_ABANDON acts on it (R393). -/
def Block.note (b : Block) (idx cause : Nat) (tval : Word) : Block :=
  { b with faults := { idx := idx, cause := BitVec.ofNat 8 cause, tval := tval } :: b.faults }

/-- The fault that is reported: the one of lowest body index (R393). -/
def worstFault : List BlockFault → Option BlockFault
  | [] => none
  | f :: fs =>
    match worstFault fs with
    | none => some f
    | some g => some (if f.idx ≤ g.idx then f else g)

/-- Entry through TVEC: the one operation that takes an exception (R231, R394). The cause, the block address and
the value are saved, STATUS.INH is set, and the context continues at TVEC. -/
def Ctx.enterTrap (k : Ctx) (cause : BitVec 8) (epc tval : Word) : Ctx :=
  { k with cause := cause, epc := epc, tval := tval, inh := true, next := k.tvec, block := none, quiet := none }

/-- ERET: STATUS.INH is cleared and EPC names the next block (R232). -/
def Ctx.leaveTrap (k : Ctx) : Ctx := { k with inh := false, next := k.epc, block := none }

/-- SEM.WAITs whose condition has not held were never accepted: they leave with their blocks (R184, R393; DEDUCED, log 34). -/
def State.dropWaits (s : State) (is : Access → Bool) : State :=
  { s with accesses := s.accesses.filter fun a => !(a.kind = .atomic .semWait && is a) }

def Access.ofCtx (c x : Nat) (a : Access) : Bool :=
  match a.client with
  | .body d y _ _ => d = c && y = x
  | _ => false

/-- Every context of an allocation issues no further block (R47, R411). -/
def State.stopMembers (s : State) (a : Nat) : State :=
  { s.dropWaits fun w => w.alloc = a with cores := s.cores.mapVal fun _ q =>
    { q with ctxs := q.ctxs.mapVal fun _ k =>
      if k.alloc = a then { k with run := if k.run = .halted then .halted else .stopped, block := none, quiet := none } else k
             regions := q.regions.mapVal fun _ r =>
      if r.alloc = a then { r with phase := .aborting } else r } }

/-- An allocation aborted as an ABORT packet aborts it: its contexts stop, its regions are to be aborted, and it
goes to ENDING (R47, R411). -/
def State.abortAlloc (s : State) (a : Nat) : State :=
  match s.alloc? a with
  | none => s
  | some k =>
    if k.st = .ended then s
    else (s.stopMembers a).setAlloc a { k with st := .ending, aborting := true }

/-- After abandonment: entry through TVEC, or, with INH set or no TVEC, a FATAL record and the abort of the
allocation (R394). -/
def State.trapOrAbort (s : State) (c x : Nat) (k : Ctx) (cause : BitVec 8) (epc tval : Word) : State :=
  if !k.inh && k.tvec != 0 then s.setCtx c x (k.enterTrap cause epc tval)
  else
    let r := s.recordFor c k.alloc k.gen cause.toNat 0
    let s := s.setCtx c x { k with run := .stopped, block := none, quiet := none }
    (s.report { r with unit := BitVec.ofNat 8 x, fatal := true, addr := tval, info := epc }).abortAlloc k.alloc

/-- Faults that outstanding accesses of an abandoned block meet later are not reported (R393). -/
def State.muteBlock (s : State) (c x num : Nat) : State :=
  { s with accesses := s.accesses.map fun a => match a.client with
      | .body d y n _ => if d = c && y = x && n = num then { a with quiet := true } else a
      | _ => a }

/-- A block abandoned for a fault: nothing of it takes effect, issued stores and commands remain (R393, R394). -/
def State.abandon (s : State) (c x : Nat) : Option State :=
  match s.ctx? c x with
  | none => none
  | some k =>
    match k.block with
    | none => none
    | some b =>
      (worstFault b.faults).map fun f =>
        ((s.dropWaits (Access.ofCtx c x)).muteBlock c x b.num).trapOrAbort c x k f.cause b.addr f.tval

/-- A fault met by the word under execution itself: noted, and the block abandoned on that cycle (R393). -/
def State.faultHere (s : State) (h : Here) (cause : Nat) : Option State :=
  let w := h.blk.words.getD h.k 0
  let b := (h.blk.fire h.k).note h.k cause (tvalOf h.k w)
  (s.setCtx h.c h.x { h.ctx with block := some b }).abandon h.c h.x

end Sys2Proof.Machine
end

