-- ==== Sys2Proof/Machine/Numeric.lean ====
section
/-! DEFINITION. Number formats, rounding and F32 arithmetic (R79 to R94, R234 to R237, R291, R292). A finite value
is held exactly as a sign, a natural number and a power of two; an irrational one as the same with a last bit that
says "a little more", so that every operation is rounded once. -/

namespace Sys2Proof.Machine

/-- A floating-point format (R80): exponent and mantissa bits, bias, the code of its largest finite magnitude, its
infinity and its canonical NaN (R93); FP4 converts a NaN to 0 (R90). -/
structure FloatFmt where
  ebits : Nat
  mbits : Nat
  bias : Nat
  maxCode : Nat
  infCode : Option Nat
  nanCode : Nat
deriving DecidableEq, Repr

def f32 : FloatFmt := ⟨8, 23, 127, 0x7F7FFFFF, some 0x7F800000, 0x7FC00000⟩
def bf16 : FloatFmt := ⟨8, 7, 127, 0x7F7F, some 0x7F80, 0x7FC0⟩
def fp16 : FloatFmt := ⟨5, 10, 15, 0x7BFF, some 0x7C00, 0x7E00⟩
def e5m2 : FloatFmt := ⟨5, 2, 15, 0x7B, some 0x7C, 0x7F⟩
def e4m3 : FloatFmt := ⟨4, 3, 7, 0x7E, none, 0x7F⟩
def fp4 : FloatFmt := ⟨2, 1, 1, 0x7, none, 0x0⟩

def FloatFmt.bits (f : FloatFmt) : Nat := 1 + f.ebits + f.mbits
def FloatFmt.signBit (f : FloatFmt) : Nat := 2 ^ (f.ebits + f.mbits)

/-- What a code stands for: NaN, an infinity, or (-1)^neg * mag * 2^exp. -/
inductive FVal where
  | nan
  | inf (neg : Bool)
  | fin (neg : Bool) (mag : Nat) (exp : Int)
deriving DecidableEq, Repr

/-- The value of a code (R80, R82). -/
def decodeFloat (f : FloatFmt) (code : Nat) : FVal :=
  let neg := bitsOf code (f.ebits + f.mbits) 1 = 1
  let mag := code % f.signBit
  let e := mag / 2 ^ f.mbits
  let m := mag % 2 ^ f.mbits
  if mag > f.maxCode then (if some mag = f.infCode then .inf neg else .nan)
  else if e = 0 then .fin neg m (1 - (f.bias : Int) - f.mbits)
  else .fin neg (2 ^ f.mbits + m) ((e : Int) - f.bias - f.mbits)

def FVal.isZero : FVal → Bool
  | .fin _ m _ => m = 0
  | _ => false

/-- Does the mode take the next value up in magnitude, for a remainder rem of 2^d (R91)? -/
def roundsUp (mode : Nat) (neg : Bool) (q rem d : Nat) : Bool :=
  let half := 2 ^ d
  match mode with
  | 0 => half < 2 * rem || (half = 2 * rem && q % 2 = 1)
  | 1 => false
  | 2 => neg && rem ≠ 0
  | 3 => !neg && rem ≠ 0
  | _ => half ≤ 2 * rem && rem ≠ 0

/-- mag * 2^exp brought to the grid of multiples of 2^grid, by a mode (R91). -/
def roundTo (mode : Nat) (neg : Bool) (mag : Nat) (exp grid : Int) : Nat :=
  if grid ≤ exp then mag * 2 ^ (exp - grid).toNat
  else
    let d := (grid - exp).toNat
    let q := mag / 2 ^ d
    if roundsUp mode neg q (mag % 2 ^ d) d then q + 1 else q

/-- The rule beyond the largest finite magnitude (R92). -/
def overflowCode (f : FloatFmt) (mode : Nat) (neg : Bool) : Nat :=
  match f.infCode with
  | none => f.maxCode
  | some i =>
    match mode with
    | 1 => f.maxCode
    | 2 => if neg then i else f.maxCode
    | 3 => if neg then f.maxCode else i
    | _ => i

/-- round(x, fmt, mode) of a finite value (R91, R92); a nonzero value that rounds to zero keeps its sign (R93). -/
def roundFin (f : FloatFmt) (mode : Nat) (neg : Bool) (mag : Nat) (exp : Int) : Nat :=
  let s := if neg then f.signBit else 0
  if mag = 0 then s
  else
    let low : Int := 1 - (f.bias : Int) - f.mbits
    let top : Int := (Nat.log2 mag : Int) + exp - f.mbits
    let grid := max low top
    let code := (grid - low).toNat * 2 ^ f.mbits + roundTo mode neg mag exp grid
    s + (if code ≤ f.maxCode then code else overflowCode f mode neg)

/-- The code of a value in a format (R90 to R93). -/
def encodeFloat (f : FloatFmt) (mode : Nat) : FVal → Nat
  | .nan => f.nanCode
  | .inf neg => (if neg then f.signBit else 0) + f.infCode.getD f.maxCode
  | .fin neg m e => roundFin f mode neg m e

/-- A subnormal code of a format. -/
def isSubnormal (f : FloatFmt) (code : Nat) : Bool :=
  code % f.signBit ≠ 0 && code % f.signBit < 2 ^ f.mbits

/-- A subnormal code becomes the zero of its sign (R94). -/
def flush (on : Bool) (f : FloatFmt) (code : Nat) : Nat :=
  if on && isSubnormal f code then code / f.signBit % 2 * f.signBit else code

/-- Rounding mode and the two flush controls of an operation (R94, R234). -/
structure FCtl where
  rnd : Nat
  daz : Bool
  ftz : Bool

def Ctx.fctl (k : Ctx) : FCtl := ⟨k.rnd.toNat, k.daz, k.ftz⟩

/-- A source under DAZ, and a result under FTZ. -/
def FCtl.src (c : FCtl) (f : FloatFmt) (code : Nat) : FVal := decodeFloat f (flush c.daz f code)
def FCtl.res (c : FCtl) (f : FloatFmt) (v : FVal) : Nat := flush c.ftz f (encodeFloat f c.rnd v)

/-! ## Exact operations -/

def FVal.neg : FVal → FVal
  | .nan => .nan
  | .inf n => .inf !n
  | .fin n m e => .fin (!n) m e

/-- The signed integer of a finite value on the grid 2^g, for g at or below its exponent. -/
def onGrid (neg : Bool) (m : Nat) (e g : Int) : Int :=
  let v : Int := ((m * 2 ^ (e - g).toNat : Nat) : Int)
  if neg then -v else v

/-- The exact sum; an exact zero is +0, or -0 under RDN, unless both terms are zeros of one sign (IEEE 754-2019). -/
def fvAdd (rnd : Nat) (x y : FVal) : FVal :=
  match x, y with
  | .nan, _ | _, .nan => .nan
  | .inf a, .inf b => if a = b then .inf a else .nan
  | .inf a, _ => .inf a
  | _, .inf b => .inf b
  | .fin a m e, .fin b n f =>
    let g := min e f
    let v := onGrid a m e g + onGrid b n f g
    if v = 0 then .fin (if m = 0 && n = 0 && a = b then a else rnd == 2) 0 0
    else .fin (v < 0) v.natAbs g

def fvMul (x y : FVal) : FVal :=
  match x, y with
  | .nan, _ | _, .nan => .nan
  | .inf a, .inf b => .inf (a != b)
  | .inf a, .fin b n _ => if n = 0 then .nan else .inf (a != b)
  | .fin a m _, .inf b => if m = 0 then .nan else .inf (a != b)
  | .fin a m e, .fin b n f => .fin (a != b) (m * n) (e + f)

/-- A quotient with a last bit that says whether more follows. -/
def stickyDiv (num den : Nat) : Nat := 2 * (num / den) + (if num % den = 0 then 0 else 1)

def fvDiv (x y : FVal) : FVal :=
  match x, y with
  | .nan, _ | _, .nan => .nan
  | .inf _, .inf _ => .nan
  | .inf a, .fin b _ _ => .inf (a != b)
  | .fin a _ _, .inf b => .fin (a != b) 0 0
  | .fin a m e, .fin b n f =>
    if n = 0 then (if m = 0 then .nan else .inf (a != b))
    else .fin (a != b) (stickyDiv (m * 2 ^ 80) n) (e - f - 81)

/-- The integer square root, one bit at a time from bit k - 1. -/
def isqrtFrom : Nat → Nat → Nat → Nat
  | 0, _, r => r
  | k + 1, n, r => isqrtFrom k n (if (r + 2 ^ k) * (r + 2 ^ k) ≤ n then r + 2 ^ k else r)

def isqrt (n : Nat) : Nat := isqrtFrom (Nat.log2 n / 2 + 1) n 0

/-- A square root with a last bit that says whether more follows. -/
def stickySqrt (n : Nat) : Nat := let r := isqrt n; 2 * r + (if r * r = n then 0 else 1)

def fvSqrt : FVal → FVal
  | .nan => .nan
  | .inf neg => if neg then .nan else .inf false
  | .fin neg m e =>
    if m = 0 then .fin neg 0 0
    else if neg then .nan
    else
      let m := if e % 2 = 0 then m else 2 * m
      let e := if e % 2 = 0 then e else e - 1
      .fin false (stickySqrt (m * 2 ^ 80)) ((e - 80) / 2 - 1)

/-- 1 / sqrt x (R291). -/
def fvRsqrt : FVal → FVal
  | .nan => .nan
  | .inf neg => if neg then .nan else .fin false 0 0
  | .fin neg m e =>
    if m = 0 then .inf neg
    else if neg then .nan
    else
      let m := if e % 2 = 0 then m else 2 * m
      let e := if e % 2 = 0 then e else e - 1
      let n := 2 ^ 140
      let r := isqrt (n / m)
      .fin false (2 * r + (if r * r * m = n then 0 else 1)) (-(e / 2) - 71)

/-! ### Powers and logarithms of two (R291): 300 bits of the exact value, and "a little more" -/

/-- Bits of the fixed-point numbers below. -/
def fixBits : Nat := 300

/-- sum over k < n of z^(2k+1) / (2k+1), from a term z^(2i+1) and z^2, in fixed point. -/
def atanhSum : Nat → Nat → Nat → Nat → Nat
  | 0, _, _, _ => 0
  | n + 1, i, t, z2 => t / (2 * i + 1) + atanhSum n (i + 1) (t * z2 / 2 ^ fixBits) z2

/-- The natural logarithm of num / den, at least 1 and at most 2, in fixed point: 2 atanh((x - 1) / (x + 1)). -/
def lnFix (num den : Nat) : Nat :=
  let z := (num - den) * 2 ^ fixBits / (num + den)
  2 * atanhSum 100 0 z (z * z / 2 ^ fixBits)

def ln2Fix : Nat := lnFix 2 1

/-- sum over k of y^k / k!, n terms, in fixed point. -/
def expSum : Nat → Nat → Nat → Nat → Nat
  | 0, _, _, _ => 0
  | n + 1, k, t, y => t + expSum n (k + 1) (t * y / 2 ^ fixBits / (k + 1)) y

/-- 2^a. -/
def fvExp2 : FVal → FVal
  | .nan => .nan
  | .inf neg => if neg then .fin false 0 0 else .inf false
  | .fin neg m e =>
    let big : Nat := if 0 ≤ e then m * 2 ^ e.toNat else m / 2 ^ (-e).toNat
    if big > 300 then .fin false 1 (if neg then -1000 else 1000)
    else
      let den : Nat := if 0 ≤ e then 1 else 2 ^ (-e).toNat
      let num : Int := let v : Int := ((if 0 ≤ e then m * 2 ^ e.toNat else m : Nat) : Int); if neg then -v else v
      let n := num / (den : Int)
      let frac := (num % (den : Int)).toNat
      if frac = 0 then .fin false 1 n
      else
        let y := frac * ln2Fix / den
        .fin false (2 * expSum 80 0 (2 ^ fixBits) y + 1) (n - fixBits - 1)

/-- log2 a. -/
def fvLog2 : FVal → FVal
  | .nan => .nan
  | .inf neg => if neg then .nan else .inf false
  | .fin neg m e =>
    if m = 0 then .inf true
    else if neg then .nan
    else
      let k := Nat.log2 m
      let ex : Int := (k : Int) + e
      if m = 2 ^ k then .fin (ex < 0) ex.natAbs 0
      else
        let l := lnFix m (2 ^ k) * 2 ^ fixBits / ln2Fix
        let v : Int := 2 * (ex * (2 ^ fixBits : Nat) + (l : Int)) + 1
        .fin (v < 0) v.natAbs (-(fixBits : Int) - 1)

/-! ## F32 operations on codes -/

def opF (c : FCtl) (f : FVal → FVal → FVal) (a b : Nat) : Nat := c.res f32 (f (c.src f32 a) (c.src f32 b))
def opF1 (c : FCtl) (f : FVal → FVal) (a : Nat) : Nat := c.res f32 (f (c.src f32 a))

def fAdd (c : FCtl) (a b : Nat) : Nat := opF c (fvAdd c.rnd) a b
def fSub (c : FCtl) (a b : Nat) : Nat := opF c (fun x y => fvAdd c.rnd x y.neg) a b
def fMul (c : FCtl) (a b : Nat) : Nat := opF c fvMul a b
def fDiv (c : FCtl) (a b : Nat) : Nat := opF c fvDiv a b
def fSqrt (c : FCtl) (a : Nat) : Nat := opF1 c fvSqrt a

/-- The order of two values that are no NaN, with -0 below +0 when `zeros` is set (R235, R236). -/
def fvLess (zeros : Bool) (x y : FVal) : Bool :=
  match x, y with
  | .nan, _ | _, .nan => false
  | .inf a, .inf b => a && !b
  | .inf a, _ => a
  | _, .inf b => !b
  | .fin a m e, .fin b n f =>
    let g := min e f
    let u := onGrid a m e g
    let v := onGrid b n f g
    u < v || (zeros && m = 0 && n = 0 && a && !b)

def fvEq (x y : FVal) : Bool :=
  match x, y with
  | .nan, _ | _, .nan => false
  | _, _ => !fvLess false x y && !fvLess false y x

/-- FMIN and FMAX (R235): the other operand when exactly one is NaN. -/
def fMin (c : FCtl) (a b : Nat) : Nat :=
  let x := c.src f32 a
  let y := c.src f32 b
  c.res f32 (match x, y with
    | .nan, y => y
    | x, .nan => x
    | x, y => if fvLess true y x then y else x)
def fMax (c : FCtl) (a b : Nat) : Nat :=
  let x := c.src f32 a
  let y := c.src f32 b
  c.res f32 (match x, y with
    | .nan, y => y
    | x, .nan => x
    | x, y => if fvLess true x y then y else x)

inductive FCond where
  | eq
  | lt
  | le
  | un
deriving DecidableEq, Repr

/-- FCMP (R236). -/
def fCmp (c : FCtl) (k : FCond) (a b : Nat) : Nat :=
  let x := c.src f32 a
  let y := c.src f32 b
  let un := x = .nan || y = .nan
  let r := match k with
    | .eq => fvEq x y
    | .lt => fvLess false x y
    | .le => fvLess false x y || fvEq x y
    | .un => un
  if r then 1 else 0

/-- x * 2^-scale rounded to an integer by a mode (R91). -/
def roundInt (mode : Nat) (x : Int) (scale : Nat) : Int :=
  let q := roundTo mode (x < 0) x.natAbs 0 scale
  if x < 0 then -(q : Int) else (q : Int)

/-- A floating value to an integer: rounded, then saturated; NaN gives 0 (R237). -/
def toInt (mode : Nat) (v : FVal) (lo hi : Int) : Int :=
  match v with
  | .nan => 0
  | .inf neg => if neg then lo else hi
  | .fin neg m e =>
    let q : Nat := if e > 100 then 2 ^ 100 * m else roundTo mode neg m e 0
    clampInt (if neg then -(q : Int) else (q : Int)) lo hi

/-- An integer as an exact value. -/
def fvOfInt (x : Int) : FVal := .fin (x < 0) x.natAbs 0

def fFromInt (c : FCtl) (x : Int) : Nat := c.res f32 (fvOfInt x)

/-- F32 to a narrower format, and back (R237, R292). -/
def fNarrow (c : FCtl) (f : FloatFmt) (a : Nat) : Nat := c.res f (c.src f32 a)
def fWiden (c : FCtl) (f : FloatFmt) (a : Nat) : Nat := c.res f32 (c.src f a)

end Sys2Proof.Machine
end

