-- ==== Sys2Proof/Machine/Accum.lean ====
section
/-! DEFINITION. The exact accumulator: block addition, drain, spill record, fill and merge (R95 to R107, R270,
R402, R433). -/

namespace Sys2Proof.Machine

/-- Empty: every field that R95 names for it is 0. -/
def Xa.empty (a : Xa) : Xa :=
  { a with v := 0, nan := false, pinf := false, ninf := false, guarded := false, count := 0, poison := false }

def Xa.isEmpty (a : Xa) : Bool :=
  a.v == 0 && !a.nan && !a.pinf && !a.ninf && !a.guarded && a.count == 0 && !a.poison

/-- Bits V[639:631] all equal (R96). -/
def guardOk (v : BitVec 640) : Bool := let t := v.toNat / 2 ^ 631; t = 0 || t = 2 ^ 9 - 1

/-- An accumulator under another generation is made empty and takes g before it is added to (R97). -/
def Xa.claim (a : Xa) (g : BitVec 12) : Xa := if a.gen = g then a else { a.empty with gen := g }

/-- The fields latched from F26 and F27 (R98, R101). -/
def Xa.latch (a : Xa) (f26 f27 : BitVec 16) : Xa :=
  { a with dfmt := f26.extractLsb' 12 4, drnd := f26.extractLsb' 9 3, dftz := f26.getLsbD 8, klen := f27 }

/-- V plus an integer, mod 2^640. -/
def addV (v : BitVec 640) (x : Int) : BitVec 640 := v + BitVec.ofInt 640 x

/-- One product a * b * 2^k into the accumulator (R98). -/
def Xa.addProduct (x : Xa) (k : Int) (a b : FVal) : Xa :=
  match fvMul a b with
  | .nan => { x with nan := true }
  | .inf neg => if neg then { x with ninf := true } else { x with pinf := true }
  | .fin neg m e =>
    let t : Int := ((m * 2 ^ (e + k + 300).toNat : Nat) : Int)
    { x with v := addV x.v (if neg then -t else t) }

/-- COUNT plus one, saturating (R98). -/
def satCount (n : BitVec 32) (m : Nat) : BitVec 32 := BitVec.ofNat 32 (min (n.toNat + m) 0xFFFFFFFF)

/-- block_add of R98. -/
def blockAdd (x : Xa) (pairs : List (FVal × FVal)) (mx : Option (Nat × Nat)) (g : BitVec 12)
    (f26 f27 : BitVec 16) : Xa :=
  let x := x.claim g
  let badScale := match mx with | some (sa, sb) => sa = 0xFF || sb = 0xFF | none => false
  let k : Int := match mx with | some (sa, sb) => (sa : Int) - 127 + ((sb : Int) - 127) | none => 0
  let x := if badScale then { x with nan := true } else pairs.foldl (fun x p => x.addProduct k p.1 p.2) x
  let x := if guardOk x.v then x else { x with guarded := true }
  ({ x with count := satCount x.count 1 }).latch f26 f27

/-- A firing that takes an ERROR: nothing is added, the poison bit is set (R401). -/
def Xa.addPoison (x : Xa) (g : BitVec 12) : Xa := { x.claim g with poison := true }

/-! ## Drain (R102) -/

/-- The drain formats of F26 (R71). -/
inductive DrainFmt where
  | float (f : FloatFmt)
  | int (bits : Nat)
deriving DecidableEq, Repr

def drainFmt (n : Nat) : DrainFmt :=
  match n with
  | 0 => .float f32
  | 1 => .float bf16
  | 2 => .float fp16
  | 3 => .float e4m3
  | 4 => .float e5m2
  | 5 => .int 32
  | _ => .int 16

/-- The rounded value as its payload: a float's code, an integer sign-extended to 32 bits (R102). -/
def drainValue (x : Xa) : W32 :=
  let lo (b : Nat) : Int := -((2 ^ (b - 1) : Nat) : Int)
  let hi (b : Nat) : Int := ((2 ^ (b - 1) : Nat) : Int) - 1
  let int (v : Int) : W32 := BitVec.ofInt 32 v
  let v := x.v.toInt
  match drainFmt x.dfmt.toNat with
  | .float f =>
    BitVec.ofNat 32 (
      if x.guarded || x.nan || (x.pinf && x.ninf) then f.nanCode
      else if x.pinf then encodeFloat f x.drnd.toNat (.inf false)
      else if x.ninf then encodeFloat f x.drnd.toNat (.inf true)
      else if v = 0 then 0
      else flush x.dftz f (roundFin f x.drnd.toNat (v < 0) v.natAbs (-300)))
  | .int b =>
    if x.guarded then int (if v < 0 then lo b else hi b)
    else if x.nan || (x.pinf && x.ninf) then 0
    else if x.pinf then int (hi b)
    else if x.ninf then int (lo b)
    else int (clampInt (roundInt x.drnd.toNat v 300) (lo b) (hi b))

/-! ## The spill record (R104) -/

def xorDwords : List Nat → Nat
  | [] => 0
  | d :: ds => d ^^^ xorDwords ds

def boolBit (b : Bool) (i : Nat) : Nat := if b then 2 ^ i else 0

/-- Dword 10 of the record, and of XA.STAT without its EMPTY and GEN fields (R104, R270). -/
def Xa.flagsWord (a : Xa) : Nat :=
  a.count.toNat * 2 ^ 32 + boolBit a.dftz 11 + a.drnd.toNat * 2 ^ 8 + a.dfmt.toNat * 2 ^ 4 + boolBit a.guarded 3
    + boolBit a.ninf 2 + boolBit a.pinf 1 + boolBit a.nan 0

def Xa.dwords (a : Xa) : List Nat :=
  (List.range 10).map (fun i => a.v.toNat / 2 ^ (64 * i) % 2 ^ 64) ++ [a.flagsWord + a.gen.toNat * 2 ^ 16]

/-- The 96 bytes of a spill. -/
def Xa.record (a : Xa) : List Byte :=
  let d := a.dwords
  (d ++ [xorDwords d]).flatMap fun x => leBytes x 8

/-- The dwords of 96 bytes. -/
def recordDwords (bs : List Byte) : List Nat := (List.range 12).map fun i => leNat ((bs.drop (8 * i)).take 8)

/-- The check of R433: CHECK agrees, reserved bits of dword 10 are 0, DFMT and DRND hold defined codes. -/
def recordOk (bs : List Byte) : Bool :=
  let d := recordDwords bs
  let w := d.getD 10 0
  xorDwords (d.take 11) = d.getD 11 0 && bitsOf w 28 4 = 0 && bitsOf w 12 4 = 0 && bitsOf w 4 4 ≤ 6
    && bitsOf w 8 3 ≤ 4

/-- The accumulator that a record describes, with the record's own GEN. A record holds neither KLEN nor the poison bit: a
service write in this form (R135) leaves both 0, where the spec states nothing (DESIGN CHOICE, log 85). -/
def recordXa (bs : List Byte) : Xa :=
  let d := recordDwords bs
  let w := d.getD 10 0
  { v := BitVec.ofNat 640 (leNat (bs.take 80)), nan := w.testBit 0, pinf := w.testBit 1, ninf := w.testBit 2,
    guarded := w.testBit 3, count := BitVec.ofNat 32 (w / 2 ^ 32), dfmt := BitVec.ofNat 4 (bitsOf w 4 4),
    drnd := BitVec.ofNat 3 (bitsOf w 8 3), dftz := w.testBit 11, gen := BitVec.ofNat 12 (bitsOf w 16 12) }

/-- XA.FILL (R105, R402, R433). -/
def Xa.fill (a : Xa) (bs : List Byte) (poisoned : Bool) (g : BitVec 12) (f27 : BitVec 16) : Xa :=
  if recordOk bs then
    let r := recordXa bs
    { r with gen := g, klen := f27, guarded := r.guarded || !guardOk r.v, poison := poisoned }
  else { a.empty with gen := g, poison := true }

/-- XA.MERGE (R97, R106, R402, R433). -/
def Xa.merge (a : Xa) (bs : List Byte) (poisoned : Bool) (g : BitVec 12) : Xa :=
  let a := a.claim g
  if recordOk bs then
    let r := recordXa bs
    let v := a.v + r.v
    { a with v, nan := a.nan || r.nan, pinf := a.pinf || r.pinf, ninf := a.ninf || r.ninf,
             guarded := a.guarded || r.guarded || !guardOk v, count := satCount a.count r.count.toNat,
             poison := a.poison || poisoned }
  else { a with poison := true }

/-- XA.CLR (R269). -/
def Xa.clear (a : Xa) (g : BitVec 12) (f26 f27 : BitVec 16) : Xa := ({ a.empty with gen := g }).latch f26 f27

/-- A drain leaves the accumulator empty; GEN and the latched fields stay (R102). -/
def Xa.drained (a : Xa) : Xa := a.empty

/-- A reader under g sees an accumulator of another generation as empty (R97). -/
def Xa.seenBy (a : Xa) (g : BitVec 12) : Xa := if a.gen = g then a else a.empty

/-- XA.STAT (R270). -/
def Xa.stat (a : Xa) : Word := BitVec.ofNat 64 (a.flagsWord + boolBit a.isEmpty 12)

/-! ## What a matrix firing adds (R98, R303, R306) -/

def fpAt (f : FloatFmt) (p : W32) (i : Nat) : FVal := decodeFloat f (bitsOf p.toNat (f.bits * i) f.bits)
def i8At (p : W32) (i : Nat) : FVal := fvOfInt (signedOf (bitsOf p.toNat (8 * i) 8) 8)

/-- The pairs of an MMA firing by pair type (R303). -/
def mmaPairs (t : Nat) (a b : W32) : List (FVal × FVal) :=
  let two (f g : FloatFmt) := (List.range 2).map fun i => (fpAt f a i, fpAt g b i)
  match t with
  | 0 => (List.range 4).map fun i => (fpAt fp4 a i, fpAt fp4 b i)
  | 1 => two e4m3 e4m3
  | 2 => two e5m2 e5m2
  | 3 => two e4m3 e5m2
  | 4 => two e5m2 e4m3
  | 5 => (List.range 2).map fun i => (i8At a i, i8At b i)
  | 6 => [(fpAt bf16 a 0, fpAt bf16 b 0)]
  | _ => [(fpAt fp16 a 0, fpAt fp16 b 0)]

/-- The value of an XACC firing (R306), paired with one. -/
def xaccPairs (t : Nat) (a : W32) : List (FVal × FVal) :=
  let v := match t with
    | 0 => decodeFloat f32 a.toNat
    | 1 => fpAt bf16 a 0
    | 2 => fpAt fp16 a 0
    | _ => fvOfInt a.toInt
  [(v, fvOfInt 1)]

end Sys2Proof.Machine
end

