-- ==== Sys2Proof/Machine/Operands.lean ====
section
/-! DEFINITION. Operand forms: immediates, addresses and the memory they reach (R110, R116, R218), the slots an
instruction takes (R179, R239), handles, selectors and pattern records. -/

namespace Sys2Proof.Machine

/-! ## Immediates -/

/-- sext9(IMM9) mod 2^64 (R205). -/
def imm64 (i : BitVec 9) : Word := i.signExtend 64

/-- sext14(IMM14) mod 2^64 (R209). -/
def imm14 (i : BitVec 14) : Word := i.signExtend 64

/-- 4 * signed(OFFS20, 20) mod 2^64 (R229). -/
def exitOffset (o : BitVec 20) : Word := o.signExtend 64 * 4

/-! ## Addresses (R110) -/

inductive AddrForm where
  | virt (va : Nat)
  | part (off : Nat)
  | buf (b off : Nat)
  | reserved
deriving DecidableEq, Repr

def addrForm (a : Word) : AddrForm :=
  let hi := bitsOf a.toNat 48 16
  let lo := bitsOf a.toNat 0 48
  if hi = 0 then .virt lo
  else if hi = 0xFFFD then .part lo
  else if hi = 0xFFFE then (if bitsOf lo 24 24 = 0 then .buf (bitsOf lo 20 4) (bitsOf lo 0 20) else .reserved)
  else .reserved

/-- The control-processor address of a partition offset, and the buffer address of an offset. -/
def partAddr (off : Nat) : Word := BitVec.ofNat 64 (0xFFFD_0000_0000_0000 + off)
def bufAddr (b off : Nat) : Word := BitVec.ofNat 64 (0xFFFE_0000_0000_0000 + b * 0x10_0000 + off)

/-- Where offset `off` of a context's partition stands in the model's memory (R116). -/
def Ctx.partPlace (k : Ctx) (c off : Nat) : Nat := cpAddr c (k.pbase + off)

/-- Where offset `off` of a buffer allocation stands. -/
def Buf.place (b : Buf) (c off : Nat) : Nat := sbufAddr c (b.base + off)

def Buf.fill (b : Buf) : Nat := (b.wptr + 2 * b.size - b.rptr) % (2 * b.size)
def Buf.space (b : Buf) : Nat := b.size - b.fill

/-- A user of addresses takes virtual ones, control-processor ones, buffer ones. -/
structure Forms where
  virt : Bool := true
  part : Bool := true
  buf : Bool := false

/-- The checks of an address before translation (R416): form 0x21, alignment 0x20, bound 0x22. `n` bytes are
accessed and the address is a multiple of `al`. -/
def Ctx.checkAddr (k : Ctx) (f : Forms) (a : Word) (al n : Nat) : Option Nat :=
  match addrForm a with
  | .reserved => some 0x21
  | .virt _ => if !f.virt then some 0x21 else if a.toNat % al ≠ 0 then some 0x20 else none
  | .part off =>
    if !f.part then some 0x21 else if a.toNat % al ≠ 0 then some 0x20
    else if off + n ≤ k.psize then none else some 0x22
  | .buf b off =>
    if !f.buf then some 0x21 else if a.toNat % al ≠ 0 then some 0x20
    else match k.bufs.look b with
      | none => some 0x22
      | some q => if off + n ≤ q.size then none else some 0x22

/-! ## Translation (R120 to R123, R435) -/

/-- The end of a walk: a place with its page's attribute and permissions, or a cause. -/
inductive WalkEnd where
  | page (pa : Nat) (big : Bool) (attr : Attr) (rd wr : Bool)
  | fail (cause : Nat)
deriving DecidableEq, Repr

def attrOf (n : Nat) : Attr :=
  if n = 0 then .normal else if n = 1 then .ordered else if n = 2 then .once else .device

/-- One table entry read by a walk: the read must lie in DRAM or port memory and be unpoisoned (R435, check 1). -/
def State.entryAt (s : State) (a : Nat) (r : FaultRec) : State × Option Nat :=
  match homeOf a with
  | some (.dram _) | some .portMem =>
    let o := s.readAs 0 false a 8 r
    (o.st, if o.poisoned then none else some (leNat o.bytes))
  | _ => (s, none)

/-- Reserved bits of an entry are 0 (R121). -/
def entryClean (e : Nat) : Bool := bitsOf e 48 16 = 0 && bitsOf e 8 8 = 0 && bitsOf e 2 2 = 0

/-- The checks at a leaf (R122, R435): the physical address that the virtual one comes to lies in R111, and the page's
attribute may map that range. -/
def leafEnd (e : Nat) (big : Bool) (va : Nat) : WalkEnd :=
  let pa := if big then bitsOf e 29 19 * 2 ^ 29 else bitsOf e 16 32 * 2 ^ 16
  let attr := attrOf (bitsOf e 6 2)
  match homeOf (pa + if big then bitsOf va 0 29 else bitsOf va 0 16) with
  | none | some (.sbuf _) | some (.cpMem _) => .fail 0x2A
  | some h =>
    let ok := match h, attr with
      | .dram _, .normal | .dram _, .ordered => true
      | .staging _, .normal | .staging _, .ordered | .staging _, .once => !big
      | .portMem, .device | .regs, .device => !big
      | _, _ => false
    if ok then .page pa big attr (bitsOf e 4 1 = 1) (bitsOf e 5 1 = 1) else .fail 0x29

/-- The table entry that a walk reads at a level, in the table at `base` (R121). -/
def tableEntry (level base va : Nat) : Nat :=
  base + 8 * (if level = 0 then bitsOf va 42 6 else if level = 1 then bitsOf va 29 13 else bitsOf va 16 13)

/-- Where a walk goes from the entry that it has read at a level: to the next level's table, or to its end (R121, R435). -/
inductive WalkNext where
  | table (base : Nat)
  | ends (e : WalkEnd)
deriving DecidableEq, Repr

def walkNext (level e va : Nat) : WalkNext :=
  let leaf := bitsOf e 1 1 = 0
  let below := WalkNext.table (bitsOf e 16 32 * 2 ^ 16)
  if bitsOf e 0 1 = 0 then .ends (.fail 0x27)
  else if !entryClean e then .ends (.fail 0x29)
  else if level = 0 then (if leaf then .ends (.fail 0x29) else below)
  else if level = 1 then
    (if leaf then .ends (if bitsOf e 16 13 = 0 then leafEnd e true va else .fail 0x29) else below)
  else .ends (if leaf then leafEnd e false va else .fail 0x29)

/-- The rest of a walk made at once, from a level and its table. -/
def State.walkFrom (s : State) (va : Nat) (r : FaultRec) : Nat → Nat → Nat → State × WalkEnd
  | 0, _, _ => (s, .fail 0x29)
  | n + 1, level, base =>
    let p := s.entryAt (tableEntry level base va) r
    match p.2 with
    | none => (p.1, .fail 0x2B)
    | some e =>
      match walkNext level e va with
      | .ends w => (p.1, w)
      | .table b => p.1.walkFrom va r n (level + 1) b

/-- A walk made at once (R121, R435). -/
def State.walk (s : State) (root va : Nat) (r : FaultRec) : State × WalkEnd := s.walkFrom va r 3 0 root

/-- Does a TLB entry hold the page of a virtual address for an allocation (R123)? -/
def TlbEntry.hits (t : TlbEntry) (a va : Nat) : Bool :=
  t.alloc == a && (if t.big then t.page == va / 2 ^ 29 else t.page == va / 2 ^ 16)

def TlbEntry.place (t : TlbEntry) (va : Nat) : Nat :=
  if t.big then t.pa + bitsOf va 0 29 else t.pa + bitsOf va 0 16

/-- A TLB of 256 entries with one more, which takes the place of the least recently used (R123). -/
def tlbInsert (l : List TlbEntry) (e : TlbEntry) : List TlbEntry :=
  let l := if l.length < 256 then l else l.drop 1
  l ++ [e]

/-- A lookup that hits makes its entry the most recently used. -/
def tlbTouch (l : List TlbEntry) (a va : Nat) : List TlbEntry :=
  match l.find? (·.hits a va) with
  | some e => (l.filter fun t => !t.hits a va) ++ [e]
  | none => l

/-- A leaf enters a core's TLB; a staging page is known by it as ONCE or not (R317; DEDUCED, log 35). -/
def State.fillTlb (s : State) (c : Nat) (e : TlbEntry) : State :=
  let s := s.updCore c fun q => { q with tlb := tlbInsert q.tlb e }
  let page := e.pa / 65536
  { s with oncePages := if e.attr = .once then page :: s.oncePages.filter (· ≠ page) else s.oncePages.filter (· ≠ page) }

def permits (write rd wr both : Bool) : Bool := if both then rd && wr else if write then wr else rd

/-! ## The slots an instruction takes (R179, R239) -/

def xopOf (f : Fields) : Nat := f.a.toNat

/-- Does the word take operand A? -/
def takesA (f : Fields) : Bool :=
  let op := f.op.toNat
  let x := xopOf f
  (op = 0x02) || (0x04 ≤ op && op ≤ 0x06) || (0x10 ≤ op && op ≤ 0x12) || op = 0x20 || op = 0x30 || op = 0x31
    || (0x40 ≤ op && op ≤ 0x4D) || op = 0x52 || op = 0x53 || op = 0x59 || (op = 0x60 && x ≤ 1)
    || (op = 0x61 && (x ≤ 4 || (x = 5 && f.b.getLsbD 2))) || (op = 0x62 && (x ≤ 2 || x = 6)) || op = 0x63
    || (op = 0x64 && x ≠ 2) || (0x70 ≤ op && op ≤ 0x72)

/-- Does the word take operand B? -/
def takesB (f : Fields) : Bool :=
  let op := f.op.toNat
  let x := xopOf f
  op = 0x06 || op = 0x10 || op = 0x11 || op = 0x30 || (0x48 ≤ op && op ≤ 0x4D)
    || (op = 0x61 && ((x ≤ 1 && f.b.getLsbD 0) || (x = 4 && f.b.getLsbD 2)))
    || (op = 0x63 && ((x = 1 && f.b.getLsbD 3) || (2 ≤ x && x ≤ 4))) || (op = 0x64 && (x = 4 || x = 5))
    || (op = 0x70 && x ≠ 4 && x ≠ 7 && x ≠ 8) || op = 0x71

/-- Does the word take its predicate slot (R413, check 8)? -/
def takesP (f : Fields) : Bool := f.op = 0x06 || f.p = 1 || f.p = 2

def isExit (f : Fields) : Bool := 0x50 ≤ f.op.toNat && f.op.toNat ≤ 0x57

/-- A memory instruction: a load, store, LDA, STL, atomic or FENCE; a masked one is any but a plain load (R183). -/
def isMem (f : Fields) : Bool := 0x40 ≤ f.op.toNat && f.op.toNat ≤ 0x4E
def isMasked (f : Fields) : Bool := 0x47 ≤ f.op.toNat && f.op.toNat ≤ 0x4E

/-- An engine command or synchronisation instruction (R239), and one that waits (R32, R241). -/
def isEngine (f : Fields) : Bool := 0x60 ≤ f.op.toNat && f.op.toNat ≤ 0x64
def isWaiting (f : Fields) : Bool :=
  let op := f.op.toNat
  let x := xopOf f
  (op = 0x60 && (x = 2 || x = 3)) || (op = 0x61 && (x = 3 || ((x = 4 || x = 5) && !f.b.getLsbD 2)))
    || (op = 0x62 && x = 4) || (op = 0x64 && (x = 0 || x = 2 || x = 4))

def lsidOf (f : Fields) : Nat := f.a.toNat

def Block.fields (b : Block) (k : Nat) : Option Fields := (b.words[k]?).map unpack

/-- The predicate of a body word of a block. -/
def predOf (f : Fields) : Pred := if f.op = 0x06 then .always else (Pred.ofBits f.p).getD .always

/-- A word that has not fired and whose slots have all received values may fire now (R181). -/
def Block.ready (b : Block) (k : Nat) : Bool :=
  match b.fields k with
  | none => false
  | some f =>
    mayFire (predOf f) b k && (!takesA f || (b.slotA.look k).isSome) && (!takesB f || (b.slotB.look k).isSome)
      && (f.op != 0x06 || (b.slotP.look k).isSome)

/-- Is the word at k declined: it has not fired, and its predicate has arrived with the other value (R181)? What has fired
stays fired, whatever comes later. -/
def Block.declined (b : Block) (k : Nat) : Bool :=
  match b.fields k with
  | none => false
  | some f => !b.fired.contains k && declinedAt (predOf f) b k

/-! ## Pattern records (R244, R245) -/

/-- A little-endian field of some bytes. -/
def fieldAt (f : List Byte) (o n : Nat) : Nat := leNat ((f.drop o).take n)

def w32At (bs : List Byte) (o : Nat) : W32 := BitVec.ofNat 32 (leNat ((bs.drop o).take 4))

def patternOf (bs : List Byte) : Pattern :=
  { base := BitVec.ofNat 64 (leNat (bs.take 8)), cnt0 := w32At bs 8, str0 := w32At bs 12, cnt1 := w32At bs 16,
    str1 := w32At bs 20, cnt2 := w32At bs 24, str2 := w32At bs 28, cnt3 := w32At bs 32, str3 := w32At bs 36,
    lo := w32At bs 40, hi := w32At bs 44, mxbase := BitVec.ofNat 64 (leNat ((bs.drop 48).take 8)),
    ctrl := w32At bs 56, stat := w32At bs 60 }

def patternBytes (p : Pattern) : List Byte :=
  leBytes p.base.toNat 8 ++ leBytes p.cnt0.toNat 4 ++ leBytes p.str0.toNat 4 ++ leBytes p.cnt1.toNat 4
    ++ leBytes p.str1.toNat 4 ++ leBytes p.cnt2.toNat 4 ++ leBytes p.str2.toNat 4 ++ leBytes p.cnt3.toNat 4
    ++ leBytes p.str3.toNat 4 ++ leBytes p.lo.toNat 4 ++ leBytes p.hi.toNat 4 ++ leBytes p.mxbase.toNat 8
    ++ leBytes p.ctrl.toNat 4 ++ leBytes p.stat.toNat 4

def Pattern.bcls (p : Pattern) : Nat := bitsOf p.ctrl.toNat 28 2
def Pattern.endr (p : Pattern) : Nat := bitsOf p.ctrl.toNat 25 3
def Pattern.dir (p : Pattern) : Nat := bitsOf p.ctrl.toNat 22 2
def Pattern.fmt (p : Pattern) : Nat := bitsOf p.ctrl.toNat 17 5
def Pattern.eptl (p : Pattern) : Nat := bitsOf p.ctrl.toNat 15 2
def Pattern.orderedFlag (p : Pattern) : Bool := p.ctrl.getLsbD 3
def Pattern.clear (p : Pattern) : Bool := p.ctrl.getLsbD 2
def Pattern.pacc (p : Pattern) : Bool := p.ctrl.getLsbD 1
def Pattern.detFlag (p : Pattern) : Bool := p.ctrl.getLsbD 0
def Pattern.logn (p : Pattern) : Nat := bitsOf p.stat.toNat 28 4
def Pattern.soff (p : Pattern) : Nat := bitsOf p.stat.toNat 0 16

/-! ## Handles and ports (R255, R409) -/

def handleSeq (h : Word) : Nat := bitsOf h.toNat 8 24
def handlePort (h : Word) : Nat := bitsOf h.toNat 6 2 * 16 + bitsOf h.toNat 0 4
def handleOf (seq port : Nat) (lane : Bool) : Word :=
  BitVec.ofNat 64 (seq % 2 ^ 24 * 256 + port / 16 * 64 + (if lane then 32 else 0) + port % 16)

/-- The port that a member means by a port it names, after a thaw has moved it (R409). -/
def Ctx.portOf (k : Ctx) (p : Nat) : Nat := k.portMap.lookD p p

/-! ## Local regions and element selectors (R242, R268) -/

/-- The number on its core of local region lr of a context. -/
def Core.regionOf (q : Core) (x lr : Nat) : Option (Nat × Region) :=
  q.regions.find? fun e => e.2.ctx = x && e.2.lr = lr

/-- Element of the core at an ELEM position within a region. -/
def Region.elemAt (r : Region) (el : Nat) : Nat := (r.row0 + el / 16) * 16 + r.col0 + el % 16

/-- Does an ELEM position lie in the region? -/
def Region.hasElem (r : Region) (el : Nat) : Bool := el / 16 < r.rows && el % 16 < r.cols

def Region.holds (r : Region) (e : Nat) : Bool :=
  r.row0 ≤ e / 16 && e / 16 < r.row0 + r.rows && r.col0 ≤ e % 16 && e % 16 < r.col0 + r.cols

/-- ELEM of a core's element in a region. -/
def Region.posOf (r : Region) (e : Nat) : Nat := (e / 16 - r.row0) * 16 + (e % 16 - r.col0)

/-- The elements of a region in row-major order. -/
def Region.elems (r : Region) : List Nat :=
  (List.range r.rows).flatMap fun i => (List.range r.cols).map fun j => (r.row0 + i) * 16 + r.col0 + j

/-- The elements a selector names, in row-major order (R268). -/
def Region.selected (r : Region) (sel : Word) : List Nat :=
  let a := bitsOf sel.toNat 0 8
  let b := bitsOf sel.toNat 8 8
  (List.range' (a / 16) (b / 16 + 1 - a / 16)).flatMap fun i =>
    (List.range' (a % 16) (b % 16 + 1 - a % 16)).map fun j => r.elemAt (i * 16 + j)

def Region.selOk (r : Region) (sel : Word) : Bool :=
  let a := bitsOf sel.toNat 0 8
  let b := bitsOf sel.toNat 8 8
  r.hasElem a && r.hasElem b && a / 16 ≤ b / 16 && a % 16 ≤ b % 16

/-- The region that an element lies in. -/
def Core.regionAt (q : Core) (e : Nat) : Option (Nat × Region) := q.regions.find? fun p => p.2.holds e

def Region.slot (r : Region) (n : Nat) : Slot := r.slots.lookD n {}
def Region.setSlot (r : Region) (n : Nat) (v : Slot) : Region := { r with slots := r.slots.put n v }

/-! ## Header words (R70) -/

def Slot.hw (t : Slot) (i : Nat) : Nat := (t.header.getD i 0).toNat
def Slot.conf (t : Slot) : Nat := bitsOf (t.hw 0) 16 8
def Slot.nsec (t : Slot) : Nat := bitsOf (t.hw 0) 12 4
def Slot.detBit (t : Slot) : Bool := bitsOf (t.hw 0) 11 1 = 1
def Slot.demand (t : Slot) : Bool := bitsOf (t.hw 0) 10 1 = 1
def Slot.roundLen (t : Slot) : Nat := bitsOf (t.hw 1) 16 16

/-- The section that an ELEM position lies in, and one whose exit it is. -/
def Slot.sectionOf (t : Slot) (el : Nat) : Option Nat :=
  (List.range t.nsec).find? fun i =>
    let w := t.hw (2 + i)
    let r := bitsOf w 28 4
    let c := bitsOf w 24 4
    r ≤ el / 16 && el / 16 ≤ r + bitsOf w 20 4 && c ≤ el % 16 && el % 16 ≤ c + bitsOf w 16 4
def Slot.exitOf (t : Slot) (el : Nat) : Option Nat :=
  (List.range t.nsec).find? fun i => bitsOf (t.hw (2 + i)) 8 8 = el

end Sys2Proof.Machine
end

