-- ==== Sys2Proof/Machine/Flags.lean ====
section
/-! DEFINITION. The status words: STATUS, FPCTL, MARKCNT and MARKKIND as software reads them (R171, R173), what a
CSRW leaves in each register, and the width rules and conditions of the integer instructions (R205, R216). The
machine has no arithmetic flags: a test yields a value. -/

namespace Sys2Proof.Machine

def bitNat (b : Bool) : Nat := if b then 1 else 0

/-- STATUS (R173). -/
def Ctx.status (k : Ctx) (x : Nat) : Word :=
  BitVec.ofNat 64 (k.lexit.toNat * 2 ^ 12 + bitNat k.inh * 2 ^ 8 + bitNat k.strict * 16 + x % 4 * 4)

/-- FPCTL (R173). -/
def Ctx.fpctl (k : Ctx) : Word := BitVec.ofNat 64 (bitNat k.ftz * 16 + bitNat k.daz * 8 + k.rnd.toNat)

/-- MARKCNT and MARKKIND of a context: its stream's marks as its core has applied them; 0 for the background class
(R171, R173, R271). -/
def State.markcnt (s : State) (c : Nat) (k : Ctx) : Word :=
  let v := s.markView c k.stream.toNat
  v.sym ++ v.slot
def State.markkind (s : State) (c : Nat) (k : Ctx) : Word :=
  let v := s.markView c k.stream.toNat
  BitVec.ofNat 64 (bitNat v.kind * 2 ^ 16 + v.index.toNat)

/-- Cycles of core c during the first n acts of the machine (R17, R171; DESIGN CHOICE, log 7). -/
def cyclesUpTo (c : Nat) : Nat → Nat
  | 0 => 0
  | n + 1 => cyclesUpTo c n + Config.stepCycles c n

/-- CYCLE of a core: its cycles since its reset (R17, R171; DESIGN CHOICE, log 7). -/
def State.cycle (s : State) (c : Nat) : Word :=
  BitVec.ofNat 64 (cyclesUpTo c s.acts - cyclesUpTo c s.coresReset)

/-- FEAT0 of a core (R354; DESIGN CHOICE, log 6). -/
def State.featOf (s : State) (c : Nat) : Word := s.feat0.lookD c 0x3FF

/-- A control and status register as it stood when the block began (R171, R172). -/
def csrValue (s : State) (h : Here) (n : BitVec 12) : Word :=
  let k := h.ctx
  let v := n.toNat
  if v = 0x000 then k.status h.x
  else if v = 0x001 then BitVec.ofNat 64 k.cause.toNat
  else if v = 0x002 then k.epc
  else if v = 0x003 then k.tval
  else if v = 0x004 then k.tvec
  else if v = 0x008 then BitVec.ofNat 64 k.gen.toNat
  else if v = 0x009 then BitVec.ofNat 64 (k.alloc % 256)
  else if v = 0x00A then BitVec.ofNat 64 k.stream.toNat
  else if v = 0x00B then BitVec.ofNat 64 h.c
  else if v = 0x00C then BitVec.ofNat 64 (dieOf h.c)
  else if v = 0x010 then s.featOf h.c
  else if v = 0x020 then h.blk.cycle
  else if v = 0x021 then h.blk.markcnt
  else if v = 0x022 then h.blk.markkind
  else if v = 0x030 then k.fpctl
  else if v = 0x040 then k.seed0
  else if v = 0x041 then k.seed1
  else if 0x100 ≤ v && v ≤ 0x10F then k.scratch.lookD (v - 0x100) 0
  else 0

/-- What a CSRW leaves: RW registers and fields take the value, RO ones keep theirs, RND takes only a defined mode
(R171 to R173, R233). -/
def Ctx.csrWrite (k : Ctx) (n : BitVec 12) (w : Word) : Ctx :=
  let v := n.toNat
  if v = 0x001 then { k with cause := w.extractLsb' 0 8 }
  else if v = 0x002 then { k with epc := w }
  else if v = 0x003 then { k with tval := w }
  else if v = 0x004 then { k with tvec := w.extractLsb' 2 62 ++ (0 : BitVec 2) }
  else if v = 0x030 then
    { k with ftz := w.getLsbD 4, daz := w.getLsbD 3,
             rnd := if bitsOf w.toNat 0 3 ≤ 4 then w.extractLsb' 0 3 else k.rnd }
  else if 0x100 ≤ v && v ≤ 0x10F then { k with scratch := k.scratch.put (v - 0x100) w }
  else k

/-! ## Widths and conditions of the integer instructions (R205, R216) -/

/-- n: 32 in the form with W, 64 otherwise. -/
def widthOf (w : Bool) : Nat := if w then 32 else 64

/-- An integer operation of R205: `f n a b sa sb` gives res, which is taken mod 2^n and sign-extended. -/
def intOp (w : Bool) (f : Nat → Nat → Nat → Int → Int → Int) (a b : Word) : Word :=
  let n := widthOf w
  let ua := a.toNat % 2 ^ n
  let ub := b.toNat % 2 ^ n
  wordOf (signedOf (modPow (f n ua ub (signedOf ua n) (signedOf ub n)) n) n)

/-- A test of R216: 1 when its condition holds, 0 otherwise, in both widths. -/
def testOp (w : Bool) (f : Nat → Nat → Int → Int → Bool) (a b : Word) : Word :=
  let n := widthOf w
  let ua := a.toNat % 2 ^ n
  let ub := b.toNat % 2 ^ n
  if f ua ub (signedOf ua n) (signedOf ub n) then 1 else 0

end Sys2Proof.Machine
end

