-- ==== Sys2Proof/Machine/Registers.lean ====
section
/-! DEFINITION. The register pages as memory (R310 to R313, R345 to R347, R353 to R359, R390, R464): what each
register reads as, and what a write of some of its bytes does. -/

namespace Sys2Proof.Machine

/-- Bytes of a register that a write covers (R313): bit i of the mask covers byte i. -/
def coverMask (bm : BitVec 8) : Nat :=
  ((List.range 8).map fun i => if bm.getLsbD i then 255 * 2 ^ (8 * i) else 0).foldl (· + ·) 0

def mergeBytes (old v : Word) (bm : BitVec 8) : Word :=
  let m := BitVec.ofNat 64 (coverMask bm)
  (old &&& ~~~m) ||| (v &&& m)

/-- The bits that a write of some bytes writes as 1. -/
def onesWritten (v : Word) (bm : BitVec 8) : Word := v &&& BitVec.ofNat 64 (coverMask bm)

/-- A feature of FEATD0 that driver software has accepted and that is in force (R353). -/
def Dev.feature (d : Dev) (i : Nat) : Bool := d.feath.getLsbD i

/-! ## Queues (R310, R311, R443, R444) -/

/-- Slots of a queue's ring; 0 when it is disabled (DEDUCED, log 25 for sizes that R310 does not list). -/
def Queue.size (q : Queue) : Nat := if 4 ≤ q.log2n.toNat && q.log2n.toNat ≤ 12 then 2 ^ q.log2n.toNat else 0

/-- The ring is not aligned to its size, or passes the end of port memory (R444). -/
def Queue.misplaced (q : Queue) : Bool :=
  q.size ≠ 0 && (q.base.toNat % (64 * q.size) ≠ 0 || q.base.toNat + 64 * q.size > 0x100_0000)

def Queue.waitingCount (q : Queue) : Nat := (q.tail - q.head).toNat

/-- TAIL - HEAD exceeds the ring (R443). -/
def Queue.overrun (q : Queue) : Bool := q.size ≠ 0 && q.waitingCount > q.size

def Queue.idle (q : Queue) : Bool := q.head == q.tail && q.infl == 0

def State.allIdle (s : State) : Bool := (List.range 20).all fun q => (s.queue q).idle

def teaselRecord (cause : Nat) : FaultRec := { cause := BitVec.ofNat 8 cause, src := 6 }

/-- A queue enters or leaves the state of R443. -/
def State.noteOverrun (s : State) (q : Nat) : State :=
  let k := s.queue q
  let t := s.updQueue q fun k => { k with overNoted := k.overrun }
  if k.overrun && !k.overNoted then t.report (teaselRecord 0x60) else t

/-- A write of QSIZE or QBASE that leaves the ring misplaced (R444). -/
def State.noteRing (s : State) (q : Nat) : State :=
  if (s.queue q).misplaced then s.report (teaselRecord 0x61) else s

/-- The tolerance of a queue in force (R336, R448). -/
def State.tolerance (s : State) (q : Nat) : Nat := if s.dev.feature 3 then (s.queue q).tol.toNat else 0

/-- A changed FEATH0 takes effect only while every queue is IDLE (R353). -/
def State.acceptFeatures (s : State) : State :=
  match s.dev.feathNext with
  | some v => if s.allIdle then s.updDev fun d => { d with feath := v, feathNext := none } else s
  | none => s

/-! ## IRQ_N (R337, R347) -/

/-- IRQSTAT. -/
def State.irqStat (s : State) : Nat :=
  ((List.range 20).map fun q => boolBit (s.queue q).done q).foldl (· + ·) 0
    + boolBit s.dev.irqBoot 20 + boolBit s.dev.irqPwr 21
where
  boolBit (b : Bool) (i : Nat) : Nat := if b then 2 ^ i else 0

/-- IRQ_N follows IRQSTAT and IRQMASK; a DONEQ bit whose tolerance runs does not assert it, and does keep it
asserted. -/
def State.updIrq (s : State) : State :=
  let on (i : Nat) : Bool := s.dev.irqMask.getLsbD i && s.irqStat.testBit i
  let any := (List.range 22).any on
  let due := on 20 || on 21 || (List.range 20).any fun q => on q && !(s.queue q).irqDue
  s.updDev fun d => { d with irqN := any && (d.irqN || due) }

/-- BOOTST.STATE changes (R346). -/
def State.enterBoot (s : State) (b : BootState) : State :=
  (s.updDev fun d => { d with boot := b, irqBoot := true }).updIrq

def BootState.code : BootState → Nat
  | .waitfw => 0
  | .verify => 1
  | .init => 2
  | .ready => 3
  | .minimal => 4

/-! ## Writes with an effect of their own -/

def qtailWrite (q : Nat) (v : Word) (bm : BitVec 8) (s : State) : State :=
  if onesWritten (-1) (bm &&& 0x0F) = 0 then s
  else
    let k := s.queue q
    let late := s.teasel.asleep && s.tolerance q ≠ 0
    let s := s.updQueue q fun k =>
      { k with tail := (mergeBytes (k.tail.setWidth 64) v bm).setWidth 32, noticed := k.noticed && !late }
    let s := if late || k.tail = (s.queue q).tail then s else s.updTeasel fun t => { t with asleep := false }
    s.noteOverrun q

def qsizeWrite (q : Nat) (v : Word) (bm : BitVec 8) (s : State) : State :=
  if bm = 0 then s
  else
    let s := s.updQueue q fun k =>
      { k with log2n := (mergeBytes (k.log2n.setWidth 64) v bm).setWidth 4, head := 0, tail := 0, noticed := true }
    ((s.noteRing q).noteOverrun q).acceptFeatures

def qbaseWrite (q : Nat) (v : Word) (bm : BitVec 8) (s : State) : State :=
  if bm = 0 then s
  else
    (s.updQueue q fun k => { k with base := (mergeBytes (k.base.setWidth 64) v bm).setWidth 24 }).noteRing q

def qstatWrite (q : Nat) (v : Word) (bm : BitVec 8) (s : State) : State :=
  let w := onesWritten v bm
  (s.updQueue q fun k =>
    { k with done := k.done && !w.getLsbD 8, irqDue := k.irqDue && !w.getLsbD 8,
             refused := k.refused && !w.getLsbD 3 }).updIrq

/-- A write to MARKW delivers one mark, but before READY (R313, R351). (DEDUCED, log 60.) -/
def markwWrite (m : Nat) (v : Word) (bm : BitVec 8) (s : State) : State :=
  if bm = 0 || s.dev.boot ≠ .ready then s
  else
    let w := onesWritten v bm
    s.updTeasel fun t => { t with marks := t.marks ++ [{ stream := m, kind := w.getLsbD 16, index := w.setWidth 16 }] }

/-- BDRAM, BLINK and BLOAD are 0, 1 and 2. -/
def limitWrite (m b : Nat) (v : Word) (bm : BitVec 8) (s : State) : State :=
  if bm &&& 0x0F = 0 then s
  else
    let f (old : W32) : W32 := (mergeBytes (old.setWidth 64) v bm).setWidth 32
    s.updStream m fun k =>
      if b = 0 then { k with ldram := f k.ldram, pend := true }
      else if b = 1 then { k with llink := f k.llink, pend := true }
      else { k with lload := f k.lload, pend := true }

def bctlWrite (m : Nat) (v : Word) (bm : BitVec 8) (s : State) : State :=
  if !bm.getLsbD 0 then s
  else
    let p := v.extractLsb' 4 2
    s.updStream m fun k => { k with latepol := if p = 3 then k.latepol else p, wt := v.extractLsb' 0 4, pend := true }

/-- START begins at VERIFY; it is ignored while any temperature is at or above LIMIT (R351, R464, R466). (DEDUCED, log 61.) -/
def bootctlStart (v : Word) (bm : BitVec 8) (s : State) : State :=
  let hot := s.dev.temps.any fun t => s.dev.tlim.toInt ≤ t.toInt
  if (onesWritten v bm).getLsbD 0 && (s.dev.boot = .waitfw || s.dev.boot = .minimal) && !hot then
    let minimal := s.dev.boot = .minimal
    (s.updDev fun d => { d with fromMinimal := minimal }).enterBoot .verify
  else s

def feath0Write (v : Word) (bm : BitVec 8) (s : State) : State :=
  let w := mergeBytes (s.dev.feathNext.getD s.dev.feath) v bm &&& s.dev.featd
  (s.updDev fun d => { d with feathNext := some w }).acceptFeatures

def pwrcapWrite (v : Word) (bm : BitVec 8) (s : State) : State :=
  s.updDev fun d => { d with pwrcap := (mergeBytes (d.pwrcap.setWidth 64) v bm).setWidth 16 }

def irqstatWrite (v : Word) (bm : BitVec 8) (s : State) : State :=
  let w := onesWritten v bm
  (s.updDev fun d => { d with irqBoot := d.irqBoot && !w.getLsbD 20, irqPwr := d.irqPwr && !w.getLsbD 21 }).updIrq

def irqmaskWrite (v : Word) (bm : BitVec 8) (s : State) : State :=
  (s.updDev fun d => { d with irqMask := (mergeBytes (d.irqMask.setWidth 64) v bm).setWidth 22 }).updIrq

/-- FLTRING as it reads. -/
def Dev.fltring (d : Dev) : Word :=
  BitVec.ofNat 64 (d.lost.toNat * 2 ^ 48 + d.qsel.toNat * 2 ^ 32 + d.log2n.toNat * 2 ^ 28 + d.offset.toNat)

def fltringWrite (v : Word) (bm : BitVec 8) (s : State) : State :=
  let w := mergeBytes s.dev.fltring v bm
  let n := w.extractLsb' 28 4
  let o := w.extractLsb' 0 24
  s.updDev fun d =>
    let d' := { d with qsel := w.extractLsb' 32 5, log2n := n, offset := o }
    if n = d.log2n && o = d.offset then d' else { d' with head := 0, tail := 0, lost := 0 }

def fltptrWrite (v : Word) (bm : BitVec 8) (s : State) : State :=
  s.updDev fun d => { d with head := (mergeBytes (d.head.setWidth 64 <<< 32) v bm).extractLsb' 32 32 }

/-- Registers without behaviour of their own: QTOL and TLIM; RO registers and unlisted offsets ignore the write
(R345, R346). -/
def plainWrite (off : Nat) (v : Word) (bm : BitVec 8) (s : State) : State :=
  if off < 0x500 && off % 64 = 0x28 then
    s.updQueue (off / 64) fun k => { k with tol := (mergeBytes (k.tol.setWidth 64) v bm).setWidth 16 }
  else if off = 0x2058 then s.updDev fun d => { d with tlim := (mergeBytes (d.tlim.setWidth 64) v bm).setWidth 8 }
  else s

/-! ## The pages as a whole -/

/-- Offsets that answer in MINIMAL (R464): BOOTCTL, BOOTST, THERM, TLIM and the public key. -/
def minimalOffset (off : Nat) : Bool :=
  off = 0x2000 || off = 0x2008 || off = 0x2050 || off = 0x2058 || (0x4000 ≤ off && off < 0x47A0)

/-- A write of some bytes of the register at an offset of the pages, a multiple of 8. -/
def State.regWrite (s : State) (off : Nat) (v : Word) (bm : BitVec 8) : State :=
  if s.dev.boot = .minimal && !minimalOffset off then s
  else if off < 0x500 then
    let q := off / 64
    let r := off % 64
    if r = 0 then qbaseWrite q v bm s
    else if r = 8 then qsizeWrite q v bm s
    else if r = 0x10 then qtailWrite q v bm s
    else if r = 0x20 then qstatWrite q v bm s
    else plainWrite off v bm s
  else if 0x1000 ≤ off && off < 0x1400 then
    let m := (off - 0x1000) / 64
    let r := off % 64
    if r = 0 then markwWrite m v bm s
    else if r = 0x10 || r = 0x18 || r = 0x20 then limitWrite m ((r - 0x10) / 8) v bm s
    else if r = 0x28 then bctlWrite m v bm s
    else s
  else if off = 0x2000 then bootctlStart v bm s
  else if off = 0x2018 then feath0Write v bm s
  else if off = 0x2040 then pwrcapWrite v bm s
  else if off = 0x2060 then irqstatWrite v bm s
  else if off = 0x2068 then irqmaskWrite v bm s
  else if off = 0x2070 then fltringWrite v bm s
  else if off = 0x2078 then fltptrWrite v bm s
  else plainWrite off v bm s

/-- QSTAT. -/
def Queue.stat (q : Queue) : Nat :=
  q.infl.toNat * 2 ^ 16 + (if q.done then 256 else 0) + (if q.refused then 8 else 0) + (if q.waiting then 4 else 0)
    + (if q.idle then 2 else 0)

/-- The seed of the identity key pair (R357). -/
def identitySeed : Nat := Config.shake256 Config.fusedSeed 32

/-- The manifest header (R355). -/
def manifestHeader (d : Dev) : List Byte :=
  leBytes 0x2160 2 ++ leBytes 0xB1 1 ++ leBytes 0 1 ++ leBytes 160 4 ++ leBytes d.svn.toNat 4
    ++ leBytes Config.tableVersion.toNat 4 ++ leBytes 0 16 ++ d.fwhash ++ d.striphash ++ List.replicate 160 0

def AllocState.code : AllocState → Nat
  | .placing => 1
  | .running => 2
  | .frozen => 3
  | .ending => 4
  | .ended => 5

def hashBytes (bs : List Byte) (n : Nat) : List Byte := leBytes (Config.shake256 bs n) n

/-- The manifest entry of an allocation (R356): zero before its placement has succeeded and after its end. -/
def manifestEntry (s : State) (a : Nat) : List Byte :=
  match s.alloc? a with
  | none => List.replicate 128 0
  | some k =>
    if k.st = .ended || k.count = 0 then List.replicate 128 0
    else
      let det := k.img.shapes.any fun r => r.flags.getLsbD 0
      hashBytes k.img.bytes 32 ++ hashBytes (leBytes k.seed0.toNat 8 ++ leBytes k.seed1.toNat 8) 32
        ++ hashBytes k.img.tree 32
        ++ leBytes k.st.code 1 ++ leBytes ((if k.strict then 1 else 0) + if det then 2 else 0) 1 ++ leBytes k.strm 1
        ++ leBytes k.count 1 ++ List.replicate 28 0

def bytesWord (bs : List Byte) (o : Nat) : Nat := leNat ((bs.drop o).take 8)

/-- Signed temperatures as THERM holds them. -/
def Dev.therm (d : Dev) : Nat := leNat (d.temps.take 5)

/-- The register at an offset of the pages, a multiple of 8, as it reads (R345). -/
def State.regWord (s : State) (off : Nat) : Nat :=
  let d := s.dev
  if d.boot = .minimal && !minimalOffset off then 0
  else if off < 0x500 then
    let q := s.queue (off / 64)
    let r := off % 64
    if r = 0 then q.base.toNat else if r = 8 then q.log2n.toNat else if r = 0x10 then q.tail.toNat
    else if r = 0x18 then q.head.toNat else if r = 0x20 then q.stat else if r = 0x28 then q.tol.toNat else 0
  else if 0x1000 ≤ off && off < 0x1400 then
    let k := s.stream ((off - 0x1000) / 64)
    let r := off % 64
    if r = 0x08 then k.view.sym.toNat * 2 ^ 32 + k.view.slot.toNat
    else if r = 0x10 then k.ldram.toNat else if r = 0x18 then k.llink.toNat else if r = 0x20 then k.lload.toNat
    else if r = 0x28 then (if k.pend then 256 else 0) + k.latepol.toNat * 16 + k.wt.toNat
    else if r = 0x30 then k.laten.toNat * 2 ^ 32 + k.defer.toNat else 0
  else if off = 0x2008 then
    let det := if d.reason = 0x12 || d.reason = 0x13 then d.detail.toNat else 0
    d.reason.toNat * 2 ^ 24 + d.tries.toNat * 2 ^ 16 + det * 2 ^ 12 + d.boot.code
  else if off = 0x2010 then d.featd.toNat
  else if off = 0x2018 then (d.feathNext.getD d.feath).toNat
  else if off = 0x2040 then d.pwrcap.toNat
  else if off = 0x2048 then d.est.toNat * 2 ^ 32 + d.pstep
  else if off = 0x2050 then d.therm
  else if off = 0x2058 then d.tlim.toNat
  else if off = 0x2060 then s.irqStat
  else if off = 0x2068 then d.irqMask.toNat
  else if off = 0x2070 then d.fltring.toNat
  else if off = 0x2078 then d.head.toNat * 2 ^ 32 + d.tail.toNat
  else if 0x3000 ≤ off && off < 0x3100 then
    if d.boot = .ready then bytesWord (manifestHeader d) (off - 0x3000) else 0
  else if 0x4000 ≤ off && off < 0x47A0 then
    if Config.fusesReadable then bytesWord (leBytes (Config.mldsaPublic identitySeed) 1952) (off - 0x4000) else 0
  else if 0x5000 ≤ off && off < 0x5A00 then
    if off % 16 = 0 then (s.featOf ((off - 0x5000) / 16)).toNat else 0
  else if 0x8000 ≤ off && off < 0x10000 then bytesWord (manifestEntry s ((off - 0x8000) / 128)) (off % 128)
  else 0

/-- Bytes of the register pages. -/
def State.regBytes (s : State) (off : Nat) : Nat → List Byte
  | 0 => []
  | n + 1 => BitVec.ofNat 8 (s.regWord (off / 8 * 8) / 2 ^ (8 * (off % 8))) :: s.regBytes (off + 1) n

/-- A write of up to eight bytes that lie in one register. -/
def State.regStore (s : State) (off : Nat) (bs : List Byte) : State :=
  let sh := off % 8
  s.regWrite (off / 8 * 8) (BitVec.ofNat 64 (leNat bs * 2 ^ (8 * sh)))
    (BitVec.ofNat 8 ((2 ^ bs.length - 1) * 2 ^ sh))

/-! ## The host's writes to single registers, as steps of their own -/

/-- A register write by the host: in MINIMAL only some registers answer (R464). -/
def hostReg (off : Nat) (v : Word) (bm : BitVec 8) (s : State) : Host.Outcome State Fault Refusal :=
  .next (s.regWrite off v bm).acted

def execQtailWrite (q : Nat) (v : BitVec 64) (bm : BitVec 8) (s : State) : Host.Outcome State Fault Refusal :=
  hostReg (q % 20 * 64 + 0x10) v bm s
def execQsizeWrite (q : Nat) (v : BitVec 64) (bm : BitVec 8) (s : State) : Host.Outcome State Fault Refusal :=
  hostReg (q % 20 * 64 + 0x08) v bm s
def execQbaseWrite (q : Nat) (v : BitVec 64) (bm : BitVec 8) (s : State) : Host.Outcome State Fault Refusal :=
  hostReg (q % 20 * 64) v bm s
def execQstatWrite (q : Nat) (v : BitVec 64) (bm : BitVec 8) (s : State) : Host.Outcome State Fault Refusal :=
  hostReg (q % 20 * 64 + 0x20) v bm s
def execMarkwWrite (m : Nat) (v : BitVec 64) (bm : BitVec 8) (s : State) : Host.Outcome State Fault Refusal :=
  hostReg (0x1000 + m % 16 * 64) v bm s
def execLimitWrite (m : Nat) (b : Nat) (v : BitVec 64) (bm : BitVec 8) (s : State) : Host.Outcome State Fault Refusal :=
  hostReg (0x1010 + m % 16 * 64 + b % 3 * 8) v bm s
def execBctlWrite (m : Nat) (v : BitVec 64) (bm : BitVec 8) (s : State) : Host.Outcome State Fault Refusal :=
  hostReg (0x1028 + m % 16 * 64) v bm s
def execBootctlStart (v : BitVec 64) (bm : BitVec 8) (s : State) : Host.Outcome State Fault Refusal := hostReg 0x2000 v bm s
def execFeath0Write (v : BitVec 64) (bm : BitVec 8) (s : State) : Host.Outcome State Fault Refusal := hostReg 0x2018 v bm s
def execPwrcapWrite (v : BitVec 64) (bm : BitVec 8) (s : State) : Host.Outcome State Fault Refusal := hostReg 0x2040 v bm s
def execIrqstatWrite (v : BitVec 64) (bm : BitVec 8) (s : State) : Host.Outcome State Fault Refusal := hostReg 0x2060 v bm s
def execIrqmaskWrite (v : BitVec 64) (bm : BitVec 8) (s : State) : Host.Outcome State Fault Refusal := hostReg 0x2068 v bm s
def execFltringWrite (v : BitVec 64) (bm : BitVec 8) (s : State) : Host.Outcome State Fault Refusal := hostReg 0x2070 v bm s
def execFltptrWrite (v : BitVec 64) (bm : BitVec 8) (s : State) : Host.Outcome State Fault Refusal := hostReg 0x2078 v bm s
def execRegisterWrite (off : Nat) (v : BitVec 64) (bm : BitVec 8) (s : State) : Host.Outcome State Fault Refusal :=
  hostReg (off % 0x10000 / 8 * 8) v bm s

end Sys2Proof.Machine
end

