-- ==== Sys2Proof/Machine/Agents.lean ====
section
/-! DEFINITION. What every agent's access does at its home: reads and writes by page attribute, ONCE words (R118,
R151, R441), engine accesses line by line (R127, R138), queue buffers (R115), and budgets (R325 to R329). -/

namespace Sys2Proof.Machine

/-! ## ONCE words (R118) -/

/-- The bank of a staging buffer that serves an address (R112); bank 64 for any other. -/
def onceBank (a : Nat) : Nat :=
  match homeOf a with
  | some (.staging d) => d * 16 + bitsOf a 6 4
  | _ => 64

/-- Presence bits of the 8-byte words of [a, a + n) in one granule, under generation g. -/
def Granule.present (k : Granule) (g : BitVec 12) (a n : Nat) : List Bool :=
  if n = 0 then [] else
  (List.range' (a % 64 / 8) ((a % 64 + n - 1) / 8 - a % 64 / 8 + 1)).map fun i => k.tag == g && k.presence.getLsbD i

/-- Is every word that a read touches present? A granule under another generation counts as empty. -/
def State.oncePresent (s : State) (g : BitVec 12) (a n : Nat) : Bool :=
  ((s.granule (a / 64)).present g a n).all id

def wholeWords (a n : Nat) : Bool := a % 8 = 0 && n % 8 = 0 && n ≠ 0

/-- Why a home does not perform a write of a ONCE page (R441): INFO[0] says that it covers part of a word. -/
def State.onceRefuses (s : State) (g : BitVec 12) (a n : Nat) : Option Nat :=
  if !wholeWords a n then some 1
  else if ((s.granule (a / 64)).present g a n).any id then some 0 else none

def presenceMask (a n : Nat) : BitVec 8 :=
  BitVec.ofNat 8 ((2 ^ ((a % 64 + n - 1) / 8 + 1) - 1) - (2 ^ (a % 64 / 8) - 1))

/-- Words of a granule set present, or empty. -/
def State.setPresence (s : State) (a n : Nat) (on : Bool) : State :=
  let k := s.granule (a / 64)
  let m := presenceMask a n
  s.setGranule (a / 64) { k with presence := if on then k.presence ||| m else k.presence &&& ~~~m }

/-- A CLEAR store: every word it covers, be it in part, is zero, empty and stamped (R118; of a word covered in part,
DESIGN CHOICE, log 119). -/
def State.onceClear (s : State) (g : BitVec 12) (a n : Nat) : State :=
  let lo := a / 8 * 8
  let hi := (a + n + 7) / 8 * 8
  (s.writeAs g lo (List.replicate (hi - lo) 0)).setPresence lo (hi - lo) false

/-- The outcome of one access at its home. -/
inductive HomeOut where
  | ok (s : State) (bytes : List Byte) (poison : Option Nat)   -- performed; data poisoned, with its cause
  | refused (s : State) (cause info : Nat)                     -- not performed
  | waits                                                      -- a read of an empty ONCE word

/-- A read of n bytes of one line, under a generation (R118, R129, R398, R399, R403). -/
def State.homeRead (s : State) (g : BitVec 12) (strict : Bool) (attr : Attr) (a n : Nat) (r : FaultRec) : HomeOut :=
  match homeOf a with
  | none => .refused s 0x2A 0
  | some .regs =>
    let p := s.checkLine (a / 64) r
    .ok p.1 (p.1.regBytes (a - regsBase) n)
      (if (p.1.granule (a / 64)).poison then some (if p.2 then 0x26 else 0x25) else none)
  | some _ =>
    if attr = .once && !s.oncePresent g a n then .waits
    else
      let o := s.readAs g strict a n r
      if o.foreign then .refused o.st 0x24 0
      else .ok o.st o.bytes (if o.poisoned then some (if o.fresh then 0x26 else 0x25) else none)

/-- The poison of a register page's line after a write: set by a write under poison, cleared by a write of the whole line
(R134, R398, R459). -/
def State.regLine (s : State) (a n : Nat) (poisoned : Bool) : State :=
  let k := s.granule (a / 64)
  if poisoned then s.setGranule (a / 64) { k with poison := true }
  else if n = 64 && (k.poison || k.bad || k.reported) then
    s.setGranule (a / 64) { k with poison := false, bad := false, reported := false }
  else s

/-- A write of bytes of one line, under a generation (R128, R441). -/
def State.homeWrite (s : State) (g : BitVec 12) (attr : Attr) (a : Nat) (bs : List Byte) : HomeOut :=
  match homeOf a with
  | none => .refused s 0x2A 0
  | some .regs => .ok ((s.regStore (a - regsBase) bs).regLine a bs.length false) [] none
  | some _ =>
    if attr = .once then
      match s.onceRefuses g a bs.length with
      | some i => .refused s 0x2C i
      | none => .ok ((s.writeAs g a bs).setPresence a bs.length true) [] none
    else .ok (s.writeAs g a bs) [] none

/-- Bytes written under poison (R398, R402). -/
def State.writePoisoned (s : State) (g : BitVec 12) (a : Nat) (bs : List Byte) : State :=
  (linesOf a bs.length).foldl (fun s l => s.setGranule l { s.granule l with poison := true }) (s.writeAs g a bs)

def State.homePoison (s : State) (g : BitVec 12) (attr : Attr) (a : Nat) (bs : List Byte) : HomeOut :=
  match homeOf a with
  | none => .refused s 0x2A 0
  | some .regs => .ok ((s.regStore (a - regsBase) bs).regLine a bs.length true) [] none
  | some _ =>
    if attr = .once then
      match s.onceRefuses g a bs.length with
      | some i => .refused s 0x2C i
      | none => .ok ((s.writePoisoned g a bs).setPresence a bs.length true) [] none
    else .ok (s.writePoisoned g a bs) [] none

/-- A write of a line that acts under no generation and keeps each granule's tag: a COPY piece's, or an image's. Into a ONCE
page go whole words only, which are empty unless the write clears them (R317, R441). -/
def State.lineWrite (s : State) (attr : Attr) (clear : Bool) (a : Nat) (bs : List Byte) : HomeOut :=
  match homeOf a with
  | some .regs => .ok ((s.regStore (a - regsBase) bs).regLine a bs.length false) [] none
  | _ =>
    if attr = .once then
      match (if clear && wholeWords a bs.length then none else s.onceRefuses (s.granule (a / 64)).tag a bs.length) with
      | some i => .refused s 0x2C i
      | none => .ok ((s.writeRaw a bs).setPresence a bs.length !clear) [] none
    else .ok (s.writeRaw a bs) [] none

/-! ## Budgets (R325 to R329) -/

def Shares.get (k : Shares) (b : Nat) : Share := if b = 0 then k.dram else if b = 1 then k.link else k.load
def Shares.put (k : Shares) (b : Nat) (v : Share) : Shares :=
  if b = 0 then { k with dram := v } else if b = 1 then { k with link := v } else { k with load := v }
def Shares.use (k : Shares) (b n : Nat) : Shares := k.put b { k.get b with used := (k.get b).used + n }
def Share.within (k : Share) : Bool :=
  match k.limit with
  | none => true
  | some l => k.used < l

/-- How a request stands at its check. -/
inductive Standing where
  | go
  | defer
  | wait
deriving DecidableEq, Repr

/-- The period that a stream is in at a core: its SLOTCNT as applied there (R325). -/
def State.period (s : State) (c m : Nat) : Nat := (s.markView c m).slot.toNat

/-- Who pays for the work of a context (R326, R330). -/
def State.payerAt (s : State) (c x : Nat) : Payer :=
  match s.ctx? c x with
  | some k => if k.stream.toNat < 16 then .member c x else .background
  | none => .background

/-- The stream at whose standing a payer's requests are ranked; none for the background class. -/
def State.payerStream (s : State) : Payer → Option Nat
  | .background => none
  | .member c x => (s.ctx? c x).bind fun k => if k.stream.toNat < 16 then some k.stream.toNat else none
  | .copies _ m => if m < 16 then some m else none

/-- A limit as a share takes it: 0xFFFF_FFFF is none. -/
def limitOf (l : W32) : Option Nat := if l = 0xFFFFFFFF then none else some l.toNat

/-- Shares of whole limits, with nothing used yet: a die's copy allowance (R317). -/
def allowance (v : MarkView) : Shares :=
  { dram := { limit := limitOf v.ldram }, link := { limit := limitOf v.llink }, load := { limit := limitOf v.lload } }

/-- The allowance of a stream at a die's copy logic (R317): that of its registers' applied values until its first slot
mark. -/
def State.allowanceOf (s : State) (d m : Nat) : Shares := (s.die d).copies.lookD m (allowance (s.stream m).view)

def State.sharesOf (s : State) : Payer → Shares
  | .background => {}
  | .member c x => ((s.ctx? c x).map (·.budget)).getD {}
  | .copies d m => s.allowanceOf d m

/-- The period that a payer's requests are in, and the grants in a round that its stream has a right to (R330). -/
def State.payPeriod (s : State) : Payer → Nat
  | .background => 0
  | .member c x => ((s.ctx? c x).map fun k => s.period c k.stream.toNat).getD 0
  | .copies _ m => (s.stream m).view.slot.toNat
def State.quotaOf (s : State) : Payer → Nat
  | .background => 1
  | .member c x => ((s.ctx? c x).map fun k => (s.markView c k.stream.toNat).wt.toNat + 1).getD 1
  | .copies _ m => (s.stream m).view.wt.toNat + 1

/-- The check of R328 of a payer's request against budget b (0 DRAM, 1 link, 2 loader); a request deferred in
an earlier period is granted (R329). -/
def State.standingOf (s : State) (p : Payer) (b : Nat) (deferred : Option Nat) : Standing :=
  match s.payerStream p with
  | none => .go
  | some _ =>
    match deferred with
    | some d => if d = s.payPeriod p then .wait else .go
    | none => if ((s.sharesOf p).get b).within then .go else .defer

def State.standing (s : State) (c x b : Nat) (deferred : Option Nat) : Standing :=
  s.standingOf (s.payerAt c x) b deferred

/-- A charge of n units to a payer (R327); background work is not budgeted. -/
def State.chargeTo (s : State) (p : Payer) (b n : Nat) : State :=
  match p with
  | .background => s
  | .member c x => s.updCtx c x fun k => if 16 ≤ k.stream.toNat then k else { k with budget := k.budget.use b n }
  | .copies d m => s.updDie d fun k => { k with copies := k.copies.put m ((s.allowanceOf d m).use b n) }

def State.charge (s : State) (c x b n : Nat) : State := s.chargeTo (.member c x) b n

/-- DEFER counts a request once per period (R328). -/
def State.countDefer (s : State) (m : Nat) : State :=
  if m < 16 then s.updStream m fun k => { k with defer := k.defer + 1 } else s

/-- A request of a payer found over budget, counted (R328). -/
def State.countDeferOf (s : State) (p : Payer) : State :=
  match s.payerStream p with
  | some m => s.countDefer m
  | none => s

/-- Loader bytes accumulate; one unit is charged for each multiple of 64 that their count passes (R327). -/
def State.chargeLoader (s : State) (c x n : Nat) : State :=
  match s.ctx? c x with
  | none => s
  | some k =>
    let units := (k.loadBytes + n) / 64 - k.loadBytes / 64
    (s.charge c x 2 units).updCtx c x fun k => { k with loadBytes := k.loadBytes + n }

/-- The die links between a core and a home (R67, R461). Dies are 0 to 3, the port die 4. -/
def dieOfHome : Home → Nat
  | .dram d | .staging d => d
  | .portMem | .regs => 4
  | .sbuf c | .cpMem c => dieOf c

/-- Ring steps from die d in one direction to die e. -/
def ringPath (up : Bool) : Nat → Nat → Nat → List (Nat × Bool)
  | 0, _, _ => []
  | n + 1, d, e =>
    if d = e then []
    else if up then (d, false) :: ringPath up n ((d + 1) % 4) e
    else ((d + 3) % 4, true) :: ringPath up n ((d + 3) % 4) e

/-- The route between compute dies: the shorter way, by die d + 1 when both are as long, the other way when a link
on it is down. -/
def State.ringRoute (s : State) (d e : Nat) : List (Nat × Bool) :=
  let up := (e + 4 - d) % 4
  let first := ringPath (up ≤ 2) 4 d e
  if first.any fun h => (s.link h.1).down then ringPath (!(up ≤ 2)) 4 d e else first

/-- The links that cargo crosses from one die to another; 4 is the port die, reached by link 4 + d. -/
def State.route (s : State) (d e : Nat) : List (Nat × Bool) :=
  if d = e then []
  else if e = 4 then [(4 + d, true)]
  else if d = 4 then [(4 + e, false)]
  else s.ringRoute d e

/-- Key of a class and direction at a link, and the credits that its sender holds (R349). -/
def linkKey (cls : Nat) (down : Bool) : Nat := cls + if down then 4 else 0
def Link.creditsOf (k : Link) (key : Nat) : Nat := k.credits.lookD key 32

/-- Flits that are no longer to be delivered: one that waits gives back the credit it holds, and one in a receiver's
buffer leaves it (R349). -/
def State.dropFlights (s : State) (gone : Flight → Bool) : State :=
  let free (s : State) (f : Flight) : State :=
    match f.credit, f.hops with
    | true, h :: _ => s.updLink h.1 fun k =>
        let key := linkKey f.cls h.2
        { k with credits := k.credits.put key (k.creditsOf key + 1) }
    | _, _ => s
  let s := { (s.flights.filter gone).foldl free s with flights := s.flights.filter fun f => !gone f }
  { s with links := s.links.mapVal fun _ k => { k with
      owed := k.buffers.foldl (fun o b => o.put b.1 (o.lookD b.1 0 + (b.2.filter gone).length)) k.owed
      buffers := k.buffers.mapVal fun _ q => q.filter fun f => !gone f } }

/-- Accesses withdrawn leave the machine with their flits. -/
def State.withdrawAll (s : State) (gone : Access → Bool) : State :=
  let ids := (s.accesses.filter gone).map (·.id)
  if ids.isEmpty then s
  else
    { s with accesses := s.accesses.filter fun a => !gone a }.dropFlights fun f =>
      match f.what with
      | .request id | .response id => ids.contains id
      | .token _ _ _ _ _ _ => false

/-- The member of an allocation on a core (R322): at most one. -/
def Core.member (q : Core) (a : Nat) : Option (Nat × Ctx) := q.ctxs.find? fun e => e.2.alloc = a

/-- Generations of the live members of a core (R126, R132). -/
def Core.live (q : Core) : List (BitVec 12) := q.ctxs.map fun k => k.2.gen

/-! ## Accesses (R136, R137, R152) -/

def Client.core : Client → Nat
  | .body c _ _ _ | .move c _ _ _ | .scale c _ _ _ | .ahead c _ _ _ | .loader c | .xa c _ _ _ _ | .piece c _ _
  | .walk c _ => c

def AccKind.writes : AccKind → Bool
  | .load | .fence => false
  | _ => true

def AccKind.isAtomic : AccKind → Bool
  | .atomic _ => true
  | _ => false

/-- The target kind that no atomic may have: a ONCE page or a register page (R149, R416). -/
def atomicTargetBad (k : AccKind) (pa : Nat) (attr : Attr) : Bool :=
  match k with
  | .atomic _ => attr = .once || homeOf pa = some .regs
  | _ => false

/-- The end of a translation for an access: its place, or a cause (R416, R435, R436). -/
def placeOf (k : AccKind) (pa : Nat) (attr : Attr) (rd wr : Bool) : Except Nat (Nat × Attr) :=
  if !permits k.writes rd wr k.isAtomic then .error 0x28
  else if atomicTargetBad k pa attr then .error 0x23
  else .ok (pa, attr)

/-- The virtual address that an access waits to have translated: its own, or the start of the page that its last bytes
lie in. -/
def Access.missing (a : Access) : Option Nat :=
  if a.kind = .fence || a.fault.isSome then none
  else match addrForm a.addr with
    | .virt va =>
      if a.place.isNone then some va
      else if va % 65536 + a.size > 65536 && a.tail.isNone then some ((va / 65536 + 1) * 65536 % 2 ^ 48)
      else none
    | _ => none

/-- Is every byte of an access translated? -/
def Access.located (a : Access) : Bool := a.place.isSome && a.missing.isNone && a.fault.isNone

/-- Does an address lie in a core's own stream buffer or control-processor memory? Such an access passes no arbiter
(R330). -/
def ownMemory (c pa : Nat) : Bool := homeOf pa = some (.sbuf c) || homeOf pa = some (.cpMem c)

/-- The end of one translation of an access. -/
def Access.put (a : Access) (e : Except Nat (Nat × Attr)) : Access :=
  match e with
  | .error cause => { a with fault := some cause }
  | .ok pl => if a.place.isNone then { a with place := some pl } else { a with tail := some pl }

/-- The TLB looked up for what an access misses (R123). -/
def State.lookUp (s : State) : Nat → Access → State × Access
  | 0, a => (s, a)
  | n + 1, a =>
    match a.missing with
    | none => (s, a)
    | some va =>
      match (s.core a.client.core).tlb.find? (·.hits a.alloc va) with
      | none => (s, a)
      | some e =>
        (s.updCore a.client.core fun q => { q with tlb := tlbTouch q.tlb a.alloc va }).lookUp n
          (a.put (placeOf a.kind (e.place va) e.attr e.rd e.wr))

/-- An access enters the machine: its pages are looked up, and what the TLB misses waits for a walk. -/
def State.enter (s : State) (a : Access) : State :=
  let p := s.lookUp 2 { a with id := s.nextId }
  let own := match p.2.place with
    | some (pa, _) => ownMemory a.client.core pa
    | none => false
  { p.1 with accesses := p.1.accesses ++ [{ p.2 with granted := own }], nextId := s.nextId + 1 }

/-- The place of n bytes at an address of a member: at once in its partition or a buffer allocation, after translation
at a virtual address (none), or a cause (R416). -/
def Ctx.placeAt (k : Ctx) (c : Nat) (a : Word) (n : Nat) : Except Nat (Option (Nat × Attr)) :=
  match addrForm a with
  | .virt _ => .ok none
  | .part o => if o + n ≤ k.psize then .ok (some (k.partPlace c o, .normal)) else .error 0x22
  | .buf b o =>
    match k.bufs.look b with
    | none => .error 0x22
    | some q => if o + n ≤ q.size then .ok (some (q.place c o, .normal)) else .error 0x22
  | .reserved => .error 0x21

/-- An access of a member's engine enters the machine, or has met a fault of its address. -/
def State.enterAt (s : State) (c : Nat) (k : Ctx) (a : Access) : State :=
  match k.placeAt c a.addr a.size with
  | .ok pl => s.enter { a with place := pl }
  | .error cause => s.enter { a with fault := some cause }

/-- The parts of [off, off + n) that lie in one line each, when the first byte lies at `a` modulo 64. -/
def lineParts (a : Nat) : Nat → Nat → Nat → List (Nat × Nat)
  | 0, _, _ => []
  | fuel + 1, off, n =>
    if n = 0 then []
    else
      let k := min n (64 - (a + off) % 64)
      (off, k) :: lineParts a fuel (off + k) (n - k)

/-- The bytes of an access that lie at its first place: those before the end of a page, or of a buffer that it wraps round. -/
def Access.headLen (a : Access) : Nat :=
  match a.place, a.tail with
  | some (pa, _), some _ => if a.cut ≠ 0 then a.cut else min a.size (65536 - pa % 65536)
  | _, _ => a.size

/-- The parts of an access, each in one line of one page: place, attribute, offset in the access, bytes. -/
def Access.parts (a : Access) : List (Nat × Attr × Nat × Nat) :=
  match a.place with
  | none => []
  | some (pa, attr) =>
    match a.tail with
    | none => (lineParts pa (a.size + 1) 0 a.size).map fun p => (pa + p.1, attr, p.1, p.2)
    | some (qa, attr2) =>
      let n := a.headLen
      ((lineParts pa (n + 1) 0 n).map fun p => (pa + p.1, attr, p.1, p.2))
        ++ (lineParts qa (a.size + 1) 0 (a.size - n)).map fun p => (qa + p.1, attr2, n + p.1, p.2)

def State.updAccess (s : State) (id : Nat) (f : Access → Access) : State :=
  { s with accesses := s.accesses.map fun a => if a.id = id then f a else a }

def State.dropAccess (s : State) (id : Nat) : State := { s with accesses := s.accesses.filter fun a => a.id ≠ id }

/-- Is an access of binding `seq` on port p, of its moves, its scale bytes or its translations? -/
def Access.ofBinding (c p seq : Nat) (a : Access) : Bool :=
  match a.client with
  | .move d q t _ | .scale d q t _ | .ahead d q t _ => d = c && q = p && t = seq
  | _ => false

def Access.ofPort (c p : Nat) (a : Access) : Bool :=
  match a.client with
  | .move d q _ _ | .scale d q _ _ | .ahead d q _ _ => d = c && q = p
  | _ => false

/-! ## Accesses that a step takes whole: a pattern record, a status record, a header -/

/-- What a read or write of several bytes comes to. -/
structure Span where
  st : State
  bytes : List Byte := []
  cause : Option Nat := none      -- the first part that was not performed
  poison : Option Nat := none

/-- The generation of an engine of a member at an address (R127). -/
def State.engineGen (s : State) (k : Ctx) (a : Nat) : BitVec 12 := s.genAt k.alloc k.gen a

/-- Where bytes of a member's own partition or buffer lie. -/
def Ctx.ownPlace (k : Ctx) (c : Nat) (a : Word) (off n : Nat) : Except Nat (Nat × Attr) :=
  match k.placeAt c (a + BitVec.ofNat 64 off) n with
  | .ok (some pl) => .ok pl
  | .ok none => .error 0x21
  | .error cause => .error cause

def State.engineReadPart (s : State) (c : Nat) (k : Ctx) (a : Word) (r : FaultRec) (p : Span) (part : Nat × Nat) :
    Span :=
  match k.ownPlace c a part.1 part.2 with
  | .error cause =>
    { p with bytes := p.bytes ++ List.replicate part.2 0, cause := p.cause.orElse fun _ => some cause }
  | .ok (pa, attr) =>
    match p.st.homeRead (s.engineGen k pa) k.strict attr pa part.2 r with
    | .waits => p
    | .refused u cause _ =>
      { p with st := u, bytes := p.bytes ++ List.replicate part.2 0, cause := p.cause.orElse fun _ => some cause }
    | .ok u bs po => { p with st := u, bytes := p.bytes ++ bs, poison := p.poison.orElse fun _ => po }

/-- A member's engine reads n bytes of its partition or of a buffer, line by line. -/
def State.engineRead (s : State) (c : Nat) (k : Ctx) (a : Word) (n : Nat) (r : FaultRec) : Span :=
  (lineParts a.toNat (n + 1) 0 n).foldl (s.engineReadPart c k a r) { st := s }

def State.engineWritePart (s : State) (c : Nat) (k : Ctx) (a : Word) (bs : List Byte) (p : Span) (part : Nat × Nat) :
    Span :=
  match k.ownPlace c a part.1 part.2 with
  | .error cause => { p with cause := p.cause.orElse fun _ => some cause }
  | .ok (pa, attr) =>
    match p.st.homeWrite (s.engineGen k pa) attr pa ((bs.drop part.1).take part.2) with
    | .ok u _ _ => { p with st := u }
    | .refused u cause _ => { p with st := u, cause := p.cause.orElse fun _ => some cause }
    | .waits => p

/-- A member's engine writes bytes of its partition, line by line. -/
def State.engineWrite (s : State) (c : Nat) (k : Ctx) (a : Word) (bs : List Byte) : Span :=
  (lineParts a.toNat (bs.length + 1) 0 bs.length).foldl (s.engineWritePart c k a bs) { st := s }

/-- Where the tables of an allocation put a virtual address, read as they stand. -/
def State.peekPlace (s : State) (root va : Nat) : Option (Nat × Attr) :=
  match (s.walk root va { cause := 0, src := 0 }).2 with
  | .page pa big attr _ _ => some (pa + if big then bitsOf va 0 29 else bitsOf va 0 16, attr)
  | .fail _ => none

/-! ## What one agent's accesses wait for (R137 to R155) -/

/-- Does a scope of an agent on core c cover a home (R142)? -/
def inScope (c : Nat) (sc : Scope) (h : Home) : Bool :=
  match sc with
  | .core => h = .sbuf c || h = .cpMem c
  | .die => dieOfHome h = dieOf c
  | .device => h ≠ .portMem && h ≠ .regs
  | .system => true

/-- Can an access touch a location in a scope? One that is not yet translated is to no core-local memory.
(DEDUCED, log 78.) -/
def Access.touches (a : Access) (sc : Scope) : Bool :=
  if a.kind = .fence then false
  else match a.place with
    | some (pa, _) => (match homeOf pa with | some h => inScope a.client.core sc h | none => false)
    | none => sc ≠ .core

/-- The bytes of an access that is translated: one run, or two when it crosses a page's end or wraps round a buffer. -/
def Access.runs (a : Access) : List (Nat × Nat) :=
  match a.place, a.tail with
  | some (p, _), none => [(p, a.size)]
  | some (p, _), some (q, _) => [(p, a.headLen), (q, a.size - a.headLen)]
  | none, _ => []

def runsMeet (l m : List (Nat × Nat)) : Bool := l.any fun p => m.any fun q => p.1 < q.1 + q.2 && q.1 < p.1 + p.2

/-- May two accesses of one agent overlap? Virtual addresses map to no core-local memory, and pages are of 64 KiB or
more, so that before translation the offset in one decides. -/
def Access.overlaps (a b : Access) : Bool :=
  if a.kind = .fence || b.kind = .fence then false
  else if a.missing.isNone && b.missing.isNone then runsMeet a.runs b.runs
  else if (a.place.any fun p => ownMemory a.client.core p.1) || (b.place.any fun p => ownMemory b.client.core p.1) then false
  else
    let p := a.addr.toNat % 65536
    let q := b.addr.toNat % 65536
    (p < q + b.size && q < p + a.size) || p + a.size > q + 65536 || q + b.size > p + 65536

def Access.attrIs (a : Access) (t : Attr) : Bool := (a.place.any fun p => p.2 = t) || a.tail.any fun p => p.2 = t

/-- Acquires and releases (R144, R145, R147, R148, R151), each with its scope. -/
def Access.acquires (a : Access) : Option Scope :=
  if a.kind = .fence || a.acq then some a.scope
  else if a.kind = .load && a.attrIs .once then some .device else none
def Access.releases (a : Access) : Option Scope :=
  if a.kind = .fence || a.rel then some a.scope
  else if (a.kind = .store || a.kind = .clear) && a.attrIs .once then some .device else none

/-- Does a stand after a place in the order of its context's blocks and instructions? -/
def Access.after (a : Access) (block order : Nat) : Bool := block < a.block || (block = a.block && order < a.order)

/-- Does access a wait for access b, which precedes it in its agent's program order and is not yet performed? A write
behind a FENCE releases its scope, and a read before one acquires it (R148). -/
def Access.waitsFor (a b : Access) : Bool :=
  a.overlaps b
    || (a.attrIs .ordered && (b.attrIs .ordered || b.missing.isSome))
    || (match a.releases with | some sc => b.touches sc | none => false)
    || (match b.acquires with | some sc => a.touches sc | none => false)
    || (b.kind = .load && b.missing.isSome && a.touches .device && a.kind ≠ .fence)
    || (b.kind = .fence && a.kind.writes)
    || b.fenced.any fun f => a.after f.1 f.2.1 && a.touches f.2.2

/-- The port and binding of an engine's access. -/
def Client.binding : Client → Option (Nat × Nat × Nat)
  | .move c p t _ | .scale c p t _ => some (c, p, t)
  | _ => none

/-- Does b precede a in its agent's program order, and a wait for it (R136, R139, R150, R154, R155, R269)? `before`: b
stands before a in the list of accesses. -/
def Access.follows (a b : Access) (before : Bool) : Bool :=
  match b.client.binding, a.client.binding with
  | some (c, p, t), some (d, q, u) =>
    before && c = d && p = q && (if t = u then a.chained || a.attrIs .ordered || a.waitsFor b else a.overlaps b)
  | _, _ =>
    match b.client, a.client with
    | .body c x n _, .body d y m _ =>
      c = d && x = y && (n < m || (n = m && b.engine = a.engine && b.order < a.order)) && a.waitsFor b
    | .xa c e i _ _, .xa d f j _ _ =>
      before && c = d && (i = j || (e = f && a.waitsFor b))
    | _, _ => false

/-- Is the access held by nothing that R139 to R155 let go first? What has been performed or resolved holds nothing
back (R438). -/
def orderFree (a : Access) : List Access → Bool → Bool
  | [], _ => true
  | b :: bs, before =>
    if b.id = a.id then orderFree a bs false
    else !(b.fault.isNone && b.got.isNone && a.follows b before) && orderFree a bs before

/-! ## Queue buffers (R115) -/

/-- Offsets of n bytes from a pointer, wrapping at the size. -/
def Buf.wrap (b : Buf) (p n : Nat) : List Nat := (List.range n).map fun i => (p + i) % b.size

/-- What a pop yields. -/
structure PopOut where
  st : State
  bytes : List Byte
  foreign : Bool
  poison : Option Nat

def State.setBuf (s : State) (c x b : Nat) (v : Buf) : State :=
  s.updCtx c x fun k => { k with bufs := k.bufs.put b v }

/-- A push of n bytes at WPTR; byte by byte, so that a wrap writes two runs. Poisoned: zeros under poison. -/
def State.pushBuf (s : State) (c x b : Nat) (k : Ctx) (v : Buf) (bs : List Byte) (poisoned : Bool) : State :=
  let n := bs.length
  let head := min n (v.size - v.wptr % v.size)
  let w (s : State) (o : Nat) (l : List Byte) : State :=
    if l.isEmpty then s
    else if poisoned then s.poisonAs k.gen (v.place c o) l.length else s.writeAs k.gen (v.place c o) l
  let s := w (w s (v.wptr % v.size) (bs.take head)) 0 (bs.drop head)
  s.setBuf c x b { v with wptr := (v.wptr + n) % (2 * v.size) }

/-- A pop of n bytes at RPTR; RPTR advances whether or not the bytes can be used. -/
def State.popBuf (s : State) (c x b : Nat) (k : Ctx) (v : Buf) (n : Nat) (r : FaultRec) : PopOut :=
  let head := min n (v.size - v.rptr % v.size)
  let o1 := s.readAs k.gen k.strict (v.place c (v.rptr % v.size)) head r
  let o2 := o1.st.readAs k.gen k.strict (v.place c 0) (n - head) r
  let bad := o1.poisoned || o2.poisoned
  { st := o2.st.setBuf c x b { v with rptr := (v.rptr + n) % (2 * v.size) }, bytes := o1.bytes ++ o2.bytes,
    foreign := o1.foreign || o2.foreign,
    poison := if bad then some (if o1.fresh || o2.fresh then 0x26 else 0x25) else none }

end Sys2Proof.Machine
end

