-- ==== Sys2Proof/Machine/ElemCfg.lean ====
section
/-! DEFINITION. What an element's 48 fields say (R53, R54, R57, R60, R61, R71), the operation table with its inputs,
variants and subword forms (R278), and where the lanes of the grid lead (R55, R56). -/

namespace Sys2Proof.Machine

/-- The fields of one element in one slot, by number. -/
abbrev Cfg := Nat → Nat

def cfgKey (slot e f : Nat) : Nat := (slot * 256 + e) * 64 + f

/-- The configuration of element e of a core in a slot (R71). -/
def Core.cfg (q : Core) (slot e : Nat) : Cfg := fun f => (q.config.lookD (cfgKey slot e f) 0).toNat

def Cfg.op (g : Cfg) : Nat := bitsOf (g 0) 0 8
def Cfg.variant (g : Cfg) : Nat := bitsOf (g 0) 8 4
def Cfg.sub (g : Cfg) : Nat := bitsOf (g 0) 12 2
def Cfg.gang (g : Cfg) : Nat := bitsOf (g 0) 14 2
/-- Input i (0 A, 1 B, 2 C). -/
def Cfg.kind (g : Cfg) (i : Nat) : Nat := bitsOf (g (1 + i)) 12 4
def Cfg.lane (g : Cfg) (i : Nat) : Nat := bitsOf (g (1 + i)) 11 1
def Cfg.keep (g : Cfg) (i : Nat) : Bool := bitsOf (g (1 + i)) 10 1 = 1
def Cfg.isTok (g : Cfg) (i : Nat) : Bool := 1 ≤ g.kind i && g.kind i ≤ 4
/-- The incoming lane of a direction source. -/
def Cfg.source (g : Cfg) (i : Nat) : Nat := (g.kind i - 1) * 2 + g.lane i
def Cfg.k0 (g : Cfg) : W32 := BitVec.ofNat 32 (g 7 * 65536 + g 6)
def Cfg.k1 (g : Cfg) : W32 := BitVec.ofNat 32 (g 9 * 65536 + g 8)
def Cfg.fwd (g : Cfg) : Nat := bitsOf (g 10) 12 4
def Cfg.env (g : Cfg) : Bool := bitsOf (g 10) 11 1 = 1
def Cfg.enRoute (g : Cfg) : Nat := bitsOf (g 10) 8 2 + 4 * bitsOf (g 10) 10 1
def Cfg.doneIn (g : Cfg) : Nat := bitsOf (g 10) 0 8
def Cfg.upv (g : Cfg) : Bool := bitsOf (g 11) 15 1 = 1
def Cfg.upRoute (g : Cfg) : Nat := bitsOf (g 11) 12 2 + 4 * bitsOf (g 11) 14 1
def Cfg.node (g : Cfg) : Nat := bitsOf (g 11) 8 2
def Cfg.enOut (g : Cfg) : Nat := bitsOf (g 11) 0 8
def Cfg.cntA (g : Cfg) : Nat := g 12
def Cfg.cntB (g : Cfg) : Int := signedOf (g 13) 16
def Cfg.tmode (g : Cfg) : Nat := bitsOf (g 14) 14 2
def Cfg.tagK (g : Cfg) : BitVec 6 := BitVec.ofNat 6 (g 14)
def Cfg.rnd (g : Cfg) : Nat := bitsOf (g 15) 13 3
def Cfg.daz (g : Cfg) : Bool := bitsOf (g 15) 12 1 = 1
def Cfg.ftz (g : Cfg) : Bool := bitsOf (g 15) 11 1 = 1
def Cfg.sat (g : Cfg) : Bool := bitsOf (g 15) 10 1 = 1
def Cfg.dete (g : Cfg) : Bool := bitsOf (g 15) 9 1 = 1
/-- Depth of an operand buffer, and of the pending updates (R61, R28). -/
def Cfg.depth (g : Cfg) (i : Nat) : Nat := bitsOf (g 16) (9 - 3 * i) 3 + 1
def Cfg.pend (g : Cfg) : Nat := bitsOf (g 16) 0 3
def Cfg.ssrc (g : Cfg) : Nat := bitsOf (g 17) 14 2
def Cfg.sideK (g : Cfg) : BitVec 8 := BitVec.ofNat 8 (g 17)
/-- Switchbox field k: the incoming lane it passes, when enabled. -/
def Cfg.passFrom (g : Cfg) (k : Nat) : Option Nat :=
  let v := g (18 + k)
  if bitsOf v 15 1 = 1 then some (bitsOf v 13 2 * 2 + bitsOf v 12 1) else none
def Cfg.gidx (g : Cfg) : Nat := bitsOf (g 28) 0 4
def Cfg.gbc (g : Cfg) : Option Nat := if bitsOf (g 31) 4 1 = 1 then some (bitsOf (g 31) 0 4) else none
def Cfg.opt (g : Cfg) (k : Nat) : Nat := g (32 + k)
def Cfg.f26 (g : Cfg) : BitVec 16 := BitVec.ofNat 16 (g 26)
def Cfg.f27 (g : Cfg) : BitVec 16 := BitVec.ofNat 16 (g 27)

/-- The outgoing lanes (direction * 2 + lane) of a route laid out as F4 (R71). -/
def lanesOf (route : Nat) : List Nat :=
  ((List.range 4).filterMap fun d => if route.testBit d then some (2 * d) else none)
    ++ (List.range 4).filterMap fun d => if route.testBit (4 + d) then some (2 * d + 1) else none

def Cfg.prim (g : Cfg) : List Nat := lanesOf (g 4 % 256)
def Cfg.sec (g : Cfg) : List Nat := lanesOf (g 5 % 256)

def mergeLanes (a b : List Nat) : List Nat := a ++ b.filter fun l => !a.contains l

/-! ## Operation codes (R278) -/

def opPass : Nat := 0x00
def opSteer : Nat := 0x01
def opSwch : Nat := 0x02
def opMerge : Nat := 0x03
def opAmrg : Nat := 0x04
def opFilt : Nat := 0x05
def opExpd : Nat := 0x06
def opRep : Nat := 0x07
def opCnt : Nat := 0x08
def opGate : Nat := 0x09
def opTaga : Nat := 0x0A
def opTagf : Nat := 0x0B
def opReord : Nat := 0x0C
def opJoin : Nat := 0x0D
def opConst : Nat := 0x0E
def opPivg : Nat := 0x33
def opCmac : Nat := 0x43
def opRotz : Nat := 0x50
def opMins : Nat := 0x52
def opXorr : Nat := 0x54
def opCrcs : Nat := 0x55
def opMma : Nat := 0x60
def opXacc : Nat := 0x61
def opReq : Nat := 0x62
def opRng : Nat := 0x70

def opListed (op : Nat) : Bool :=
  op ≤ 0x0E || (0x10 ≤ op && op ≤ 0x1E) || (0x20 ≤ op && op ≤ 0x2A) || (0x30 ≤ op && op ≤ 0x33)
    || (0x40 ≤ op && op ≤ 0x46) || (0x50 ≤ op && op ≤ 0x55) || (0x60 ≤ op && op ≤ 0x62) || op = 0x70

/-- Does the operation list the VARIANT (R280 to R308)? U of the integer operations is VARIANT[11] (R289). -/
def variantListed (op v : Nat) : Bool :=
  if op = 0x01 || op = 0x05 || op = 0x08 || op = 0x0E || op = 0x20 || op = 0x42 || op = 0x43 || op = 0x50
      || op = 0x51 || op = 0x53 || op = 0x54 || op = 0x70 then v ≤ 1
  else if op = 0x02 || op = 0x60 then true
  else if op = 0x12 then v % 8 ≤ 2
  else if op = 0x1E then v % 8 ≤ 5
  else if 0x10 ≤ op && op ≤ 0x1E then v % 8 = 0
  else if op = 0x22 || op = 0x25 || op = 0x61 then v ≤ 3
  else if op = 0x26 then v ≤ 5
  else if op = 0x62 then v ≤ 7
  else v = 0

/-- Does the operation name the subword form, or name none (R309)? -/
def subListed (op s : Nat) : Bool :=
  if s = 3 then false
  else if op = 0x30 || op = 0x31 || op = 0x32 || op = 0x33 then s ≤ 1
  else if op = 0x52 || op = 0x53 then 1 ≤ s
  else true

/-- The inputs an operation requires, and those it may take besides (R278). -/
def opInputs (op v : Nat) : List Nat × List Nat :=
  if op = 0x00 || op = 0x09 || op = 0x0B || op = 0x0C || op = 0x1C || op = 0x26 || (0x27 ≤ op && op ≤ 0x2A)
      || op = 0x33 || op = 0x44 || op = 0x45 || op = 0x52 || op = 0x54 || op = 0x55 || op = 0x61 || op = 0x70 then
    ([0], [])
  else if op = 0x01 then (if v = 1 then ([0, 1, 2], []) else ([0, 1], []))
  else if op = 0x03 || op = 0x13 || op = 0x22 then ([0, 1, 2], [])
  else if op = 0x04 then ([], [0, 1, 2])
  else if op = 0x07 then ([0], [1])
  else if op = 0x08 then ([], [0])
  else if op = 0x0E then ([], [])
  else if op = 0x0D then ([0, 1], [2])
  else if op = 0x31 then ([0], [2])
  else if op = 0x32 then ([0, 1], [2])
  else if op = 0x50 || op = 0x51 then ([0], [1])
  else if op = 0x62 then (if v % 2 = 1 then ([0, 2], [1]) else ([0, 1], []))
  else ([0, 1], [])

def Cfg.reads (g : Cfg) : List Nat :=
  let p := opInputs g.op g.variant
  p.1 ++ p.2.filter fun i => g.kind i ≠ 0

/-- The inputs fed by lanes, in order A, B, C. -/
def Cfg.tokInputs (g : Cfg) : List Nat := (List.range 3).filter fun i => g.reads.contains i && g.isTok i

/-- Every required input is configured, and AMRG has at least one. -/
def Cfg.complete (g : Cfg) : Bool :=
  (opInputs g.op g.variant).1.all (fun i => g.kind i ≠ 0) && (g.op ≠ opAmrg || !g.reads.isEmpty)

/-- Operations that produce tokens without taking any (R77). -/
def Cfg.isSource (g : Cfg) : Bool := g.complete && opListed g.op && g.tokInputs.isEmpty

/-- The slot configures an operation at the element. (DEDUCED, log 54.) -/
def Cfg.works (g : Cfg) : Bool := opListed g.op && g.complete

def Cfg.passes (g : Cfg) : List Nat := (List.range 8).filter fun k => (g.passFrom k).isSome

/-- The drain route, the chain lane and the tokens before each own value (R305). -/
def Cfg.drains (g : Cfg) : Bool := g.op = opMma || g.op = opXacc
def Cfg.drainLanes (g : Cfg) : List Nat := if g.drains then lanesOf (g.opt 0 % 256) else []
def Cfg.chainLane (g : Cfg) : Option Nat :=
  if g.drains && bitsOf (g.opt 1) 7 1 = 1 then some (bitsOf (g.opt 1) 5 2 * 2 + bitsOf (g.opt 1) 4 1) else none
def Cfg.chainCount (g : Cfg) : Nat := bitsOf (g.opt 1) 0 4

/-- STEER's direction route (R281), SWCH's ways (R284). -/
def Cfg.dirLanes (g : Cfg) : List Nat :=
  if g.op = opSteer && g.variant = 0 && bitsOf (g.opt 0) 7 1 = 1 then lanesOf (bitsOf (g.opt 0) 8 8) else []
def Cfg.ways (g : Cfg) : Nat := g.variant % 8 + 1
def Cfg.wayLanes (g : Cfg) (i : Nat) : List Nat := lanesOf (bitsOf (g.opt (i / 2)) (8 * (i % 2)) 8)
def Cfg.wayFree (g : Cfg) (i : Nat) : Nat := bitsOf (g.opt (4 + i / 2)) (8 * (i % 2)) 8

/-- The outgoing lanes on which the operation's markers leave (R62 and the operations' own rules). -/
def Cfg.markerLanes (g : Cfg) : List Nat :=
  if g.op = opSwch then (List.range g.ways).foldl (fun l i => mergeLanes l (g.wayLanes i)) []
  else if g.op = opTagf || g.op = opMerge then g.prim
  else mergeLanes (mergeLanes g.prim g.sec) g.dirLanes

/-- The numbers of the paths that a RETIRE must pass before the element drops the slot (R77): 0 to 7 the switchbox
fields, 8 the datapath (9 for the second side of a REQ), 10 the drain chain, 11 the drain route. -/
def Cfg.paths (g : Cfg) : List Nat :=
  g.passes
    ++ (if g.works then
          (if g.op = opReq && g.reads.contains 1 then [8, 9] else [8]) ++ (if g.chainLane.isSome then [10] else [])
            ++ (if g.drainLanes.isEmpty then [] else [11])
        else [])

/-- The element is not inert in the slot. -/
def Cfg.configures (g : Cfg) : Bool := !g.paths.isEmpty

/-! ## Where lanes lead (R55, R56) -/

inductive LaneEnd where
  | elem (e lane : Nat)
  | port (p lane : Nat)
deriving DecidableEq, Repr

def oppDir (d : Nat) : Nat := (d + 2) % 4

/-- The far end of an outgoing lane of an element: a neighbour's incoming lane, or an edge port. -/
def laneEnd (e lane : Nat) : LaneEnd :=
  let d := lane / 2
  let l := lane % 2
  let r := e / 16
  let c := e % 16
  if d = 0 then (if r = 0 then .port c l else .elem (e - 16) (4 + l))
  else if d = 1 then (if c = 15 then .port (16 + r) l else .elem (e + 1) (6 + l))
  else if d = 2 then (if r = 15 then .port (32 + c) l else .elem (e + 16) l)
  else (if c = 0 then .port (48 + r) l else .elem (e - 1) (2 + l))

/-- What feeds an incoming lane of an element: a neighbour or an edge port. -/
def laneFrom (e lane : Nat) : LaneEnd :=
  match laneEnd e (lane / 2 * 2 + lane % 2) with
  | .elem n _ => .elem n (oppDir (lane / 2) * 2 + lane % 2)
  | .port p l => .port p l

/-- The element and incoming direction at a port (R56). -/
def portElem (p : Nat) : Nat :=
  let i := p % 16
  if p / 16 = 0 then i else if p / 16 = 1 then i * 16 + 15 else if p / 16 = 2 then 240 + i else i * 16

def portLane (p l : Nat) : Nat := p / 16 * 2 + l

/-- The neighbour that a pulse route leads to, when it lies on the grid. -/
def pulseEnd (e route : Nat) : Option Nat :=
  match laneEnd e (route % 4 * 2) with
  | .elem n _ => some n
  | .port _ _ => none

/-- The set bits of a byte in rising order (R30). -/
def setBits (v : Nat) : List Nat := (List.range 8).filter fun i => v.testBit i

end Sys2Proof.Machine
end

