-- ==== Sys2Proof/Machine/Fabric.lean ====
section
/-! DEFINITION. Tokens between elements: space and delivery on lanes (R55, R59), acceptance at entry elements (R25,
R27, R35, R40), intake into operand buffers, what leaves an element, sections (R25), pulses (R60), and the slots of
a region (R34 to R37, R76, R77). -/

namespace Sys2Proof.Machine

def Elem.buf (v : Elem) (i : Nat) : List Token := if i = 0 then v.bufA else if i = 1 then v.bufB else v.bufC
def Elem.setBuf (v : Elem) (i : Nat) (l : List Token) : Elem :=
  if i = 0 then { v with bufA := l } else if i = 1 then { v with bufB := l } else { v with bufC := l }
def Elem.lane (v : Elem) (k : Nat) : Lane := v.lanes.lookD k {}
def Elem.setLane (v : Elem) (k : Nat) (l : Lane) : Elem := { v with lanes := v.lanes.put k l }

def Token.isData (t : Token) : Bool := t.kind = .data || t.kind = .error
def Token.isMarker (t : Token) : Bool := t.kind = .endTile || t.kind = .round || t.kind = .retire
/-- Kinds that end at a region boundary (R59). -/
def Token.endsAtBoundary (t : Token) : Bool := t.kind = .round || t.kind = .squash || t.kind = .retire

/-- The payload of an ERROR token (R400). -/
def errorPay (cause place core : Nat) : W32 := BitVec.ofNat 32 (cause + place % 256 * 256 + core * 65536)

/-- A region that fires (R44, R46, R47). -/
def Region.live (r : Region) : Bool :=
  !r.stopped && (match r.phase with | .placed | .freezing _ _ => true | _ => false)

/-- Two regions joined by a link channel of the image (R23, R66). -/
def State.joined (s : State) (r t : Region) : Bool :=
  r.alloc == t.alloc && match s.alloc? r.alloc with
    | none => false
    | some a => a.img.chans.any fun k =>
        k.logSize = 0 && ((k.src = r.ireg && k.dst = t.ireg) || (k.src = t.ireg && k.dst = r.ireg))

/-- Is the lane's stage free to take one more token (R55)? -/
def Lane.space (l : Lane) : Bool := l.stage.length < 2

def Port.out (p : Port) (l : Nat) : List Token := if l = 0 then p.out0 else p.out1
/-- Has a port a scatter binding whose record carries the DET flag (R167)? -/
def Port.detScatter (p : Port) : Bool := p.bindings.any fun b => b.pat.dir = 3 && b.pat.detFlag
def Port.setOut (p : Port) (l : Nat) (ts : List Token) : Port :=
  if l = 0 then { p with out0 := ts } else { p with out1 := ts }

/-- A SQUASH goes ahead of the DATA that waits at the end of a queue and behind every marker (R63). That it passes no
marker, and so no DATA ahead of one, is the model's choice: the rule speaks of DATA only (DEDUCED, log 57). -/
def enqueue (q : List Token) (t : Token) : List Token :=
  if t.kind = .squash then
    let tail := (q.reverse.takeWhile Token.isData).reverse
    q.take (q.length - tail.length) ++ t :: tail
  else q ++ [t]

/-- Can an outgoing lane take a token of the element's region (R55, R59, R64)? -/
def State.laneSpace (s : State) (c e out : Nat) (t : Token) : Bool :=
  let q := s.core c
  match q.regionAt e with
  | none => false
  | some (rn, r) =>
    match laneEnd e out with
    | .elem n k =>
      match q.regionAt n with
      | none => t.endsAtBoundary
      | some (rm, m) =>
        if rn = rm then ((s.elem c n).lane k).space
        else t.endsAtBoundary || (s.joined r m && m.phase = .placed && ((s.elem c n).lane k).space)
    | .port p l => t.endsAtBoundary || ((s.port c p).out l).length < 2

/-- Tokens counted as sent by a region (R42; DEDUCED, log 43). -/
def Region.addSent (r : Region) (n : Nat) : Region := { r with sent := r.sent + n }
def Region.addRecv (r : Region) (n : Nat) : Region := { r with recv := r.recv + n }

/-- One token put on an outgoing lane, with the totals of R42. A kind that ends at the boundary is consumed there
(R59), except that a port of a DET region passes ROUND on to its engine, which closes the round's log (R41). -/
def State.putTok (s : State) (c e out : Nat) (t : Token) : State :=
  let q := s.core c
  match q.regionAt e with
  | none => s
  | some (rn, r) =>
    let one := if t.isData then 1 else 0
    match laneEnd e out with
    | .elem n k =>
      match q.regionAt n with
      | none => s
      | some (rm, _) =>
        let give (s : State) : State := s.updElem c n fun v =>
          v.setLane k { v.lane k with stage := enqueue (v.lane k).stage t }
        if rn = rm then give (s.updRegion c rn (·.addSent one))
        else if t.endsAtBoundary then s
        else give ((s.updRegion c rn fun r => (r.addSent one).addRecv one).updRegion c rm (·.addSent one))
    | .port p l =>
      if t.endsAtBoundary then
        (if t.kind = .round && (r.det || (s.port c p).detScatter) then s.updPort c p fun w => w.setOut l (w.out l ++ [t]) else s)
      else (s.updRegion c rn (·.addSent one)).updPort c p fun w =>
        { w.setOut l (w.out l ++ [t]) with left := w.left.put l (w.left.lookD l 0 + one) }

def State.putAll (s : State) (c e : Nat) (outs : List Nat) (t : Token) : State :=
  outs.foldl (fun s o => s.putTok c e o t) s

def State.allSpace (s : State) (c e : Nat) (outs : List Nat) (t : Token) : Bool :=
  outs.all fun o => s.laneSpace c e o t

/-! ## Events and sections -/

/-- One signal of an event (R242). -/
def State.signal (s : State) (c x n : Nat) : State :=
  s.updCtx c x fun k => { k with events := k.events.put n (min (k.events.lookD n 0 + 1) 0xFFFF) }

/-- A pulse sent on a route of an element, inside its region (R60). -/
def State.pulse (s : State) (c e route : Nat) (x : BitVec 2) : State :=
  let q := s.core c
  match pulseEnd e route, q.regionAt e with
  | some n, some (_, r) =>
    if r.holds n then
      s.updElem c n fun v => { v with pulses := v.pulses ++ [{ route := oppDir (route % 4) + 4 * (route / 4), ctx := x }] }
    else s
  | _, _ => s

/-- The exit element of a section emits an END (R25): the count falls, and at zero the completion is signalled and
the exit's done pulse raised. -/
def State.sectionEnd (s : State) (c e : Nat) (t : Token) : State :=
  match (s.core c).regionAt e with
  | none => s
  | some (rn, r) =>
    match (r.slot t.ctx.toNat).exitOf (r.posOf e) with
    | none => s
    | some sec =>
      let n := r.remaining.lookD sec 0
      if n = 0 then s
      else
        let s := s.updRegion c rn fun r => { r with remaining := r.remaining.put sec (n - 1) }
        if n = 1 then
          let g := (s.core c).cfg t.ctx.toNat e
          let s := s.signal c r.ctx (8 * r.lr + sec)
          if g.upv then s.pulse c e g.upRoute t.ctx else s
        else s

/-! ## Slots of a region -/

/-- The free-slot counts that a region load gives a SWCH (R284). -/
def Cfg.initialFree (g : Cfg) : SMap Nat :=
  if g.op = opSwch then (List.range g.ways).map fun i => (i, g.wayFree i) else []

/-- What a region load sets in an element: registers 0 under the member's generation, operation state as after a
load, the accumulator as it was (R76, R130). -/
def Elem.loaded (v : Elem) (g : BitVec 12) (cfg : Cfg) : Elem :=
  { v with priv := { own := { tag := g }, ctr := { tag := g }, op := { free := cfg.initialFree }, xa := v.priv.xa }, pend := [] }

def State.genOf (s : State) (c x : Nat) : BitVec 12 := ((s.ctx? c x).map (·.gen)).getD 0

/-- An element that starts a run when its slot becomes CURRENT (R280, R286). -/
def Cfg.swapRun (g : Cfg) : Bool :=
  !g.env && ((g.op = opConst && g.cntA ≠ 0) || (g.op = opCnt && g.tokInputs.isEmpty))

/-- The run that the swap cycle of a slot gives an element: it begins at once, or after the run under way, in the place
of one that a swap before it gave and that has not begun (R77). -/
def OpState.startRun (o : OpState) (g : Cfg) (slot : Nat) : OpState :=
  let x := BitVec.ofNat 2 slot
  if !g.swapRun then { o with swapDue := [] }
  else if o.run.isNone then { o with run := some (x, 0), runFrom := none, swapDue := [] }
  else { o with swapDue := [x] }

def State.startRuns (s : State) (c : Nat) (r : Region) : State :=
  r.elems.foldl (fun s e =>
    s.updElem c e fun v => { v with priv := { v.priv with op := v.priv.op.startRun ((s.core c).cfg r.cur e) r.cur } }) s

/-- The state that a region load sets (R76), and a swap with RESET (R251). -/
def State.loadRegion (s : State) (c rn : Nat) : State :=
  match s.region? c rn with
  | none => s
  | some r =>
    let g := s.genOf c r.ctx
    let s := r.elems.foldl (fun s e => s.updElem c e (·.loaded g ((s.core c).cfg r.cur e))) s
    let s := s.updRegion c rn fun r => { r with tagUsed := 0, remaining := [] }
    s.startRuns c r

/-- Every field of a slot of a region zero. -/
def clearConfig (m : SMap (BitVec 16)) (es : List Nat) (slot : Nat) : SMap (BitVec 16) :=
  m.filter fun k => !(k.1 / 64 / 256 = slot && es.contains (k.1 / 64 % 256))

/-- A slot becomes IDLE: its configuration is dropped (R34, R252), and a DRAINED or RESET swap that waited for it
goes on (R36, R251). (DEDUCED, log 47.) -/
def State.idleSlot (s : State) (c rn slot : Nat) : State :=
  match s.region? c rn with
  | none => s
  | some r =>
    let s := s.updCore c fun q => { q with config := clearConfig q.config r.elems slot }
    let s := s.updRegion c rn fun r => r.setSlot slot {}
    match r.drained.find? fun d => d.1 = slot with
    | some (_, reset) =>
      let s := s.updRegion c rn fun r => { r with drained := r.drained.filter fun d => d.1 ≠ slot }
      if reset then s.loadRegion c rn else s
    | none => s

/-- A RETIRING slot that no element holds becomes IDLE (R35). -/
def State.checkIdle (s : State) (c rn slot : Nat) : State :=
  match s.region? c rn with
  | none => s
  | some r =>
    if (r.slot slot).st = .retiring && r.elems.all fun e => !(s.elem c e).held.getLsbD slot then s.idleSlot c rn slot
    else s

def heldWith (h : BitVec 4) (slot : Nat) : BitVec 4 := h ||| BitVec.ofNat 4 (2 ^ slot)
def heldWithout (h : BitVec 4) (slot : Nat) : BitVec 4 := h &&& ~~~ BitVec.ofNat 4 (2 ^ slot)

/-- The RETIRE of a slot has passed a path of an element; when it has passed them all, the element drops the slot
(R77). After the datapath and the chain, the RETIRE leaves on the drain route behind the drained values (R35, R305).
(DEDUCED, log 46.) -/
def State.passed (s : State) (c e slot path : Nat) : State :=
  let g := (s.core c).cfg slot e
  let v := s.elem c e
  let ps := path :: v.passed.lookD slot []
  let done := (g.paths.filter fun k => 8 ≤ k && k ≠ 11).all fun k => ps.contains k
  let v := { v with passed := v.passed.put slot ps }
  let v := if done && g.paths.contains 11 && !ps.contains 11 && !(v.drains.any fun t => t.kind = .retire && t.ctx.toNat = slot)
    then { v with drains := v.drains ++ [{ kind := .retire, ctx := BitVec.ofNat 2 slot }] } else v
  if g.paths.all fun k => ps.contains k then
    let s := s.setElem c e { v with held := heldWithout v.held slot, passed := v.passed.del slot }
    match (s.core c).regionAt e with
    | some (rn, _) => s.checkIdle c rn slot
    | none => s
  else s.setElem c e v

/-! ## What leaves an element -/

/-- Edge ports that adjoin an element of a region (R324). -/
def Region.ports (r : Region) : List Nat :=
  (List.range 64).filter fun p => r.holds (portElem p)

def Pattern.writes (p : Pattern) : Bool := p.dir = 1 || p.dir = 3

/-- How many tokens have left a region by each lane of its edge ports (R157). -/
def State.leftNow (s : State) (c : Nat) (r : Region) : SMap Nat :=
  r.ports.flatMap fun p => [(p * 2, (s.port c p).left.lookD 0 0), (p * 2 + 1, (s.port c p).left.lookD 1 0)]

/-- Is every write whose data is among the first n tokens of a port lane performed or resolved? A token that still waits
at the port has its write before it (R157; DEDUCED, log 30). -/
def State.laneWritten (s : State) (c p l n : Nat) : Bool :=
  let w := s.port c p
  let taken := w.left.lookD l 0 - ((w.out l).filter Token.isData).length
  taken ≥ n
    && !w.bindings.any (fun b => b.pat.writes && (b.lane == (l = 1) || b.pat.dir = 3) && !b.half.isEmpty
          && taken + 1 - b.half.length ≤ n)
    && !s.accesses.any (fun a =>
      match a.client, a.mark with
      | .move c' p' _ _, some (l', k) | .scale c' p' _ _, some (l', k) =>
        a.got.isNone && c' = c && p' = p && l' = l && k ≤ n
      | _, _ => false)
    && !(s.core c).regions.any fun r => r.2.log.any fun e => e.port = p && e.mark.1 = l && e.mark.2 ≤ n

/-- May a held END go (R157, R438)? -/
def State.holdOver (s : State) (c : Nat) (h : Hold) : Bool :=
  h.released || h.left.all fun k => s.laneWritten c (k.1 / 2) (k.1 % 2) k.2

/-- Does an outgoing lane lead into another region? -/
def State.leaves (s : State) (c : Nat) (r : Region) (e out : Nat) : Bool :=
  match laneEnd e out with
  | .elem n _ => !r.holds n && ((s.core c).regionAt n).isSome
  | .port _ _ => false

/-- The hold of an END on its way out of its region, or none when every write before it has been performed (R157). -/
def State.endHeld (s : State) (c : Nat) (r : Region) (e : Nat) (outs : List Nat) (t : Token) (h : Option Hold) :
    Option Hold :=
  if t.kind ≠ .endTile || !outs.any (s.leaves c r e) then none
  else
    let h := h.getD { left := s.leftNow c r }
    if s.holdOver c h then none else some h

/-- The END at the head of an element's outputs: the state with the hold it waits under, and whether it may go. -/
def State.endGate (s : State) (c e : Nat) (o : OutTok) : State × Bool :=
  match (s.core c).regionAt e with
  | none => (s, true)
  | some (_, r) =>
    if o.tok.kind ≠ .endTile then (s, true)
    else
      let h := s.endHeld c r e o.lanes o.tok (s.elem c e).hold
      (s.updElem c e fun v => { v with hold := h }, h.isNone)

/-- An output token put on its lanes; a RETIRE has then passed its path (R77). -/
def State.leave (s : State) (c e : Nat) (o : OutTok) : State :=
  let s := s.putAll c e o.lanes o.tok
  match o.path with
  | some k => if o.tok.void then s else s.passed c e o.tok.ctx.toNat k
  | none => s

/-- Outputs in their order, as far as their lanes have space; copies leave together (R64). -/
def flushOuts (s : State) (c e : Nat) : List OutTok → State × List OutTok
  | [] => (s, [])
  | o :: os =>
    if s.allSpace c e o.lanes o.tok then
      let g := s.endGate c e o
      if g.2 then flushOuts (g.1.leave c e o) c e os else (g.1, o :: os)
    else (s, o :: os)

def State.flush (s : State) (c e : Nat) : State :=
  match (s.elem c e).out with
  | [] => s
  | outs =>
    let p := flushOuts s c e outs
    p.1.updElem c e fun v => { v with out := p.2 }

/-- Results leave an element, in order (R64, R279). -/
def State.emit (s : State) (c e : Nat) (outs : List OutTok) : State :=
  let s := outs.foldl (fun s o => if o.tok.kind = .endTile then s.sectionEnd c e o.tok else s) s
  (s.updElem c e fun v => { v with out := v.out ++ outs }).flush c e

/-! ## Acceptance and intake -/

/-- Does the incoming lane cross the region's boundary? -/
def Region.crosses (r : Region) (e key : Nat) : Bool :=
  match laneFrom e key with
  | .elem n _ => !r.holds n
  | .port _ _ => true

/-- A section without tiles left holds DATA and ERROR at its entry elements (R25). -/
def Region.sectionHolds (r : Region) (e key : Nat) (t : Token) : Bool :=
  t.isData &&
    let h := r.slot t.ctx.toNat
    match h.sectionOf (r.posOf e) with
    | none => false
    | some sec =>
      r.remaining.lookD sec 0 = 0 && (r.crosses e key ||
        match laneFrom e key with
        | .elem n _ => h.sectionOf (r.posOf n) ≠ some sec
        | .port _ _ => true)

/-- The token that an element may take from the head of an incoming lane: markers of its own region's making first,
then the stage; a token that crosses the boundary is stamped with the CURRENT context (R27, R35). -/
def State.headOf (s : State) (c e key : Nat) : Option Token :=
  match (s.core c).regionAt e with
  | none => none
  | some (_, r) =>
    if !r.live then none
    else
      let l := (s.elem c e).lane key
      match l.pre, l.stage with
      | t :: _, _ => some t
      | [], t :: _ =>
        if r.crosses e key then
          if !r.drained.isEmpty || (r.slot r.cur).st ≠ .current then none
          else
            let t := { t with ctx := BitVec.ofNat 2 r.cur }
            if r.sectionHolds e key t then none else some t
        else if r.sectionHolds e key t then none else some t
      | [], [] => none

/-- The first token offered on a lane of a port has been accepted by its entry element (R248). -/
def Port.accepted (p : Port) (l : Nat) : Port :=
  match p.offered.find? fun o => o.1 = l with
  | none => p
  | some o =>
    let p := { p with offered := p.offered.erase o }
    match o.2 with
    | none => p
    | some (seq, no) =>
      { p with bindings := p.bindings.map fun b =>
          if b.seq = seq then
            { b with items := b.items.map fun i => if i.no = no then { i with tokens := i.tokens - 1 } else i }
          else b }

/-- After the token t has been accepted on a crossing lane: ROUND follows every ROUNDLEN DATA tokens and every END
(R40). (DEDUCED, log 45.) -/
def Lane.counted (l : Lane) (x : BitVec 2) (len : Nat) (t : Token) : Lane :=
  let n := if t.kind = .data then l.since + 1 else l.since
  if t.kind = .endTile || (t.kind = .data && len ≠ 0 && n ≥ len) then
    { l with since := 0, rounds := l.rounds + 1,
             pre := l.pre ++ [{ kind := .round, ctx := x, pay := l.rounds }] }
  else { l with since := n }

/-- The head of an incoming lane taken. -/
def State.popLane (s : State) (c e key : Nat) (t : Token) : State :=
  match (s.core c).regionAt e with
  | none => s
  | some (_, r) =>
    let l := (s.elem c e).lane key
    match l.pre with
    | _ :: ps => s.updElem c e fun v => v.setLane key { l with pre := ps }
    | [] =>
      let l := { l with stage := l.stage.drop 1 }
      if r.crosses e key then
        let s := s.updElem c e fun v => v.setLane key (l.counted t.ctx (r.slot r.cur).roundLen t)
        match laneFrom e key with
        | .port p w => s.updPort c p (·.accepted w)
        | .elem _ _ => s
      else s.updElem c e fun v => v.setLane key l

/-- The inputs and the outgoing lanes that take the tokens of an incoming lane. -/
def Cfg.takers (g : Cfg) (key : Nat) : List Nat := g.tokInputs.filter fun i => g.source i = key
def Cfg.passTo (g : Cfg) (key : Nat) : List Nat := g.passes.filter fun k => g.passFrom k = some key

/-- Space in the operand buffers of some inputs; the token that a KEEP input holds stands in its buffer (R61). -/
def Elem.hasRoom (v : Elem) (g : Cfg) (ins : List Nat) : Bool :=
  ins.all fun i => (v.buf i).length + (v.kept.filter fun k => k.1 = i).length < g.depth i

def Elem.take (v : Elem) (ins : List Nat) (t : Token) : Elem :=
  ins.foldl (fun v i => v.setBuf i (v.buf i ++ [t])) v

/-- Copies beyond the first that one token makes in the region, for the totals of R42. -/
def State.addCopies (s : State) (c rn n : Nat) (t : Token) : State :=
  if t.isData then s.updRegion c rn (·.addSent (n - 1)) else s

/-- One token moved from an incoming lane into the operand buffers that its slot feeds from it (R27, R61). -/
def State.intakeLane (s : State) (c e key : Nat) : Option State :=
  match (s.core c).regionAt e, s.headOf c e key with
  | some (rn, _), some t =>
    if t.kind = .squash then none
    else if t.void then some (s.popLane c e key t)
    else
      let g := (s.core c).cfg t.ctx.toNat e
      let ins := g.takers key
      if ins.isEmpty || !(g.passTo key).isEmpty || g.chainLane = some key || !(s.elem c e).hasRoom g ins then none
      else some (((s.popLane c e key t).updElem c e (·.take ins t)).addCopies c rn ins.length t)
  | _, _ => none

/-- Intake on every lane of an element; did anything move? -/
def State.intake (s : State) (c e : Nat) : State × Bool :=
  (s.elem c e).lanes.foldl (fun p l =>
    match p.1.intakeLane c e l.1 with
    | some t => (t, true)
    | none => p) (s, false)

/-! ## Swaps -/

/-- Is a run of the element under way in the context (R77)? -/
def Elem.running (v : Elem) (x : Nat) : Bool :=
  match v.priv.op.run with
  | some (k, _) => k.toNat = x
  | none => false

/-- Does an element's configuration put tokens on an outgoing lane? -/
def Cfg.drives (g : Cfg) (out : Nat) : Bool :=
  g.markerLanes.contains out || g.drainLanes.contains out || g.passes.contains out

/-- The switchbox paths of an element along which no RETIRE of a slot comes: their lane is inside the region and the
element it comes from puts nothing on it. (DEDUCED, log 46.) -/
def State.quietPaths (s : State) (c : Nat) (r : Region) (e slot : Nat) (g : Cfg) : List Nat :=
  g.passes.filter fun k =>
    match (g.passFrom k).map (laneFrom e) with
    | some (.elem n o) => r.holds n && !((s.core c).cfg slot n).drives o
    | _ => false

/-- An element without data input emits the RETIRE of its old slot once no run of it is under way (R77). -/
def State.retireSource (s : State) (c e slot : Nat) : State :=
  let g := (s.core c).cfg slot e
  let v := s.elem c e
  let t : Token := { kind := .retire, ctx := BitVec.ofNat 2 slot }
  if g.isSource && v.held.getLsbD slot && !v.running slot && !(v.passed.lookD slot []).contains 8
      && !(v.out.any fun o => o.path = some 8 && o.tok.ctx = t.ctx && !o.tok.void) then
    match (s.core c).regionAt e with
    | none => s
    | some (_, r) =>
      s.emit c e ({ lanes := g.markerLanes, tok := t, path := some 8 } ::
        (s.quietPaths c r e slot g).map fun k => { lanes := [k], tok := t, path := some k })
  else s

/-- The swap cycle inside one element: a RETIRE of the old context on every lane that crosses the boundary (R35). -/
def State.swapElem (s : State) (c : Nat) (r : Region) (a b e : Nat) : State :=
  let q := s.core c
  let old := q.cfg a e
  let s := s.updElem c e fun v =>
    { v with held := if (q.cfg b e).configures then heldWith v.held b else v.held, passed := v.passed.del b }
  let s := (List.range 8).foldl (fun s key =>
    if r.crosses e key && (!(old.takers key).isEmpty || !(old.passTo key).isEmpty || old.chainLane = some key) then
      s.updElem c e fun v => v.setLane key { v.lane key with
        pre := (v.lane key).pre ++ [{ kind := .retire, ctx := BitVec.ofNat 2 a }] }
    else s) s
  s.retireSource c e a

def Token.voidIf (t : Token) (x : Nat) : Token := if t.kind = .retire && t.ctx.toNat = x then { t with void := true } else t

/-- Every RETIRE of a context at an element is to be discarded: the context is CURRENT again (R39). -/
def Elem.voidRetires (v : Elem) (x : Nat) : Elem :=
  let f (l : List Token) : List Token := l.map fun t => t.voidIf x
  { v with bufA := f v.bufA, bufB := f v.bufB, bufC := f v.bufC, drains := f v.drains
           lanes := v.lanes.map fun l => (l.1, { l.2 with pre := f l.2.pre, stage := f l.2.stage })
           out := v.out.map fun o => { o with tok := o.tok.voidIf x } }

/-- Slot b becomes CURRENT and the old slot RETIRING (R35, R77); a RETIRING slot stops retiring (R39). -/
def State.makeCurrent (s : State) (c rn b : Nat) : State :=
  match s.region? c rn with
  | none => s
  | some r =>
    let a := r.cur
    let s := if (r.slot b).st = .retiring then r.elems.foldl (fun s e => s.updElem c e (·.voidRetires b)) s else s
    let r' := { (r.setSlot a { r.slot a with st := .retiring }).setSlot b { r.slot b with st := .current } with
      cur := b, quantumUp := false, order := (r.order.filter (· ≠ b)) ++ [b] }
    let s := s.setRegion c rn r'
    let s := r.elems.foldl (fun s e => s.swapElem c r' a b e) s
    (s.startRuns c r').checkIdle c rn a

end Sys2Proof.Machine
end

