-- ==== Sys2Proof/Machine/StreamFmt.lean ====
section
/-! DEFINITION. What a pattern record means: storage formats and conversions (R79 to R90), the order of its moves and
items (R246, R247), and the check of STR.BIND (R422). -/

namespace Sys2Proof.Machine

/-! ## Tokens in memory (R58) -/

def Kind.code : Kind → Nat
  | .data => 0
  | .endTile => 1
  | .round => 2
  | .error => 3
  | .squash => 4
  | .retire => 5

/-- The kind that a code names; reserved codes 6 and 7 read as DATA. (DESIGN CHOICE, log 115.) -/
def kindOf (n : Nat) : Kind :=
  if n = 1 then .endTile else if n = 2 then .round else if n = 3 then .error else if n = 4 then .squash
  else if n = 5 then .retire else .data

/-- A token as the 8 bytes it takes in memory, and back. -/
def Token.word (t : Token) : Nat :=
  t.kind.code * 2 ^ 48 + t.ctx.toNat * 2 ^ 46 + t.tag.toNat * 2 ^ 40 + t.side.toNat * 2 ^ 32 + t.pay.toNat

def tokenOf (n : Nat) : Token :=
  { kind := kindOf (bitsOf n 48 3), ctx := BitVec.ofNat 2 (n / 2 ^ 46), tag := BitVec.ofNat 6 (n / 2 ^ 40),
    side := BitVec.ofNat 8 (n / 2 ^ 32), pay := BitVec.ofNat 32 n }

/-! ## Formats (R79, R88) -/

def Pattern.code (p : Pattern) : Nat := p.fmt % 16
def Pattern.wide (p : Pattern) : Bool := p.fmt / 16 = 1
def Pattern.ept (p : Pattern) : Nat := 2 ^ p.eptl

/-- Bits of an element in storage. -/
def codeBits (c : Nat) : Nat :=
  match c with
  | 0 | 3 | 6 | 7 => 8
  | 1 | 4 | 8 | 9 => 16
  | 5 => 4
  | _ => 32

/-- A format that takes raw packing with W = 0 and conversion with W = 1. -/
def packed (c : Nat) : Bool := c = 0 || c = 1 || (3 ≤ c && c ≤ 9)

def Pattern.isCb9 (p : Pattern) : Bool := p.code = 12
/-- FP4 with W = 1: two tokens a byte (R246). -/
def Pattern.isFp4w (p : Pattern) : Bool := p.code = 5 && p.wide

/-- The combinations of R88. -/
def Pattern.fmtOk (p : Pattern) : Bool :=
  let c := p.code
  if packed c then (if p.wide then p.ept = 1 else p.ept * codeBits c ≤ 32 && (c ≠ 5 || 2 ≤ p.ept))
  else c ≤ 12 && p.ept = 1

/-- tb: bytes of a move (R246). -/
def Pattern.tb (p : Pattern) : Nat :=
  if p.isCb9 then 28
  else if packed p.code then (if p.wide then (if p.code = 5 then 1 else codeBits p.code / 8) else p.ept * codeBits p.code / 8)
  else 4

/-- Tokens of a move. -/
def Pattern.perMove (p : Pattern) : Nat := if p.isCb9 then 12 else if p.isFp4w then 2 else 1

def floatOf (c : Nat) : Option FloatFmt :=
  match c with
  | 5 => some fp4
  | 6 => some e4m3
  | 7 => some e5m2
  | 8 => some bf16
  | 9 => some fp16
  | _ => none

/-- A stored element as a 32-bit token value (R88, R89). -/
def widen (c v : Nat) : Nat :=
  match floatOf c with
  | some f =>
    match decodeFloat f v with
    | .nan => f32.nanCode
    | x => encodeFloat f32 0 x
  | none => if c = 0 || c = 1 then modPow (signedOf v (codeBits c)) 32 else v

/-- A 32-bit token value as a stored element (R90). -/
def narrow (c v : Nat) : Nat :=
  match floatOf c with
  | some f => encodeFloat f 0 (decodeFloat f32 v)
  | none =>
    let x := signedOf v 32
    let b := codeBits c
    if c = 0 || c = 1 then modPow (clampInt x (-(2 ^ (b - 1) : Nat)) ((2 ^ (b - 1) : Nat) - 1)) b
    else (clampInt x 0 ((2 ^ b : Nat) - 1)).toNat

/-! ### CB9 (R85, R86) -/

/-- The nine bits of mantissa j in the bit stream of bytes 1 to 27. -/
def cb9Mantissa (bs : List Byte) (j : Nat) : Int :=
  let w := (bs.drop 1).foldl (fun n b => n * 256 + b.toNat) 0
  signedOf (bitsOf w (216 - 9 * (j + 1)) 9) 9

def cb9Sat (x : Int) : Int := clampInt x (-32768) 32767

def cb9Expand (bs : List Byte) : List W32 :=
  let e := bitsOf (bs.getD 0 0).toNat 0 4
  let part (j : Nat) : Nat := modPow (cb9Sat (cb9Mantissa bs j * (2 ^ e : Nat))) 16
  (List.range 12).map fun k => BitVec.ofNat 32 (part (2 * k) + part (2 * k + 1) * 65536)

/-- v / 2^e to the nearest integer, ties to even. -/
def rneShift (v : Int) (e : Nat) : Int :=
  let d : Int := (2 ^ e : Nat)
  let q := v / d
  let r := v % d
  if 2 * r < d then q else if d < 2 * r then q + 1 else if q % 2 = 0 then q else q + 1

def cb9Compress (ts : List W32) : List Byte :=
  let parts : List Int := ts.flatMap fun t => [signedOf (t.toNat % 65536) 16, signedOf (t.toNat / 65536) 16]
  let fits (e : Nat) : Bool := parts.all fun v => decide (-(256 * (2 ^ e : Nat) : Int) ≤ v ∧ v ≤ 255 * (2 ^ e : Nat))
  let e := ((List.range 8).find? fits).getD 7
  let w := parts.foldl (fun n v => n * 512 + modPow (clampInt (rneShift v e) (-256) 255) 9) 0
  BitVec.ofNat 8 e :: (leBytes w 27).reverse

/-- The payloads of a move's tokens (R87 to R89). -/
def Pattern.toTokens (p : Pattern) (bs : List Byte) : List W32 :=
  if p.isCb9 then cb9Expand bs
  else
    let n := leNat bs
    if p.isFp4w then [BitVec.ofNat 32 (widen 5 (n % 16)), BitVec.ofNat 32 (widen 5 (n / 16 % 16))]
    else if packed p.code && p.wide then [BitVec.ofNat 32 (widen p.code n)]
    else [BitVec.ofNat 32 n]

/-- The bytes of a move from its tokens (R90); a missing second FP4 element is 0 (R247). -/
def Pattern.toBytes (p : Pattern) (ts : List W32) : List Byte :=
  let v (i : Nat) : Nat := (ts.getD i 0).toNat
  if p.isCb9 then cb9Compress ts
  else if p.isFp4w then leBytes (narrow 5 (v 0) + (if ts.length < 2 then 0 else narrow 5 (v 1)) * 16) 1
  else if packed p.code && p.wide then leBytes (narrow p.code (v 0)) p.tb
  else leBytes (v 0) p.tb

/-! ## Moves and items (R246, R247) -/

def Pattern.counts (p : Pattern) : List Nat := [p.cnt0.toNat, p.cnt1.toNat, p.cnt2.toNat, p.cnt3.toNat]
def Pattern.strides (p : Pattern) : List Int := [p.str0.toInt, p.str1.toInt, p.str2.toInt, p.str3.toInt]
def Pattern.indexed (p : Pattern) : Bool := p.dir ≥ 2
def Pattern.totalMoves (p : Pattern) : Nat := p.counts.foldl (· * ·) 1

/-- Offset of move m from BASE: m in mixed radix over the counts, innermost first. -/
def offsetOf : List Nat → List Int → Nat → Int
  | c :: cs, st :: ss, m => ((m % c : Nat) : Int) * st + offsetOf cs ss (m / c)
  | _, _, _ => 0

def Pattern.moveOffset (p : Pattern) (m : Nat) : Int := offsetOf p.counts p.strides m

def Pattern.addrAt (p : Pattern) (o : Int) : Word := p.base + BitVec.ofInt 64 o

/-- Moves of one item (R246); the whole binding with ENDR = 0. -/
def Pattern.itemMoves (p : Pattern) : Nat :=
  if p.endr = 0 then p.totalMoves else (p.counts.take p.endr).foldl (· * ·) 1

/-- An item ends after move m. -/
def Pattern.endsAfter (p : Pattern) (m : Nat) : Bool := p.itemMoves ≠ 0 && (m + 1) % p.itemMoves = 0

/-- Is BASE in a buffer, and which one? -/
def Pattern.bufOf (p : Pattern) : Option (Nat × Nat) :=
  match addrForm p.base with
  | .buf b o => some (b, o)
  | _ => none

def Ctx.queueOf (k : Ctx) (p : Pattern) : Option (Nat × Buf) :=
  match p.bufOf with
  | some (b, _) => match k.bufs.look b with
    | some v => if v.queue then some (b, v) else none
    | none => none
  | none => none

/-- Does an index offset lie within LO and HI (R422)? -/
def Pattern.inBounds (p : Pattern) (o : Int) : Bool :=
  p.lo == p.hi || (decide (p.lo.toInt ≤ o) && decide (o + (p.tb : Int) ≤ p.hi.toInt))

/-- The block of token n in the order of production, and the address of a block's scale byte (R83, R246). -/
def Pattern.blockOf (p : Pattern) (n : Nat) : Nat := n * p.ept / 32
def Pattern.scaleAddr (p : Pattern) (blk : Nat) : Word := p.mxbase + BitVec.ofNat 64 blk
def Pattern.hasScale (p : Pattern) : Bool := p.mxbase != 0

/-- Does a token of the pattern hold its scale in SIDE? One of P4 and P8 does; F32, I32 and 4 x 8 tokens hold 0 (R87). So does
a raw packed one that R87 does not list: FP4 with 2 or 8, E4M3 and E5M2 with 1 or 4, I8 with 1 (DESIGN CHOICE, log 133). -/
def Pattern.sideScale (p : Pattern) : Bool := p.hasScale && !p.wide && !(p.code = 0 && p.ept = 4)

/-! ## The check of STR.BIND (R422) -/

/-- lo and hi of the addresses that an affine pattern reaches. -/
def Pattern.extent (p : Pattern) : Int × Int :=
  (p.counts.zip p.strides).foldl (fun b c =>
    let span : Int := ((c.1 : Int) - 1) * c.2
    (b.1 + min 0 span, b.2 + max 0 span)) (0, (p.tb : Int))

/-- Reserved fields 0, codes defined, format listed, status area inside the partition, a scale base only for the
formats that take one. -/
def Pattern.wellFormed (p : Pattern) (psize : Nat) : Bool :=
  bitsOf p.ctrl.toNat 30 2 = 0 && bitsOf p.ctrl.toNat 24 1 = 0 && bitsOf p.ctrl.toNat 4 11 = 0
    && bitsOf p.stat.toNat 16 12 = 0 && p.bcls ≤ 1 && p.endr ≤ 4 && p.fmtOk && p.logn ≤ 12
    && p.soff + 16 * 2 ^ p.logn ≤ psize
    && (!p.hasScale || p.code = 5 || p.code = 6 || p.code = 7 || p.code = 0)

/-- The cause with which a record is refused, if any (R422). -/
def Ctx.bindCause (k : Ctx) (p : Pattern) : Option Nat :=
  let affine := !p.indexed && p.totalMoves ≠ 0 && (k.queueOf p).isNone
  let e := p.extent
  if !p.wellFormed k.psize then some 0x13
  else if affine && p.lo ≠ p.hi && !(decide (p.lo.toInt ≤ e.1) && decide (e.2 ≤ p.hi.toInt)) then some 0x13
  else match addrForm p.base with
    | .reserved | .part _ => some 0x21
    | .virt _ => none
    | .buf b o =>
      match k.bufs.look b with
      | none => some 0x22
      | some v =>
        if affine && !(decide (0 ≤ (o : Int) + e.1) && decide ((o : Int) + e.2 ≤ (v.size : Int))) then some 0x22
        else if o < v.size then none else some 0x22

end Sys2Proof.Machine
end

