-- ==== Sys2Proof/Machine/ImageForm.lean ====
section
/-! DEFINITION. The forms in which a freeze image and the service path hold what an element keeps (R45, R130, R135, R406):
operation state, pending updates and tokens, each written and read back. -/

namespace Sys2Proof.Machine

/-! ## Operation state (R406; layout DESIGN CHOICE, log 32) -/

/-- A field of operation state: its bytes, its value and how it takes a value. -/
structure OpField where
  bytes : Nat
  get : OpState → Nat
  set : Nat → OpState → OpState

/-- Digits of a number, the lowest first. -/
def digits (base : Nat) : Nat → Nat → List Nat
  | 0, _ => []
  | n + 1, v => v % base :: digits base n (v / base)

def undigits (base : Nat) (l : List Nat) : Nat := l.foldr (fun d n => d % base + base * n) 0

/-- Entry i of a list, when the list has it. -/
def listField (bytes i : Nat) (get : OpState → List Nat) (set : List Nat → OpState → OpState) : OpField :=
  { bytes, get := fun o => (get o).getD i 0, set := fun v o => set ((get o).set i v) o }

/-- A list of numbers: how many there are, and a place for each of n. -/
def listFields (bytes n : Nat) (get : OpState → List Nat) (set : List Nat → OpState → OpState) : List OpField :=
  { bytes := 1, get := fun o => min n (get o).length, set := fun v o => set (List.replicate (min n v) 0) o }
    :: (List.range n).map fun i => listField bytes i get set

/-- A run under way: 0 for none, else 1 more than its context; its steps; TAG and SIDE of the token that started it. -/
def runFields : List OpField :=
  [{ bytes := 1, get := fun o => match o.run with | some r => r.1.toNat + 1 | none => 0
     set := fun v o => { o with run := if v = 0 then none else some (BitVec.ofNat 2 (v - 1), 0) } },
   { bytes := 4, get := fun o => match o.run with | some r => r.2 | none => 0
     set := fun v o => { o with run := o.run.map fun r => (r.1, v) } },
   { bytes := 2, get := fun o => match o.runFrom with | some r => r.1.toNat + 64 + 256 * r.2.toNat | none => 0
     set := fun v o => { o with
       runFrom := if v.testBit 6 then some (BitVec.ofNat 6 v, BitVec.ofNat 8 (v / 256)) else none } }]

/-- What an operation keeps, in the order in which "Element operations" names it. -/
def opFields (op : Nat) : List OpField :=
  if op = opSteer then
    [{ bytes := 2, get := (·.outst), set := fun v o => { o with outst := v } },
     { bytes := 1, get := (·.issue.length), set := fun v o => { o with issue := List.replicate v 0 } },
     { bytes := 48, get := fun o => undigits 64 (o.issue.map (·.toNat))
       set := fun v o => { o with issue := (digits 64 o.issue.length v).map (BitVec.ofNat 6) } },
     { bytes := 1, get := fun o => if o.sq then 1 else 0, set := fun v o => { o with sq := v = 1 } }]
  else if op = opSwch then
    (List.range 8).map (fun i =>
      { bytes := 2, get := fun o => o.free.lookD i 0, set := fun v o => { o with free := o.free.put i v } })
    ++ [{ bytes := 1, get := (·.seq.toNat), set := fun v o => { o with seq := BitVec.ofNat 8 v } }]
  else if op = opAmrg then [{ bytes := 1, get := (·.amrgLast), set := fun v o => { o with amrgLast := v % 3 } }]
  else if op = opRep then
    [{ bytes := 4, get := (·.rep), set := fun v o => { o with rep := v } }]
  else if op = opCnt || op = opConst then
    runFields
      ++ listFields 1 8 (·.runsDue.map (·.toNat)) (fun l o => { o with runsDue := l.map (BitVec.ofNat 2) })
      ++ listFields 1 4 (·.swapDue.map (·.toNat)) (fun l o => { o with swapDue := l.map (BitVec.ofNat 2) })
      ++ listFields 2 8 (·.enabled) (fun l o => { o with enabled := l })
      ++ listFields 2 8 (·.doneCnt) (fun l o => { o with doneCnt := l })
      ++ [{ bytes := 4, get := (·.endNo), set := fun v o => { o with endNo := v } }]
  else if op = opGate then
    [{ bytes := 4, get := (·.grants), set := fun v o => { o with grants := v } }]
  else if op = opTaga then
    [{ bytes := 1, get := (·.tagaPos), set := fun v o => { o with tagaPos := v } },
     { bytes := 1, get := (·.tagaTag.toNat), set := fun v o => { o with tagaTag := BitVec.ofNat 6 v } }]
  else if op = opTagf then
    (List.range 32).map fun i =>
      { bytes := 1, get := fun o => o.tagf.lookD (2 * i) 0 + 16 * o.tagf.lookD (2 * i + 1) 0
        set := fun v o => { o with tagf := (o.tagf.put (2 * i) (v % 16)).put (2 * i + 1) (v / 16) } }
  else if op = opReord then [{ bytes := 1, get := (·.next.toNat), set := fun v o => { o with next := BitVec.ofNat 8 v } }]
  else if op = opCmac then
    [{ bytes := 8, get := (·.sumR.toNat), set := fun v o => { o with sumR := BitVec.ofNat 64 v } },
     { bytes := 8, get := (·.sumI.toNat), set := fun v o => { o with sumI := BitVec.ofNat 64 v } }]
  else if op = opXorr then
    [{ bytes := 4, get := (·.x.toNat), set := fun v o => { o with x := BitVec.ofNat 32 v } },
     { bytes := 4, get := (·.xCount), set := fun v o => { o with xCount := v } }]
  else if op = opCrcs then
    [{ bytes := 1, get := fun o => if o.live then 1 else 0, set := fun v o => { o with live := v = 1 } },
     { bytes := 4, get := (·.crc.toNat), set := fun v o => { o with crc := BitVec.ofNat 32 v } }]
  else if op = opMma || op = opXacc then [{ bytes := 1, get := (·.chain), set := fun v o => { o with chain := v } }]
  else if op = opReq then
    [{ bytes := 2, get := (·.reqOut), set := fun v o => { o with reqOut := v } },
     { bytes := 1, get := fun o => if o.fenceNext then 1 else 0, set := fun v o => { o with fenceNext := v = 1 } }]
  else []

/-- The operations that the slots in use configure at an element, by code. -/
def usedOps (q : Core) (r : Region) (e : Nat) : List Nat :=
  (List.range 0x71).filter fun op => (List.range 4).any fun i =>
    (r.slot i).st ≠ .idle && (q.cfg i e).works && (q.cfg i e).op = op

/-- Operation state in n bytes: the operations one after another, zero after the last. -/
def OpState.bytes (o : OpState) (ops : List Nat) (n : Nat) : List Byte :=
  let bs := (ops.flatMap opFields).flatMap fun f => leBytes (f.get o) f.bytes
  (bs ++ List.replicate n 0).take n

/-- The operation state that bytes hold. -/
def OpState.ofBytes (ops : List Nat) (bs : List Byte) : OpState :=
  ((ops.flatMap opFields).foldl (fun (p : OpState × List Byte) f =>
    (f.set (leNat (p.2.take f.bytes)) p.1, p.2.drop f.bytes)) ({}, bs)).1

/-! ## Pending updates (R45, R130, R287; layout DESIGN CHOICE, log 32) -/

def UpdKind.code : UpdKind → Nat
  | .fire => 0
  | .tileEnd => 1
  | .drain => 2

/-- An update in 8 bytes: the OWN it writes or its first operand, TAG and slot, flags, and the two scale bytes. -/
def Upd.bytes (u : Upd) : List Byte :=
  leBytes (u.own.getD u.a).toNat 4 ++ leBytes (u.tag.toNat + 64 * (u.slot % 4)) 1
    ++ leBytes (1 + 2 * u.kind.code + boolBit u.own.isSome 3 + boolBit u.err 4 + boolBit u.reads 5 + boolBit u.waits 6) 1
    ++ leBytes u.sa.toNat 1 ++ leBytes u.sb.toNat 1

/-- The update that 8 bytes hold, with the second operand that they do not; none when they hold none. -/
def Upd.ofBytes (bs : List Byte) (b : W32) (gen : BitVec 12) : Option Upd :=
  let n (i k : Nat) : Nat := leNat ((bs.drop i).take k)
  let f := n 5 1
  let v := BitVec.ofNat 32 (n 0 4)
  if !f.testBit 0 then none
  else some {
    kind := if bitsOf f 1 2 = 1 then .tileEnd else if bitsOf f 1 2 = 2 then .drain else .fire
    gen, tag := BitVec.ofNat 6 (n 4 1), slot := n 4 1 / 64
    own := if f.testBit 3 then some v else none
    a := v, b, sa := BitVec.ofNat 8 (n 6 1), sb := BitVec.ofNat 8 (n 7 1)
    err := f.testBit 4, reads := f.testBit 5, waits := f.testBit 6 }

/-! ## Tokens (R58, R405) -/

/-- A captured token: its ELEM, location byte and position. -/
def tokenEntry (t : Token) (el loc pos : Nat) : List Byte :=
  leBytes t.word 8 ++ leBytes el 1 ++ leBytes loc 1 ++ leBytes pos 2 ++ leBytes 0 4

/-- The tokens of a place in arrival order, counted from a position. -/
def tokenRun (el loc : Nat) (ts : List Token) (first : Nat := 0) : List (List Byte) :=
  ts.zipIdx.map fun t => tokenEntry t.1 el loc (first + t.2)

/-- A token entry as read: its ELEM, location byte, position and token. -/
structure Held where
  el : Nat
  loc : Nat
  pos : Nat
  tok : Token

def heldOf (bs : List Byte) : Held :=
  { el := leNat ((bs.drop 8).take 1), loc := leNat ((bs.drop 9).take 1), pos := leNat ((bs.drop 10).take 2)
    tok := tokenOf (leNat (bs.take 8)) }

/-- A token put among others by position. -/
def putHeld (h : Held) : List Held → List Held
  | [] => [h]
  | k :: ks => if h.pos < k.pos then h :: k :: ks else k :: putHeld h ks

/-- The tokens of one place, in arrival order. -/
def heldAt (hs : List Held) (el loc : Nat) : List Token :=
  ((hs.filter fun h => h.el = el && h.loc = loc).foldl (fun l h => putHeld h l) []).map (·.tok)

/-- Location bytes (R405). Bits 2 to 0, which R405 leaves open, set apart what an operation holds of input A (REORD's
window 2, MINS' group 3, the token that REP copies 4) and a drained value that waits for its turn in the chain (1) (DESIGN CHOICE, log 32). -/
def bufLoc (i : Nat) : Nat := 16 * i
def laneLoc (key : Nat) : Nat := 64 + key / 2 * 16 + key % 2 * 8
def outLoc (lane : Nat) : Nat := 128 + lane / 2 * 16 + lane % 2 * 8
def windowLoc : Nat := 2
def groupLoc : Nat := 3
def repLoc : Nat := 4

end Sys2Proof.Machine
end

