-- ==== Sys2Proof/Machine/ElemCalc.lean ====
section
/-! DEFINITION. What the element operations compute, on plain values: integer subwords (R289, R290), F32 (R291,
R292), fixed point (R293 to R295), complex (R296), bits and decoding (R297 to R302), the generator (R308), and what a
firing keeps (R279) with pending updates (R287). -/

namespace Sys2Proof.Machine

/-! ## Subwords (R53, R289) -/

def subWidth (sub : Nat) : Nat := if sub = 0 then 32 else if sub = 1 then 16 else 8

def subNat (x w k : Nat) : Nat := x / 2 ^ (w * k) % 2 ^ w

/-- Put subwords together, lowest first. -/
def joinSubs (w : Nat) : List Nat → Nat
  | [] => 0
  | x :: xs => x % 2 ^ w + 2 ^ w * joinSubs w xs

/-- The clamp of a saturating result (R289). -/
def satTo (u : Bool) (w : Nat) (x : Int) : Int :=
  if u then clampInt x 0 ((2 ^ w : Nat) - 1) else clampInt x (-((2 ^ (w - 1) : Nat) : Int)) ((2 ^ (w - 1) : Nat) - 1)

/-- One subword of an integer operation (R289): operands read as unsigned w-bit values, result mod 2^w. -/
def intSub (op v w : Nat) (sat : Bool) (a b c : Nat) : Nat :=
  let sa := signedOf a w
  let sb := signedOf b w
  let sc := signedOf c w
  let u := 8 ≤ v
  let res : Int :=
    if op = 0x10 then (if u then a + b else sa + sb)
    else if op = 0x11 then (if u then (a : Int) - b else sa - sb)
    else if op = 0x12 then
      (if v % 4 = 0 then sa * sb else if v % 4 = 1 then sa * sb / (2 ^ w : Nat) else (a : Int) * b / (2 ^ w : Nat))
    else if op = 0x13 then (if u then (a : Int) * b + c else sa * sb + sc)
    else if op = 0x14 then (a &&& b : Nat)
    else if op = 0x15 then (a ||| b : Nat)
    else if op = 0x16 then (a ^^^ b : Nat)
    else if op = 0x17 then
      (if sat then (if u then (a : Int) else sa) * (2 ^ min b w : Nat) else if b ≥ w then 0 else (a * 2 ^ b : Nat))
    else if op = 0x18 then (if b ≥ w then 0 else (a / 2 ^ b : Nat))
    else if op = 0x19 then (if b ≥ w then (if sa < 0 then -1 else 0) else sa / (2 ^ b : Nat))
    else if op = 0x1A then (if u then (min a b : Nat) else min sa sb)
    else if op = 0x1B then (if u then (max a b : Nat) else max sa sb)
    else if op = 0x1C then (sa.natAbs : Int)
    else if op = 0x1D then
      (let m := b % 32 + 1
       if u then clampInt sa 0 ((2 ^ m : Nat) - 1)
       else clampInt sa (-((2 ^ (m - 1) : Nat) : Int)) ((2 ^ (m - 1) : Nat) - 1))
    else
      (let k := v % 8
       let t := if k = 0 then a = b else if k = 1 then a ≠ b else if k = 2 then sa < sb else if k = 3 then sa ≤ sb
         else if k = 4 then a < b else a ≤ b
       if t then 1 else 0)
  let saturates := op = 0x10 || op = 0x11 || (op = 0x12 && v % 4 = 0) || op = 0x13 || op = 0x17 || op = 0x1C
  modPow (if saturates && sat then satTo u w res else res) w

/-- The subwords of one word. -/
def intWord (op v sub : Nat) (sat : Bool) (a b c : W32) : W32 :=
  let w := subWidth sub
  BitVec.ofNat 32 (joinSubs w ((List.range (32 / w)).map fun k =>
    intSub op v w sat (subNat a.toNat w k) (subNat b.toNat w k) (subNat c.toNat w k)))

/-- Operations that act on the wide value of a gang under SUB 00 (R290). -/
def gangWide (op sub : Nat) : Bool :=
  sub = 0 && (op = 0x10 || op = 0x11 || (0x14 ≤ op && op ≤ 0x19))

/-- Does the value that a wide operation passes between two neighbours of a gang travel on the gang link: carries and bits
shifted left go east by F29 of the lower member, bits shifted right go west by F30 of the higher (R54, R71, R290)?
(DEDUCED, log 53.) -/
def gangLinked (op : Nat) (lo hi : Cfg) : Bool :=
  if op = 0x10 || op = 0x11 then lo 29 % 4 = 1
  else if op = 0x17 then lo 29 % 4 = 2
  else if op = 0x18 || op = 0x19 then hi 30 % 4 = 2
  else true

/-! ## F32 (R291, R292) -/

def Cfg.fctl (g : Cfg) : FCtl := ⟨g.rnd, g.daz, g.ftz⟩

def f32Op (op v : Nat) (k : FCtl) (a b c : W32) : W32 :=
  let x := a.toNat
  let y := b.toNat
  BitVec.ofNat 32 (
    if op = 0x20 then (if v = 0 then fAdd k x y else fSub k x y)
    else if op = 0x21 then fMul k x y
    else if op = 0x22 then
      (let p := fvMul (k.src f32 x) (k.src f32 y)
       let z := k.src f32 c.toNat
       let p := if 2 ≤ v then p.neg else p
       let z := if v % 2 = 1 then z.neg else z
       k.res f32 (fvAdd k.rnd p z))
    else if op = 0x23 then fMin k x y
    else if op = 0x24 then fMax k x y
    else if op = 0x25 then fCmp k (if v = 0 then .eq else if v = 1 then .lt else if v = 2 then .le else .un) x y
    else if op = 0x26 then
      (if v = 0 then modPow (toInt k.rnd (k.src f32 x) (-2147483648) 2147483647) 32
       else if v = 1 then fFromInt k a.toInt
       else if v = 2 then fNarrow k bf16 x
       else if v = 3 then fWiden k bf16 (x % 65536)
       else if v = 4 then fNarrow k fp16 x
       else fWiden k fp16 (x % 65536))
    else if op = 0x27 then opF1 k (fvDiv (.fin false 1 0)) x
    else if op = 0x28 then opF1 k fvRsqrt x
    else if op = 0x29 then opF1 k fvExp2 x
    else opF1 k fvLog2 x)

/-! ## Fixed point and solving (R293 to R295) -/

def Cfg.fa (g : Cfg) : Nat := bitsOf (g.opt 0) 0 5
def Cfg.fb (g : Cfg) : Nat := bitsOf (g.opt 0) 5 5
def Cfg.fo (g : Cfg) : Nat := bitsOf (g.opt 0) 10 5

/-- num / den * 2^e rounded to an integer by a mode, for a sign. -/
def roundQuot (mode : Nat) (neg : Bool) (num den : Nat) (e : Int) : Int :=
  let n := if 0 ≤ e then num * 2 ^ e.toNat else num
  let d := if 0 ≤ e then den else den * 2 ^ (-e).toNat
  let q := roundTo mode neg (stickyDiv (n * 8) d) (-4) 0
  if neg then -(q : Int) else q

/-- 2^FO / sqrt(a * 2^-FA) rounded to an integer. -/
def roundRsqrt (mode a fa fo : Nat) : Int :=
  let n := 2 ^ (2 * fo + fa + 16)
  let r := isqrt (n / a)
  roundTo mode false (2 * r + (if r * r * a = n then 0 else 1)) (-9) 0

/-- One subword of QMUL, QRSQ or QDIV: the result, and whether it is an edge case (R293). -/
def fixSub (op w : Nat) (g : Cfg) (a b : Nat) : Nat × Bool :=
  let sa := signedOf a w
  let sb := signedOf b w
  let hi : Int := (2 ^ (w - 1) : Nat) - 1
  let lo : Int := -((2 ^ (w - 1) : Nat) : Int)
  let p : Int × Bool :=
    if op = 0x30 then
      (let e : Int := (g.fo : Int) - g.fa - g.fb
       let x := sa * sb
       (if 0 ≤ e then x * (2 ^ e.toNat : Nat) else roundInt g.rnd x (-e).toNat, false))
    else if op = 0x31 then (if sa ≤ 0 then (hi, true) else (roundRsqrt g.rnd sa.natAbs g.fa g.fo, false))
    else if sb = 0 then (if 0 ≤ sa then hi else lo, true)
    else (roundQuot g.rnd ((sa < 0) != (sb < 0)) sa.natAbs sb.natAbs ((g.fo : Int) - g.fa + g.fb), false)
  (modPow (clampInt p.1 lo hi) w, p.2)

/-- The residual check of a warm start (R294). -/
def warmOk (op w : Nat) (g : Cfg) (a b c : Nat) : Bool :=
  let sa := signedOf a w
  let sb := signedOf b w
  let sc := signedOf c w
  if op = 0x32 then
    (sc * sb * (2 ^ g.fa : Nat) - sa * (2 ^ (g.fo + g.fb) : Nat)).natAbs * 16 ≤ sa.natAbs * 2 ^ (g.fo + g.fb)
  else (sc * sc * sa - (2 ^ (2 * g.fo + g.fa) : Nat)).natAbs * 16 ≤ 2 ^ (2 * g.fo + g.fa)

/-- QMUL, QRSQ and QDIV: the word, and the operation's own SIDE (R294). `c` is the warm start with its SIDE. -/
def fixWord (g : Cfg) (a b : W32) (c : Option (W32 × BitVec 8)) : W32 × BitVec 8 :=
  let w := subWidth g.sub
  let ks := List.range (32 / w)
  let rs := ks.map fun k => fixSub g.op w g (subNat a.toNat w k) (subNat b.toNat w k)
  let warm := match c with
    | none => false
    | some (v, side) => side.toNat = bitsOf (g.opt 1) 0 8 && ks.all fun k =>
        warmOk g.op w g (subNat a.toNat w k) (subNat b.toNat w k) (subNat v.toNat w k)
  (BitVec.ofNat 32 (joinSubs w (rs.map (·.1))),
   if g.op = 0x30 then 0 else BitVec.ofNat 8 (boolBit warm 0 + boolBit (rs.any (·.2)) 1))

/-- PIVG: the word and how many subwords were regularised (R295). -/
def pivgWord (g : Cfg) (a : W32) : W32 × Nat :=
  let w := subWidth g.sub
  let lo : Int := -((2 ^ (w - 1) : Nat) : Int)
  let rs := (List.range (32 / w)).map fun k =>
    let sa := signedOf (subNat a.toNat w k) w
    if sa.natAbs < subNat g.k0.toNat w k then
      (modPow (clampInt (sa + signedOf (subNat g.k1.toNat w k) w) lo ((2 ^ (w - 1) : Nat) - 1)) w, 1)
    else (modPow sa w, 0)
  (BitVec.ofNat 32 (joinSubs w (rs.map (·.1))), (rs.map (·.2)).foldl (· + ·) 0)

/-! ## Complex (R296) -/

def reOf (x : W32) : Int := signedOf (x.toNat % 65536) 16
def imOf (x : W32) : Int := signedOf (x.toNat / 65536) 16
def packC (r i : Int) : W32 := BitVec.ofNat 32 (modPow r 16 + 65536 * modPow i 16)
def sat16 (x : Int) : Int := clampInt x (-32768) 32767
def cScale (g : Cfg) (x : Int) : Int := roundInt g.rnd x (g.opt 0 % 16)

/-- The exact product of CMUL and CMAC, with a conjugated under VARIANT[8]. -/
def cProd (g : Cfg) (a b : W32) : Int × Int :=
  let ai := if g.variant % 2 = 1 then -imOf a else imOf a
  (reOf a * reOf b - ai * imOf b, reOf a * imOf b + ai * reOf b)

def complexOp (g : Cfg) (a b : W32) : W32 :=
  let one (x : Int) : Int := if g.sat then sat16 x else x
  if g.op = 0x40 then packC (one (reOf a + reOf b)) (one (imOf a + imOf b))
  else if g.op = 0x41 then packC (one (reOf a - reOf b)) (one (imOf a - imOf b))
  else if g.op = 0x42 then
    (let p := cProd g a b
     packC (sat16 (cScale g p.1)) (sat16 (cScale g p.2)))
  else if g.op = 0x44 then packC (reOf a) (sat16 (-imOf a))
  else if g.op = 0x45 then
    BitVec.ofInt 32 (clampInt (cScale g (reOf a * reOf a + imOf a * imOf a)) (-2147483648) 2147483647)
  else
    (let k := reOf b
     packC (sat16 (cScale g (reOf a * k))) (sat16 (cScale g (imOf a * k))))

/-! ## Bits and decoding (R297 to R302) -/

/-- ROTZ on the wide value of a gang (R297). -/
def rotz (g : Cfg) (width a s : Nat) : Nat :=
  let u := if g.sub = 0 then 1 else if g.sub = 1 then 16 else 8
  let z := g.opt 0 % 512
  joinSubs u ((List.range (width / u)).map fun i =>
    if i < z then subNat a u ((i + s) % z) else 0)

/-- PERM (R298). -/
def permWord (g : Cfg) (a b : W32) : W32 :=
  if g.variant = 0 then
    let t := joinSubs 16 ((List.range 16).map g.opt)
    BitVec.ofNat 32 (joinSubs 1 ((List.range 32).map fun i => bitsOf a.toNat (bitsOf t (5 * i) 5) 1))
  else
    let v := b.toNat * 2 ^ 32 + a.toNat
    BitVec.ofNat 32 (joinSubs 8 ((List.range 4).map fun k =>
      let e := bitsOf (g.opt 0) (4 * k) 4
      if 8 ≤ e then 0 else subNat v 8 e))

/-- Two least magnitudes of a lane, the index of the least, and the xor of the signs. -/
def minsScan : List (Nat × Bool) → Nat → Nat × Nat × Nat × Bool → Nat × Nat × Nat × Bool
  | [], _, acc => acc
  | (m, n) :: xs, j, (m1, m2, idx, p) =>
    minsScan xs (j + 1) (if m < m1 then (m, m1, j, p != n) else (m1, min m2 m, idx, p != n))

/-- The outputs of MINS for one group (R299). A single input has no other magnitude: `alone` stands for it, a free
value (DESIGN CHOICE, log 23). -/
def minsOut (g : Cfg) (alone : Nat) (xs : List W32) : List W32 :=
  let w := subWidth g.sub
  let top := 2 ^ (w - 1) - 1
  let lane (k : Nat) : List Nat :=
    let ys := xs.map fun x =>
      let s := signedOf (subNat x.toNat w k) w
      (min s.natAbs top, decide (s < 0))
    let r := minsScan ys 0 (2 ^ w, 0, 0, false)
    let beta := subNat g.k0.toNat w k
    ys.zipIdx.map fun e =>
      let m2 := if xs.length = 1 then alone % 2 ^ (w - 1) else r.2.1
      let m := (if e.2 = r.2.2.1 then m2 else r.1) - beta
      modPow (if r.2.2.2 != e.1.2 then -(m : Int) else m) w
  (List.range xs.length).map fun j =>
    BitVec.ofNat 32 (joinSubs w ((List.range (32 / w)).map fun k => (lane k).getD j 0))

/-- LLRS: sums and hard decisions (R300). -/
def llrsWord (g : Cfg) (a b : W32) : W32 × W32 :=
  let w := subWidth g.sub
  let m : Int := (2 ^ (w - 1) : Nat) - 1
  let rs := (List.range (32 / w)).map fun k =>
    let x := signedOf (subNat a.toNat w k) w
    let y := signedOf (subNat b.toNat w k) w
    clampInt (if g.variant = 0 then x + y else x - y) (-m) m
  (BitVec.ofNat 32 (joinSubs w (rs.map fun r => modPow r w)),
   BitVec.ofNat 32 (joinSubs 1 (rs.map fun r => if r < 0 then 1 else 0)))

def parity (x : W32) : W32 := BitVec.ofNat 32 ((List.range 32).foldl (fun n i => (n + bitsOf x.toNat i 1) % 2) 0)

/-- XORR's value (R301). -/
def xorrOut (g : Cfg) (x : W32) : W32 := if g.variant = 1 then parity x else x

/-- One data bit of CRCS (R302). -/
def crcBit (n p s d : Nat) : Nat :=
  let fb := bitsOf s (n - 1) 1 ^^^ d
  let s := s * 2 % 2 ^ n
  if fb = 1 then s ^^^ p else s

def crcWord (g : Cfg) (s : W32) (a : W32) : W32 :=
  let n := g.opt 0 % 64
  let bits := subWidth g.sub
  BitVec.ofNat 32 (((List.range bits).reverse.map fun i => bitsOf a.toNat i 1).foldl
    (crcBit n (g.k0.toNat % 2 ^ n)) s.toNat)

def crcInit (g : Cfg) : W32 := BitVec.ofNat 32 (g.k1.toNat % 2 ^ (g.opt 0 % 64))

/-! ## The generator (R308) -/

def mix (x : Word) : Word :=
  let z := x + 0x9E3779B97F4A7C15
  let z := (z ^^^ z >>> 30) * 0xBF58476D1CE4E5B9
  let z := (z ^^^ z >>> 27) * 0x94D049BB133111EB
  z ^^^ z >>> 31

/-- z for a key, a stream and a counter. -/
def rngWord (seed0 seed1 : Word) (s c : W32) : Word := mix (mix ((s ++ c) ^^^ seed0) ^^^ seed1)

/-- The F32 value z[63:40] * 2^-24. -/
def rngFloat (z : Word) : W32 := BitVec.ofNat 32 (roundFin f32 0 false (z.toNat / 2 ^ 40) (-24))

/-! ## What a firing keeps, and pending updates (R28, R130, R279, R287) -/

def EReg.readAs (r : EReg) (g : BitVec 12) : W32 := if r.tag = g then r.val else 0

/-- Why a state register gives no value to a reader: poison under its own generation (R462), another generation under
STRICT (R129, R130; the cause is that of R403's readers, DEDUCED, log 112). -/
def EReg.cause (r : EReg) (g : BitVec 12) (strict : Bool) : Option Nat :=
  if r.tag = g then (if r.poison then some 0x25 else none) else if strict then some 0x24 else none

/-- A state register written under its member's generation (R130). Which firings write OWN: DEDUCED, log 56. -/
def EReg.set (w : W32) (g : BitVec 12) : EReg := { val := w, tag := g, poison := false }

/-- A state register with a value that is computed from what it held: poison under its own generation stays (R399,
R462). -/
def EReg.step (r : EReg) (w : W32) (g : BitVec 12) : EReg := { val := w, tag := g, poison := r.tag = g && r.poison }

/-- CTR after a firing that read it (R279). -/
def Priv.stepCtr (p : Priv) (g : Cfg) (gen : BitVec 12) : Priv :=
  if g.reads.any fun i => g.kind i = 8 then
    let m : Nat := if g.cntA = 0 then 2 ^ 32 else g.cntA
    let n : Int := (((p.ctr.readAs gen).toNat : Int) + g.cntB) % (m : Int)
    { p with ctr := p.ctr.step (BitVec.ofNat 32 n.toNat) gen }
  else p

/-- The accumulator after a block addition: a drain is due when COUNT has come to KLEN (R103). -/
def Priv.added (p : Priv) (x : BitVec 2) (xa : Xa) : Priv :=
  { p with xa, due := if xa.klen ≠ 0 && xa.count = xa.klen.setWidth 32 then some x else none }

/-- The sums that an END closes (R296, R299, R301, R302). -/
def OpState.closed (o : OpState) (op : Nat) : OpState :=
  if op = opCmac then { o with sumR := 0, sumI := 0 }
  else if op = opMins then { o with group := [] }
  else if op = opXorr then { o with x := 0, xCount := 0 }
  else if op = opCrcs then { o with live := false, crc := 0 }
  else o

/-- New operation state, with the sums of another: sums can stand pending, the rest changes at once. -/
def OpState.withSums (o base : OpState) : OpState :=
  { o with sumR := base.sumR, sumI := base.sumI, x := base.x, xCount := base.xCount, crc := base.crc, live := base.live,
           group := base.group }

/-- The sums after a pending firing. -/
def OpState.add (o : OpState) (g : Cfg) (u : Upd) : OpState :=
  if g.op = opCmac then
    let r := cProd g u.a u.b
    { o with sumR := o.sumR + BitVec.ofInt 64 r.1, sumI := o.sumI + BitVec.ofInt 64 r.2 }
  else if g.op = opMins then
    let ts := o.group ++ [{ kind := .data, ctx := BitVec.ofNat 2 u.slot, tag := u.tag, side := u.sa, pay := u.a }]
    { o with group := if ts.length = g.cntA then [] else ts }
  else if g.op = opXorr then
    let n := o.xCount + 1
    if g.cntA ≠ 0 && n = g.cntA then { o with x := 0, xCount := 0 } else { o with x := o.x ^^^ u.a, xCount := n }
  else if g.op = opCrcs then { o with crc := crcWord g (if o.live then o.crc else crcInit g) u.a, live := true }
  else o

/-- A pending update with zero data. -/
def Upd.zeroed (u : Upd) : Upd := { u with own := u.own.map fun _ => 0, a := 0, b := 0, sa := 0, sb := 0 }

/-- A pending update as a reader under g has it (R129, R130). -/
def Upd.seenBy (u : Upd) (g : BitVec 12) : Upd := if u.gen = g then u else u.zeroed

/-- A pending update made permanent (R28, R401). Under STRICT one of another generation is not read (R129, R130). -/
def Priv.apply (p : Priv) (g : Cfg) (gen : BitVec 12) (u : Upd) : Priv :=
  if u.strict && u.gen ≠ gen then p
  else
  let u := u.seenBy gen
  let own (p : Priv) : Priv := match u.own with | some w => { p with own := EReg.set w gen } | none => p
  match u.kind with
  | .drain => { p with xa := p.xa.drained, due := none }
  | .tileEnd => own { p with ctr := EReg.set 0 gen, op := p.op.closed g.op }
  | .fire =>
    if u.err then (if g.drains then { p with xa := p.xa.addPoison gen } else p)
    else
      let x := BitVec.ofNat 2 u.slot
      let mx := if 8 ≤ g.variant then some (u.sa.toNat, u.sb.toNat) else none
      let p :=
        if g.op = opMma then
          p.added x (blockAdd p.xa (mmaPairs (g.variant % 8) u.a u.b) mx gen g.f26 g.f27)
        else if g.op = opXacc then p.added x (blockAdd p.xa (xaccPairs g.variant u.a) none gen g.f26 g.f27)
        else if g.op = opPivg then
          { p with ctr := p.ctr.step (p.ctr.readAs gen + BitVec.ofNat 32 (pivgWord g u.a).2) gen }
        else { p with op := p.op.add g u }
      if u.reads then (own p).stepCtr g gen else own p

/-- The state that the next firing starts from: every pending update made (R28). -/
def Elem.latest (v : Elem) (cfg : Nat → Cfg) (gen : BitVec 12) : Priv :=
  v.pend.foldl (fun p u => p.apply (cfg u.slot) gen u) v.priv

/-- Pending updates at the front that wait for no decision. -/
def Elem.settlePend (v : Elem) (cfg : Nat → Cfg) (gen : BitVec 12) : Elem :=
  let due := v.pend.takeWhile fun u => !u.waits
  { v with priv := due.foldl (fun p u => p.apply (cfg u.slot) gen u) v.priv, pend := v.pend.drop due.length }

/-- The oldest pending iteration made permanent (R28, R287). -/
def Elem.commit (v : Elem) (cfg : Nat → Cfg) (gen : BitVec 12) : Elem :=
  match v.pend with
  | [] => v
  | u :: _ =>
    let due := v.pend.takeWhile fun w => w.tag = u.tag && w.waits
    ({ v with priv := due.foldl (fun p u => p.apply (cfg u.slot) gen u) v.priv,
              pend := v.pend.drop due.length } : Elem).settlePend cfg gen

/-- Every pending update made permanent: a DET round closes (R41). -/
def Elem.commitAll (v : Elem) (cfg : Nat → Cfg) (gen : BitVec 12) : Elem :=
  { v with priv := v.latest cfg gen, pend := [] }

/-- The pending updates of a tag discarded (R28, R63). -/
def Elem.discard (v : Elem) (cfg : Nat → Cfg) (gen : BitVec 12) (tag : BitVec 6) : Elem :=
  ({ v with pend := v.pend.filter fun u => u.tag ≠ tag || !u.waits } : Elem).settlePend cfg gen

/-- An update behind the pending ones; one that waits for nothing is made at once when none is before it. -/
def Elem.push (v : Elem) (cfg : Nat → Cfg) (gen : BitVec 12) (u : Upd) : Elem :=
  if v.pend.isEmpty && !u.waits then { v with priv := v.priv.apply (cfg u.slot) gen u }
  else { v with pend := v.pend ++ [u] }

end Sys2Proof.Machine
end

