-- ==== Sys2Proof/Machine/ElemOps.lean ====
section
/-! DEFINITION. How an element fires: operands and their matching (R61, R279), ERROR operands (R401), pending
updates (R28, R287), gangs (R54), and the firing rule of every operation (R280 to R308). -/

namespace Sys2Proof.Machine

/-! ## What a firing sees -/

/-- An element about to fire under a slot. -/
structure View where
  c : Nat
  e : Nat
  slot : Nat
  pos : Nat
  g : Cfg
  gen : BitVec 12
  strict : Bool
  seed0 : Word
  seed1 : Word
  acts : Nat
  priv : Priv
  pool : BitVec 64
  dete : Bool
  ecc : Bool
  isCur : Bool
  seg : Nat → List Token        -- the tokens of the slot's context at an input, up to those it may not overtake
  tok : Nat → Option Token      -- the matched operand at an input
  bc : Option (W32 × Option Token) -- an A operand broadcast by another member: its value, and its token if it is one
  lead : Option Token           -- the leader's A operand
  ganged : Bool                 -- the element is one of several members of a gang

/-- What a firing does. -/
structure Fired where
  take : List (Nat × Token) := []
  outs : List OutTok := []
  priv : Priv
  pulses : List Nat := []
  pool : Option (BitVec 64) := none
  records : List (Nat × Nat) := []     -- cause and INFO
  bare : Bool := false                 -- no update of R28: a step that is no firing on operands
  err : Bool := false                  -- it took an ERROR (R401)
  reads : Bool := !bare                -- it reads its operands, CTR among them (R279)

/-- The tokens of a slot's context that an input may serve now: in order, never past an older token of the same
lane (R24, R27). -/
def segOf (q : Core) (e slot i src : Nat) : List Token → List Token
  | [] => []
  | t :: ts =>
    if t.ctx.toNat = slot then t :: segOf q e slot i src ts
    else if (q.cfg t.ctx.toNat e).source i = src then []
    else segOf q e slot i src ts

/-- Operations that match in arrival order whatever TMODE says (R279). -/
def forwardingOp (op : Nat) : Bool := op ≤ 0x0D && op ≠ 0x08

/-- The inputs whose tokens one firing takes together with those of input i: the two sides of a REQ fire apart (R307). -/
def Cfg.together (g : Cfg) (i : Nat) : List Nat :=
  if g.op = opReq then g.tokInputs.filter fun j => (j = 1) = (i = 1) else g.tokInputs

/-- Matching (R61): the operand of each input, a kept one where KEEP holds one. -/
def matchToks (g : Cfg) (slot : Nat) (dete : Bool) (kept : SMap Token) (seg : Nat → List Token) :
    Nat → Option Token := fun i =>
  if !g.tokInputs.contains i then none
  else if g.keep i then
    match kept.look i with
    | some t => if t.ctx.toNat = slot then some t else (seg i).find? Token.isData
    | none => (seg i).find? Token.isData
  else if g.tmode = 1 && !forwardingOp g.op then
    let ins := (g.together i).filter fun j => !g.keep j
    let cand := (seg (ins.headD 0)).takeWhile Token.isData
    let cand := if dete then cand.take 1 else cand
    match cand.find? fun t => ins.all fun j => ((seg j).takeWhile Token.isData).any fun u => u.tag = t.tag with
    | some t => ((seg i).takeWhile Token.isData).find? fun u => u.tag = t.tag
    | none => none
  else match (seg i).head? with
    | some t => if t.isData then some t else none
    | none => none

/-- The token that an input gives a firing: a broadcast A in place of the member's own (R54). -/
def View.opd (v : View) (i : Nat) : Option Token :=
  match (if i = 0 then v.bc else none) with
  | some b => b.2
  | none => v.tok i

/-- The value of an input (R279). -/
def View.val (v : View) (i : Nat) : W32 :=
  match (if i = 0 then v.bc else none) with
  | some b => b.1
  | none =>
    let k := v.g.kind i
    if k = 5 then v.g.k0
    else if k = 6 then v.g.k1
    else if k = 7 then v.priv.own.readAs v.gen
    else if k = 8 then v.priv.ctr.readAs v.gen
    else if k = 9 then (match v.opd 0 with | some t => t.side.setWidth 32 | none => 0)
    else match v.tok i with
      | some t => t.pay
      | none => 0

def View.x (v : View) : BitVec 2 := BitVec.ofNat 2 v.slot

/-- The inputs that lanes feed, and a broadcast A. -/
def View.ins (v : View) : List Nat :=
  (List.range 3).filter fun i => v.g.tokInputs.contains i || (i = 0 && v.bc.isSome)

/-- Is an operand there: a token, a broadcast one, or a value that takes no buffer space (R61)? -/
def View.present (v : View) (i : Nat) : Bool :=
  (i = 0 && v.bc.isSome) || (v.tok i).isSome || (v.g.reads.contains i && !v.g.isTok i)

/-- Every operand is present. -/
def View.ready (v : View) : Bool := v.ins.all v.present

/-- The tokens a firing takes: a broadcast A is taken by its own member only. -/
def View.takes (v : View) (ins : List Nat) : List (Nat × Token) :=
  ins.filterMap fun i => if i = 0 && v.bc.isSome then none else (v.tok i).map fun t => (i, t)

/-- Why an operand that a register gives has no value (R129, R462); place 3 stands for the CTR that PIVG counts in
(R295). -/
def View.badReg (v : View) (i : Nat) : Option Nat :=
  if i = 3 then (if v.g.op = opPivg then v.priv.ctr.cause v.gen v.strict else none)
  else if !v.g.reads.contains i || (i = 0 && v.bc.isSome) then none
  else if v.g.kind i = 7 then v.priv.own.cause v.gen v.strict
  else if v.g.kind i = 8 then v.priv.ctr.cause v.gen v.strict
  else none

/-- The ERROR that an input holds, or that the element makes for a register without a value (R401, R462). -/
def View.errAt (v : View) (i : Nat) : Option Token :=
  match (if i = 3 then none else v.opd i) with
  | some t => if t.kind = .error then some t else none
  | none =>
    (v.badReg i).map fun cause =>
      { kind := .error, tag := ((v.opd 0).map (·.tag)).getD 0, side := ((v.opd 0).map (·.side)).getD 0,
        pay := errorPay cause v.pos v.c }

/-- The ERROR operand of the lowest input (R401). -/
def View.err (v : View) (ins : List Nat) : Option Token :=
  ((List.range 4).filter fun i => ins.contains i || (v.badReg i).isSome).findSome? v.errAt

/-- The tag under which a firing takes its operands: the leader's A in a gang (R54), the common tag of the inputs that
match by tag, else the tag of A (R61). -/
def View.tagIn (v : View) : BitVec 6 :=
  let first (is : List Nat) : BitVec 6 := (((is.filterMap v.opd).head?).map (·.tag)).getD 0
  if v.g.tmode = 1 && !v.ganged then first ((v.ins.filter fun i => !v.g.keep i) ++ v.ins)
  else match v.lead with
    | some t => t.tag
    | none => if v.g.tmode = 1 then first v.ins else 0

/-- TAG and SIDE of a computed result (R61, R64). (DEDUCED, log 44.) -/
def View.tagOut (v : View) : BitVec 6 := if v.g.tmode = 2 then v.g.tagK else v.tagIn

def View.sideOut (v : View) (own : Option (BitVec 8)) : BitVec 8 :=
  let of (t : Option Token) : BitVec 8 := match t with | some t => t.side | none => Config.sideOfNoToken v.acts
  if v.g.ssrc = 0 then of (v.opd 0)
  else if v.g.ssrc = 1 then of (v.opd 1)
  else if v.g.ssrc = 2 then v.g.sideK
  else own.getD 0

/-- A computed token; under a configuration word in error it is an ERROR (R462). -/
def View.result (v : View) (pay : W32) (own : Option (BitVec 8)) : Token :=
  if v.ecc then { kind := .error, ctx := v.x, tag := v.tagOut, side := v.sideOut own, pay := errorPay 0x85 v.pos v.c }
  else { kind := .data, ctx := v.x, tag := v.tagOut, side := v.sideOut own, pay }

/-- A token sent on with its PAYLOAD and SIDE; in a gang it takes the tag of the leader's A operand (R54, R279). -/
def View.forward (v : View) (t : Token) : Token :=
  { t with ctx := v.x, tag := if v.ganged then (v.lead.map (·.tag)).getD t.tag else t.tag }

/-- An operand as a token: one that comes from a constant is a computed token. -/
def View.asTok (v : View) (i : Nat) : Token :=
  match v.errAt i, v.opd i with
  | some t, _ => t
  | none, some t => t
  | none, none => v.result (v.val i) none

def outTo (lanes : List Nat) (t : Token) : List OutTok := if lanes.isEmpty then [] else [{ lanes, tok := t }]

/-- A firing that took an ERROR: one copy on every lane, no state changed (R401). (DEDUCED, log 52.) -/
def View.errFire (v : View) (ins lanes : List Nat) (t : Token) : Fired :=
  { take := v.takes ins, outs := outTo lanes (v.forward t), priv := v.priv, err := true }

def View.both (v : View) : List Nat := mergeLanes v.g.prim v.g.sec

/-! ## Computed results -/

/-- What one member computes: result, the operation's own SIDE, a secondary result. -/
abbrev Res := W32 × Option (BitVec 8) × Option W32

def View.compFire (v : View) (second : Bool) (r : Res) : Fired :=
  { take := v.takes v.ins
    outs := outTo v.g.prim (v.result r.1 r.2.1)
      ++ (match r.2.2 with
          | some w => if second then outTo v.g.sec (v.result w r.2.1) else []
          | none => [])
    priv := { v.priv with own := EReg.set r.1 v.gen } }

/-- Members of a gang fire as one on computed results; an ERROR at any member stands for the whole firing (R54,
R401). -/
def compGang (second : Bool) (f : List View → List Res) (vs : List View) : Option (List Fired) :=
  if vs.all View.ready then
    match vs.findSome? fun v => v.err v.ins with
    | some t => some (vs.map fun v => v.errFire v.ins (if second then v.both else v.g.prim) t)
    | none => some ((vs.zip (f vs)).map fun p => p.1.compFire second p.2)
  else none

def comp (f : View → Res) (vs : List View) : Option (List Fired) := compGang false (fun l => l.map f) vs

/-- The members of a gang in runs that its gang links join for an operation (R54, R290). -/
def linkRuns (op : Nat) : List View → List (List View)
  | [] => []
  | v :: vs =>
    match vs, linkRuns op vs with
    | w :: _, run :: runs => if gangLinked op v.g w.g then (v :: run) :: runs else [v] :: run :: runs
    | _, _ => [[v]]

def each (f : View → Option Fired) (vs : List View) : Option (List Fired) := vs.mapM f

/-- The wide value of a gang's input, member 0 lowest (R54). -/
def wideVal (vs : List View) (i : Nat) : Nat := joinSubs 32 (vs.map fun v => (v.val i).toNat)

def splitWide (n x : Nat) : List W32 := (List.range n).map fun k => BitVec.ofNat 32 (subNat x 32 k)

/-- The integer operations (R289, R290). -/
def fireInt (vs : List View) : Option (List Fired) :=
  compGang false (fun vs =>
    match vs with
    | [] => []
    | v :: _ =>
      if vs.length > 1 && gangWide v.g.op v.g.sub then
        (linkRuns v.g.op vs).flatMap fun ws =>
          let b := if 0x17 ≤ v.g.op then (v.val 1).toNat else wideVal ws 1
          let r := intSub v.g.op v.g.variant (32 * ws.length) v.g.sat (wideVal ws 0) b 0
          (splitWide ws.length r).map fun w => (w, none, none)
      else vs.map fun v => (intWord v.g.op v.g.variant v.g.sub v.g.sat (v.val 0) (v.val 1) (v.val 2), none, none)) vs

def fireF32 (vs : List View) : Option (List Fired) :=
  comp (fun v => (f32Op v.g.op v.g.variant v.g.fctl (v.val 0) (v.val 1) (v.val 2), none, none)) vs

def fireFix (vs : List View) : Option (List Fired) :=
  comp (fun v =>
    let r := fixWord v.g (v.val 0) (v.val 1) ((v.opd 2).map fun t => (t.pay, t.side))
    (r.1, some r.2, none)) vs

def fireComplex (vs : List View) : Option (List Fired) :=
  comp (fun v => (complexOp v.g (v.val 0) (v.val 1), none, none)) vs

/-- PIVG: SIDE is its own whatever F17 holds, and CTR counts (R295). -/
def firePivg (vs : List View) : Option (List Fired) :=
  each (fun v =>
    if !v.ready then none
    else match v.err v.ins with
      | some t => some (v.errFire v.ins v.g.prim t)
      | none =>
        let r := pivgWord v.g (v.val 0)
        let a := ((v.opd 0).map (·.side)).getD (Config.sideOfNoToken v.acts)
        let side := BitVec.ofNat 8 (a.toNat % 128 + if r.2 = 0 then 0 else 128)
        let p : Priv := { v.priv with
          own := EReg.set r.1 v.gen,
          ctr := v.priv.ctr.step (v.priv.ctr.readAs v.gen + BitVec.ofNat 32 r.2) v.gen }
        some { take := v.takes v.ins, outs := outTo v.g.prim { v.result r.1 none with side }, priv := p }) vs

/-- An optional operand B (R278). Where it is not configured and the operation takes it, the spec states no value
(DESIGN CHOICE, log 126: a free one). -/
def View.optB (v : View) : W32 := if v.g.kind 1 = 0 then Config.absentOperand v.acts else v.val 1

def fireRotz (vs : List View) : Option (List Fired) :=
  compGang false (fun vs =>
    match vs with
    | [] => []
    | v :: _ =>
      let z := v.g.opt 0 % 512
      let s := (if v.g.variant % 2 = 1 then v.g.k0.toNat else v.optB.toNat) % z
      (splitWide vs.length (rotz v.g (32 * vs.length) (wideVal vs 0) s)).map fun w => (w, none, none)) vs

def firePerm (vs : List View) : Option (List Fired) := comp (fun v => (permWord v.g (v.val 0) v.optB, none, none)) vs

def fireLlrs (vs : List View) : Option (List Fired) :=
  compGang true (fun vs => vs.map fun v => let r := llrsWord v.g (v.val 0) (v.val 1); (r.1, none, some r.2)) vs

def fireRng (vs : List View) : Option (List Fired) :=
  compGang (vs.all fun v => v.g.variant ≠ 1) (fun vs => vs.map fun v =>
    let z := rngWord v.seed0 v.seed1 v.g.k0 (v.val 0)
    if v.g.variant = 1 then (rngFloat z, none, none)
    else (z.setWidth 32, none, some (z.extractLsb' 32 32))) vs

/-- An operation that keeps a value and emits nothing for most of its tokens; an ERROR goes on F4. -/
def fireKeep (f : View → Fired) (lanes : View → List Nat) (vs : List View) : Option (List Fired) :=
  each (fun v =>
    if !v.ready then none
    else match v.err v.ins with
      | some t => some (v.errFire v.ins (lanes v) t)
      | none => some (f v)) vs

def View.withOp (v : View) (f : OpState → OpState) : Priv := { v.priv with op := f v.priv.op }

/-- CMAC: two exact sums (R296). -/
def fireCmac (vs : List View) : Option (List Fired) :=
  fireKeep (fun v =>
    let r := cProd v.g (v.val 0) (v.val 1)
    { take := v.takes v.ins,
      priv := v.withOp fun o => { o with sumR := o.sumR + BitVec.ofInt 64 r.1, sumI := o.sumI + BitVec.ofInt 64 r.2 } })
    (fun v => v.g.prim) vs

/-- The messages of a closed group, each with the TAG and SIDE of its input (R299). -/
def View.minsOuts (v : View) (ts : List Token) : List OutTok :=
  ((minsOut v.g (Config.minsAlone v.acts) (ts.map (·.pay))).zip ts).flatMap fun p =>
    let w : View := { v with
      tok := fun i => if i = 0 then some p.2 else v.tok i
      bc := none
      lead := if v.ganged then v.lead else some p.2 }
    outTo v.g.prim (w.result p.1 none)

def lastOwn (v : View) (outs : List OutTok) (p : Priv) : Priv :=
  match outs.getLast? with
  | some o => { p with own := EReg.set o.tok.pay v.gen }
  | none => p

/-- The member of a group that a firing takes. -/
def View.minsIn (v : View) : Token :=
  match v.opd 0 with
  | some t => t
  | none => { ctx := v.x, tag := v.tagOut, side := v.sideOut none, pay := v.val 0 }

def fireMins (vs : List View) : Option (List Fired) :=
  fireKeep (fun v =>
    let ts := v.priv.op.group ++ [v.minsIn]
    if ts.length = v.g.cntA then
      let outs := v.minsOuts ts
      { take := v.takes v.ins, outs, priv := lastOwn v outs (v.withOp fun o => { o with group := [] }) }
    else { take := v.takes v.ins, priv := v.withOp fun o => { o with group := ts } })
    (fun v => v.g.prim) vs

def fireXorr (vs : List View) : Option (List Fired) :=
  fireKeep (fun v =>
    let x := v.priv.op.x ^^^ v.val 0
    let n := v.priv.op.xCount + 1
    if v.g.cntA ≠ 0 && n = v.g.cntA then
      let r := xorrOut v.g x
      let p := v.withOp fun o => { o with x := 0, xCount := 0 }
      { take := v.takes v.ins, outs := outTo v.g.prim (v.result r none),
        priv := { p with own := EReg.set r v.gen } }
    else { take := v.takes v.ins, priv := v.withOp fun o => { o with x, xCount := n } })
    (fun v => v.g.prim) vs

def fireCrcs (vs : List View) : Option (List Fired) :=
  fireKeep (fun v =>
    let s := if v.priv.op.live then v.priv.op.crc else crcInit v.g
    { take := v.takes v.ins,
      outs := (v.opd 0).toList.flatMap fun t => outTo v.g.sec (v.forward t),
      priv := v.withOp fun o => { o with crc := crcWord v.g s (v.val 0), live := true } })
    (fun v => v.g.sec) vs

/-! ## Matrix operations (R303 to R306) -/

def View.sideAt (v : View) (i : Nat) : Nat :=
  (match v.opd i with | some t => t.side | none => Config.sideOfNoToken v.acts).toNat

def View.withXa (v : View) (x : Xa) : Priv := { v.priv with xa := x }

def fireMma (vs : List View) : Option (List Fired) :=
  each (fun v =>
    if !v.ready then none
    else match v.err v.ins with
      | some t => some { v.errFire v.ins v.both t with priv := v.withXa (v.priv.xa.addPoison v.gen) }
      | none =>
        let mx := if 8 ≤ v.g.variant then some (v.sideAt 0, v.sideAt 1) else none
        let xa := blockAdd v.priv.xa (mmaPairs (v.g.variant % 8) (v.val 0) (v.val 1)) mx v.gen v.g.f26 v.g.f27
        some { take := v.takes v.ins
               outs := ((v.opd 0).toList.flatMap fun t => outTo v.g.prim (v.forward t))
                 ++ (v.opd 1).toList.flatMap fun t => outTo v.g.sec (v.forward t)
               priv := { v.priv.added v.x xa with own := EReg.set (v.val 0) v.gen } }) vs

def fireXacc (vs : List View) : Option (List Fired) :=
  each (fun v =>
    if !v.ready then none
    else match v.err v.ins with
      | some t => some { v.errFire v.ins v.g.prim t with priv := v.withXa (v.priv.xa.addPoison v.gen) }
      | none =>
        let xa := blockAdd v.priv.xa (xaccPairs v.g.variant (v.val 0)) none v.gen v.g.f26 v.g.f27
        some { take := v.takes v.ins
               outs := (v.opd 0).toList.flatMap fun t => outTo v.g.prim (v.forward t)
               priv := { v.priv.added v.x xa with own := EReg.set (v.val 0) v.gen } }) vs

/-! ## Dataflow and control -/

/-- A plain forwarding step on one input. -/
def View.send (v : View) (ins lanes : List Nat) (t : Token) : Fired :=
  { take := v.takes ins, outs := outTo lanes (v.forward t), priv := v.priv, err := t.kind = .error }

/-- bit 0 of an operand. -/
def View.bit (v : View) (i : Nat) : Bool := (v.val i).getLsbD 0

def View.aTok (v : View) : Token := v.asTok 0

def firePass (vs : List View) : Option (List Fired) :=
  each (fun v => if v.present 0 then some (v.send [0] v.both v.aTok) else none) vs

def fireFilt (vs : List View) : Option (List Fired) :=
  each (fun v =>
    if !v.ready then none
    else match v.err v.ins with
      | some t => some (v.errFire v.ins (if v.g.variant = 1 then v.both else v.g.prim) t)
      | none =>
        some (v.send v.ins (if v.bit 1 then v.g.prim else if v.g.variant = 1 then v.g.sec else []) v.aTok)) vs

/-- EXPD: B decides whether A is taken (R280). -/
def fireExpd (vs : List View) : Option (List Fired) :=
  each (fun v =>
    if !v.present 1 then none
    else match v.errAt 1 with
      | some t => some (v.errFire [1] v.g.prim t)
      | none =>
        if v.bit 1 then (if v.present 0 then some (v.send [0, 1] v.g.prim v.aTok) else none)
        else
          let w : View := { v with
            tok := fun i => if i = 0 then none else v.tok i
            bc := none
            lead := if v.ganged then v.lead else none }
          let r := w.result v.g.k0 none
          some { take := v.takes [1], priv := v.priv, reads := v.g.kind 1 = 8
                 outs := outTo v.g.prim (match v.opd 1 with
                   | some t => if v.ganged then r else { r with tag := if v.g.tmode = 2 then v.g.tagK else t.tag }
                   | none => r) }) vs

/-- REP: the copies of one token leave one per firing, under its context; an ERROR on A is copied as DATA is (R280,
R401). -/
def fireRep (vs : List View) : Option (List Fired) :=
  each (fun v =>
    let o := v.priv.op
    match o.repTok with
    | some t =>
      if t.ctx ≠ v.x then none
      else some { outs := outTo v.g.prim (v.forward t), bare := true,
                  priv := { v.priv with op := { o with
                    rep := o.rep - 1, repTok := if o.rep > 1 then some t else none } } }
    | none =>
      if !v.ready || !v.present 0 then none
      else
        let t := v.aTok
        match v.errAt 1 with
        | some u => some (v.errFire v.ins v.g.prim (if t.kind = .error then t else u))
        | none =>
          let n := if v.g.kind 1 = 0 then v.g.cntA else (v.val 1).toNat
          some { take := v.takes v.ins, outs := if n = 0 then [] else outTo v.g.prim (v.forward t),
                 err := t.kind = .error,
                 priv := { v.priv with op := { o with
                   rep := n - 1, repTok := if n > 1 then some t else none } } }) vs

def fireGate (vs : List View) : Option (List Fired) :=
  each (fun v =>
    if (v.g.env && v.priv.op.grants = 0) || !v.present 0 then none
    else
      some { v.send [0] v.g.prim v.aTok with
        priv := if v.g.env then { v.priv with op := { v.priv.op with grants := v.priv.op.grants - 1 } } else v.priv }) vs

/-- JOIN: an ERROR on A alone is forwarded as DATA would be (R401; DEDUCED, log 24). -/
def fireJoin (vs : List View) : Option (List Fired) :=
  each (fun v =>
    if !v.ready then none
    else match [1, 2].findSome? v.errAt with
      | some t => some (v.errFire v.ins v.both ((v.err v.ins).getD t))
      | none =>
        some { take := v.takes v.ins
               outs := outTo v.g.prim (v.forward v.aTok) ++ outTo v.g.sec (v.forward (v.asTok 1))
               priv := v.priv, err := v.aTok.kind = .error }) vs

/-- The END that CONST and CNT write after a run, with its tile number (R59, R280, R286). (DEDUCED, log 50.) -/
def View.runEnd (v : View) : List OutTok :=
  if v.g.variant = 1 then
    outTo v.g.prim { kind := .endTile, ctx := v.x, pay := BitVec.ofNat 32 v.priv.op.endNo }
  else []

def OpState.endRun (o : OpState) (ends : Bool) : OpState :=
  { o with run := none, runFrom := none, enabled := [], doneCnt := [], endNo := if ends then o.endNo + 1 else o.endNo }

/-- The token that started the run under way, as far as its results take from it: its TAG and SIDE (R279). -/
def View.origin (v : View) : Option Token :=
  match v.priv.op.run, v.priv.op.runFrom with
  | some (x, _), some p => if x = v.x then some { ctx := v.x, tag := p.1, side := p.2 } else none
  | _, _ => none

/-- A computed token of a source operation. -/
def View.sourceTok (v : View) (pay : W32) : Token :=
  ({ v with tok := fun i => if i = 0 then v.origin else none, bc := none, lead := if v.ganged then v.lead else v.origin } : View).result pay none

/-- The state in which the next run of a slot begins: one that the swap cycle started, or, under the CURRENT slot, one
that an enable pulse asks for (R77, R280, R286). -/
def View.nextRun (v : View) : Option OpState :=
  let o := v.priv.op
  if o.swapDue.contains v.x then some { o with swapDue := o.swapDue.erase v.x, run := some (v.x, 0), runFrom := none }
  else if o.runsDue.isEmpty || !v.isCur then none
  else some { o with runsDue := o.runsDue.drop 1, run := some (v.x, 0), runFrom := none }

/-- CONST (R280). -/
def fireConst (vs : List View) : Option (List Fired) :=
  each (fun v =>
    let o := v.priv.op
    if !v.g.env && v.g.cntA = 0 then
      (if v.isCur then some { outs := outTo v.g.prim (v.sourceTok v.g.k0), priv := v.priv, bare := true } else none)
    else
      match o.run with
      | none => v.nextRun.map fun o => { priv := { v.priv with op := o }, bare := true }
      | some (x, n) =>
        if x ≠ v.x then none
        else
          let last := n + 1 ≥ max v.g.cntA 1
          some { outs := outTo v.g.prim (v.sourceTok v.g.k0) ++ (if last then v.runEnd else []), bare := true,
                 priv := { v.priv with op := if last then o.endRun (v.g.variant = 1) else { o with run := some (x, n + 1) } } }) vs

/-! ### CNT (R30, R31, R286) -/

def cntValue (g : Cfg) (i : Nat) : W32 := g.k0 + BitVec.ofInt 32 ((i : Int) * g.cntB)

/-- Has child c finished iteration i? -/
def OpState.childDone (o : OpState) (c i : Nat) : Bool := o.doneCnt.getD c 0 > i

/-- The child that may be enabled now, with its iteration (R31). -/
def nextEnable (g : Cfg) (o : OpState) (n : Nat) : Option (Nat × Nat) :=
  (List.range n).findSome? fun c =>
    let i := o.enabled.getD c 0
    let may :=
      if g.node = 1 then i < g.cntA && (if c = 0 then i = 0 || o.childDone (n - 1) (i - 1) else o.childDone (c - 1) i)
      else if g.node = 2 then
        i < g.cntA && (c = 0 || o.childDone (c - 1) i) && (i = 0 || o.childDone c (i - 1))
      else i = 0
    if may then some (c, i) else none

def bump (l : List Nat) (n c : Nat) : List Nat :=
  (List.range n).map fun j => if j = c then l.getD j 0 + 1 else l.getD j 0

/-- Is the node done (R30, R31)? -/
def nodeDone (g : Cfg) (o : OpState) (n : Nat) : Bool :=
  if g.cntA = 0 || n = 0 then true
  else if g.node = 3 then (List.range n).all fun c => o.doneCnt.getD c 0 > 0
  else o.childDone (n - 1) (g.cntA - 1)

/-- The end of a run: the END, and the done pulse upward. -/
def View.cntEnd (v : View) (outs : List OutTok) : Fired :=
  { outs := outs ++ v.runEnd, priv := { v.priv with op := v.priv.op.endRun (v.g.variant = 1) }, bare := true,
    pulses := if v.g.upv then [v.g.upRoute] else [] }

/-- With ENV = 1 every token on A is consumed and discarded; an ERROR goes on F4 (R286, R401). -/
def View.cntDiscard (v : View) : Option Fired :=
  if v.g.env then
    (v.tok 0).map fun t => if t.kind = .error then v.errFire [0] v.g.prim t else { take := [(0, t)], priv := v.priv, bare := true }
  else none

/-- One step of the run under way (R30, R31, R286). -/
def View.cntStep (v : View) (i : Nat) : Option Fired :=
  let o := v.priv.op
  let g := v.g
  if g.node = 0 then
    (if i ≥ g.cntA then some (v.cntEnd [])
     else
      let out := outTo g.prim (v.sourceTok (cntValue g i))
      let p := { v.priv with own := EReg.set (cntValue g i) v.gen }
      if i + 1 = g.cntA then some (({ v with priv := p } : View).cntEnd out)
      else some { outs := out, priv := { p with op := { o with run := some (v.x, i + 1) } }, bare := true })
  else
    let kids := setBits g.enOut
    if nodeDone g o kids.length then some (v.cntEnd [])
    else (nextEnable g o kids.length).map fun (c, i) =>
      let val := cntValue g i
      let first := c = 0 && !g.prim.isEmpty
      let p := if first then { v.priv with own := EReg.set val v.gen } else v.priv
      { outs := if first then outTo g.prim (v.sourceTok val) else [], pulses := [kids.getD c 0], bare := true,
        priv := { p with op := { o with enabled := bump o.enabled kids.length c } } }

/-- A run that begins: on a token of A without ENV, else as `nextRun` says (R286). -/
def View.cntStart (v : View) : Option Fired :=
  match (if v.g.env then none else v.tok 0) with
  | some t =>
    if t.kind = .error then some (v.errFire [0] v.g.prim t)
    else some { take := [(0, t)],
                priv := { v.priv with op := { v.priv.op with run := some (v.x, 0), runFrom := some (t.tag, t.side) } } }
  | none => v.nextRun.map fun o => { priv := { v.priv with op := o }, bare := true }

/-- A step of a run and the discarding of A under ENV go on side by side (R286). -/
def View.withDiscard (v : View) (f : Fired) : Fired :=
  match v.cntDiscard with
  | some d => { f with take := f.take ++ d.take, outs := f.outs ++ d.outs }
  | none => f

/-- CNT: the run (R286). -/
def fireCnt (vs : List View) : Option (List Fired) :=
  each (fun v =>
    (match v.priv.op.run with
    | none => v.cntStart
    | some (x, i) => if x ≠ v.x then none else v.cntStep i).map v.withDiscard) vs

/-- CNT: a token on A discarded while the run cannot go on (R286). -/
def fireCntDiscard (vs : List View) : Option (List Fired) := each View.cntDiscard vs

/-! ### Branches and joins -/

def Cfg.dqd (g : Cfg) : Nat := g.opt 0 % 64 + 1
def Cfg.dirv (g : Cfg) : Bool := bitsOf (g.opt 0) 7 1 = 1
def Cfg.crin (g : Cfg) : Nat := g.opt 1 % 8

/-- STEER (R281). -/
def fireSteer (vs : List View) : Option (List Fired) :=
  each (fun v =>
    if !v.ready || (v.g.dirv && v.priv.op.outst ≥ v.g.dqd) then none
    else
      let p := if v.g.dirv then { v.priv with op := { v.priv.op with outst := v.priv.op.outst + 1 } } else v.priv
      match v.err v.ins with
      | some t => some { v.errFire v.ins (mergeLanes v.both v.g.dirLanes) t with priv := p }
      | none =>
        let b := v.bit 1
        let a := v.aTok
        let q : Priv := if b then { p with own := EReg.set a.pay v.gen } else p
        some { take := v.takes v.ins, priv := q
               outs := outTo (if b then v.g.prim else v.g.sec) (v.forward a)
                 ++ outTo v.g.dirLanes (v.forward { kind := .data, tag := a.tag, pay := if b then 1 else 0 }) }) vs

/-- SWCH (R284). -/
def fireSwch (vs : List View) : Option (List Fired) :=
  each (fun v =>
    if !v.ready then none
    else match v.err v.ins with
      | some t => some (v.errFire v.ins v.g.markerLanes t)
      | none =>
        let i := min ((v.val 1).toNat % 8) (v.g.ways - 1)
        let o := v.priv.op
        let counted := v.g.wayFree i ≠ 0
        let free := o.free.lookD i 0
        if counted && free = 0 then none
        else
          let a := v.aTok
          let numbered := 8 ≤ v.g.variant
          some { take := v.takes v.ins
                 outs := outTo (v.g.wayLanes i) { v.forward a with side := if numbered then o.seq else a.side }
                 priv := { v.priv with
                   own := EReg.set a.pay v.gen,
                   op := { o with free := if counted then o.free.put i (free - 1) else o.free,
                                  seq := if numbered then o.seq + 1 else o.seq } } }) vs

def Cfg.credit (g : Cfg) : List Nat := if bitsOf (g.opt 0) 3 1 = 1 then [g.opt 0 % 8] else []

/-- MERGE (R282). -/
def fireMerge (vs : List View) : Option (List Fired) :=
  each (fun v => (v.tok 2).bind fun c =>
    if c.kind = .error then
      match v.tok 0, v.tok 1 with
      | some _, some _ =>
        some { v.errFire [0, 1, 2] v.g.prim ((v.errAt 0).getD ((v.errAt 1).getD c)) with pulses := v.g.credit }
      | _, _ => none
    else
      let i := if c.pay.getLsbD 0 then 0 else 1
      (v.tok i).map fun t =>
        { take := [(i, t), (2, c)], outs := outTo v.g.prim (v.forward t), pulses := v.g.credit,
          priv := if t.kind = .error then v.priv else { v.priv with own := EReg.set t.pay v.gen } }) vs

/-- AMRG (R282): round robin, or under DETE the inputs of a round in the order of their ports (R41).
(DEDUCED, log 48.) -/
def fireAmrg (vs : List View) : Option (List Fired) :=
  each (fun v =>
    let l := v.priv.op.amrgLast
    let order := if v.dete then
        (List.range 8).flatMap fun k => v.ins.filter fun i => v.g.source i = k
      else [(l + 1) % 3, (l + 2) % 3, l % 3].filter fun i => v.ins.contains i
    let go := if v.dete then order.find? fun i => !(match (v.seg i).head? with | some t => t.isMarker | none => false)
      else order.find? fun i => (v.tok i).isSome
    go.bind fun i => (v.tok i).map fun t =>
      if t.kind = .error then v.errFire [i] v.g.prim t
      else { take := [(i, t)], outs := outTo v.g.prim (v.forward t),
             priv := { v.priv with op := { v.priv.op with amrgLast := i }, own := EReg.set t.pay v.gen } }) vs

/-- Loop-exit STEER (R283, R453). -/
def fireLoopExit (vs : List View) : Option (List Fired) :=
  each (fun v =>
    let o := v.priv.op
    let find (i : Nat) (t : BitVec 6) : Option Token := ((v.seg i).takeWhile Token.isData).find? fun u => u.tag = t
    let squash (t : BitVec 6) : OutTok := { lanes := v.both, tok := { kind := .squash, ctx := v.x, tag := t } }
    match v.tok 2 with
    | some c =>
      if o.sq then some { take := [(2, c)], outs := [squash c.tag], priv := v.priv, bare := true }
      else some { take := [(2, c)], priv := { v.priv with op := { o with issue := o.issue ++ [c.tag] } }, bare := true }
    | none =>
      if o.sq then
        match v.tok 0, v.tok 1 with
        | some t, _ => some { take := [(0, t)], priv := v.priv, bare := true }
        | none, some t => some { take := [(1, t)], priv := v.priv, bare := true }
        | none, none => none
      else
        match o.issue with
        | [] => none
        | t :: rest =>
          match find 0 t, (if v.g.isTok 1 then find 1 t else none) with
          | some a, bt =>
            if v.g.isTok 1 && bt.isNone then none
            else
              let take := (0, a) :: bt.toList.map fun b => (1, b)
              let up := if v.g.upv then [v.g.upRoute] else []
              let bad := if v.g.isTok 1 then bt else v.errAt 1
              match [some a, bad].findSome? (fun u => u.filter fun u => u.kind = .error) with
              | some er =>
                some { take, outs := outTo v.both (v.forward er) ++ (t :: rest).map squash, pulses := up,
                       priv := { v.priv with op := { o with issue := [], sq := true } }, bare := true, err := true }
              | none =>
                if (match bt with | some b => b.pay.getLsbD 0 | none => v.bit 1) then
                  some { take, outs := outTo v.g.prim (v.forward a), pulses := setBits v.g.enOut, bare := true, reads := true,
                         priv := { v.priv with own := EReg.set a.pay v.gen, op := { o with issue := rest } } }
                else
                  some { take, outs := outTo v.g.sec (v.forward a) ++ rest.map squash, pulses := up, bare := true, reads := true,
                         priv := { v.priv with op := { o with issue := [], sq := true } } }
          | none, _ => none) vs

/-- The lowest free tag of a pool (R26). -/
def lowestFree (used : BitVec 64) : Option Nat := (List.range 64).find? fun t => !used.getLsbD t

def poolWith (p : BitVec 64) (t : Nat) : BitVec 64 := p ||| BitVec.ofNat 64 (2 ^ t)
def poolWithout (p : BitVec 64) (t : Nat) : BitVec 64 := p &&& ~~~ BitVec.ofNat 64 (2 ^ t)

/-- TAGA (R288). -/
def fireTaga (vs : List View) : Option (List Fired) :=
  each (fun v =>
    match (v.seg 1).head? with
    | some t =>
      some { take := [(1, t)], priv := v.priv, bare := true,
             pool := if t.kind = .data then some (poolWithout v.pool (t.pay.toNat % 64)) else none }
    | none =>
      (v.tok 0).bind fun a =>
        let o := v.priv.op
        let len := v.g.opt 0 % 16 + 1
        let next (t : BitVec 6) : Priv :=
          { v.priv with own := if a.kind = .error then v.priv.own else EReg.set a.pay v.gen,
                        op := { o with tagaTag := t, tagaPos := (o.tagaPos + 1) % len } }
        if o.tagaPos = 0 then
          (lowestFree v.pool).map fun t =>
            let tg := BitVec.ofNat 6 t
            { take := [(0, a)], pool := some (poolWith v.pool t), priv := next tg
              outs := outTo v.g.prim { v.forward a with tag := tg }
                ++ outTo v.g.sec { kind := .data, ctx := v.x, tag := tg, pay := BitVec.ofNat 32 t } }
        else
          some { take := [(0, a)], outs := outTo v.g.prim { v.forward a with tag := o.tagaTag },
                 priv := next o.tagaTag }) vs

/-- TAGF (R288). (DEDUCED, log 51.) -/
def fireTagf (vs : List View) : Option (List Fired) :=
  each (fun v => (v.tok 0).map fun a =>
    let o := v.priv.op
    let t := a.tag.toNat
    let n := o.tagf.lookD t 0 + 1
    let full := n ≥ v.g.opt 0 % 16 + 1
    { take := [(0, a)]
      outs := outTo v.g.prim (v.forward a)
        ++ (if full then outTo v.g.sec (v.forward { kind := .data, tag := a.tag, pay := BitVec.ofNat 32 t }) else [])
      priv := { v.priv with own := if a.kind = .error then v.priv.own else EReg.set a.pay v.gen,
                            op := { o with tagf := if full then o.tagf.del t else o.tagf.put t n } } }) vs

/-- REORD: a held token leaves under its own context; with a full window nothing is taken from A (R285, R431). -/
def fireReord (vs : List View) : Option (List Fired) :=
  each (fun v =>
    let o := v.priv.op
    let go (t : Token) (w : List Token) (take : List (Nat × Token)) : Fired :=
      { take, outs := outTo v.g.prim (v.forward t), bare := take.isEmpty,
        priv := { v.priv with own := if t.kind = .error then v.priv.own else EReg.set t.pay v.gen, op := { o with next := t.side + 1, window := w } } }
    match o.window.find? fun t => t.side = o.next && t.ctx = v.x with
    | some t => some (go t (o.window.erase t) [])
    | none =>
      if o.window.length ≥ v.g.opt 0 % 64 + 1 then none
      else (v.tok 0).map fun a =>
        if o.window.any fun t => t.side = a.side then
          { take := [(0, a)], priv := v.priv
            outs := outTo v.g.prim (v.forward { kind := .error, tag := a.tag, side := a.side,
                                                pay := errorPay 0x4A v.pos v.c })
            records := [(0x4A, a.side.toNat * 65536)] }
        else if a.side = o.next then go a o.window [(0, a)]
        else { take := [(0, a)], priv := { v.priv with op := { o with window := o.window ++ [a] } } }) vs

/-- The response side of a REQ (R307). -/
def fireReqResponse (vs : List View) : Option (List Fired) :=
  each (fun v => (v.tok 1).map fun t =>
    let o := v.priv.op
    { take := [(1, t)], outs := outTo v.g.sec (v.forward t), reads := false,
      priv := { v.priv with op := { o with reqOut := if v.g.variant % 2 = 0 then o.reqOut - 1 else o.reqOut } } }) vs

/-- The request side of a REQ: an ERROR on A issues nothing and returns in its turn (R307, R401). -/
def fireReqRequest (vs : List View) : Option (List Fired) :=
  each (fun v =>
    let o := v.priv.op
    let gather := v.g.variant % 2 = 0
    let fence := bitsOf v.g.variant 1 1 = 1 || (bitsOf v.g.variant 2 1 = 1 && o.fenceNext)
    let side : BitVec 8 := if fence then 0x80 else 0
    let ins := v.ins.filter (· ≠ 1)
    if !(ins.all v.present) || !v.present 0 then none
    else
      let a := v.aTok
      if a.kind = .error then
        (if gather && o.reqOut ≠ 0 then none else some (v.errFire ins v.g.sec a))
      else if gather then
        (if o.reqOut < v.g.opt 0 % 64 + 1 then
           some { take := v.takes ins
                  outs := outTo v.g.prim (v.forward { kind := .data, tag := a.tag, side, pay := a.pay })
                  priv := { v.priv with own := EReg.set a.pay v.gen, op := { o with reqOut := o.reqOut + 1, fenceNext := false } } }
         else none)
      else match v.errAt 2 with
        | some t => some (v.errFire ins v.g.prim t)
        | none =>
          some { take := v.takes ins
                 outs := outTo (v.g.prim.filter fun l => l % 2 = 0)
                     (v.forward { kind := .data, tag := a.tag, side, pay := a.pay })
                   ++ outTo (v.g.prim.filter fun l => l % 2 = 1) (v.forward (v.asTok 2))
                 priv := { v.priv with own := EReg.set a.pay v.gen, op := { o with fenceNext := false } } }) vs

end Sys2Proof.Machine
end

