-- ==== Sys2Proof/Machine/ElemFire.lean ====
section
/-! DEFINITION. The steps of an element: firing by its operation's rule, with pending updates and gangs (R28, R54,
R64, R287), and the consumption of markers (R62, R430). -/

namespace Sys2Proof.Machine

/-! ## Where the lanes of a slot lead -/

/-- The lanes on which an element's results can leave. -/
def Cfg.resultLanes (g : Cfg) : List Nat := mergeLanes (mergeLanes g.markerLanes g.prim) (mergeLanes g.sec g.drainLanes)

/-- Incoming lanes inside a region that some outgoing lanes of an element lead to. -/
def Region.into (r : Region) (e : Nat) (outs : List Nat) : List (Nat × Nat) :=
  outs.filterMap fun o =>
    match laneEnd e o with
    | .elem n k => if r.holds n then some (n, k) else none
    | .port _ _ => none

/-- Every incoming lane that tokens on the first ones can reach under a slot, through switchboxes and, when `deep`,
through elements; `stop` names elements whose results are not followed. -/
def reach (q : Core) (r : Region) (slot : Nat) (deep : Bool) (stop : Nat → Bool) :
    Nat → List (Nat × Nat) → List (Nat × Nat) → List (Nat × Nat)
  | 0, _, seen => seen
  | _ + 1, [], seen => seen
  | n + 1, (e, k) :: ws, seen =>
    if seen.contains (e, k) then reach q r slot deep stop n ws seen
    else
      let g := q.cfg slot e
      let outs := g.passTo k ++ (if deep && !stop e && !(g.takers k).isEmpty then g.resultLanes else [])
        ++ (if g.chainLane = some k then g.drainLanes else [])
      reach q r slot deep stop n (r.into e outs ++ ws) ((e, k) :: seen)

def reachFuel : Nat := 20000

/-- The inputs (element, input) fed by an outgoing route of an element, through switchboxes. -/
def fedBy (q : Core) (r : Region) (slot e : Nat) (outs : List Nat) : List (Nat × Nat) :=
  (reach q r slot false (fun _ => false) reachFuel (r.into e outs) []).flatMap fun p =>
    ((q.cfg slot p.1).takers p.2).map fun i => (p.1, i)

def Cfg.isLoopExit (g : Cfg) : Bool := g.op = opSteer && g.variant = 1

/-- Elements in the body of a loop: those that the continuing route of a loop-exit STEER reaches (R28, R287). -/
def inLoop (q : Core) (r : Region) (slot e : Nat) : Bool :=
  let steers := r.elems.filter fun n => (q.cfg slot n).isLoopExit
  !steers.isEmpty && steers.any fun n =>
    (reach q r slot true (fun m => (q.cfg slot m).isLoopExit) reachFuel (r.into n (q.cfg slot n).prim) []).any fun p =>
      p.1 = e

/-- Elements that keep their own output, a counter, an accumulator or operation state from firing to firing (R28). -/
def Cfg.stateful (g : Cfg) : Bool :=
  g.drains || g.op = opPivg || g.op = opCmac || g.op = opMins || g.op = opXorr || g.op = opCrcs
    || g.reads.any fun i => g.kind i = 7 || g.kind i = 8

/-- Does the element hold its updates pending by iteration (R28, R287)? -/
def holdsIterations (q : Core) (r : Region) (slot e : Nat) (g : Cfg) : Bool :=
  g.stateful && (g.pend ≠ 0 || inLoop q r slot e)

/-- Does the element hold its updates pending (R41, R287)? -/
def holdsPending (q : Core) (r : Region) (slot e : Nat) (g : Cfg) : Bool :=
  holdsIterations q r slot e g || (g.stateful && g.dete && (r.slot slot).detBit)

/-! ## Firing -/

/-- Elements of the gang that e leads under a slot (R54); none for a follower. (DEDUCED, log 53.) -/
def gangOf (g : Cfg) (e : Nat) : List Nat :=
  let n := if g.gang = 0 then 1 else if g.gang = 1 then 2 else if g.gang = 2 then 4 else 16
  if e % n = 0 then List.range' e n else []

/-- What every pending update would leave in an element. -/
def State.latest (s : State) (c e : Nat) (gen : BitVec 12) : Priv :=
  (s.elem c e).latest (fun x => (s.core c).cfg x e) gen

def State.viewOf (s : State) (c : Nat) (r : Region) (slot e : Nat) : View :=
  let q := s.core c
  let v := s.elem c e
  let g := q.cfg slot e
  let k := (s.ctx? c r.ctx).getD {}
  let seg (i : Nat) : List Token := segOf q e slot i (g.source i) (v.buf i)
  let dete := g.dete && (r.slot slot).detBit
  let tok := matchToks g slot dete v.kept seg
  { c, e, slot, pos := r.posOf e, g, gen := k.gen, strict := k.strict, seed0 := k.seed0, seed1 := k.seed1, acts := s.acts,
    priv := s.latest c e k.gen, pool := r.tagUsed, dete, ecc := (r.slot slot).eccElems.contains e, isCur := r.cur = slot,
    seg, tok, bc := none, lead := tok 0, ganged := false }

/-- What the broadcast of member j gives the other members: the value of its A operand, and the token if it is one;
nothing while that operand is not there. -/
def View.casts (w : View) : Option (W32 × Option Token) :=
  if w.present 0 then some (w.val 0, w.errAt 0 <|> w.opd 0) else none

/-- Views of a gang's members: the leader's A names tag and context, and one member's A may be broadcast (R54). -/
def gangViews (vs : List View) : List View :=
  match vs with
  | [] => []
  | [v] => [v]
  | v :: _ =>
    let cast (g : Cfg) : Option (Nat × Option (W32 × Option Token)) := g.gbc.map fun j => (j, (vs[j]?).bind View.casts)
    let own := if (v.g.op = opCnt || v.g.op = opConst) && v.priv.op.run.isSome then v.origin else v.tok 0
    let lead := match cast v.g with
      | some (j, b) => if j = 0 then own else b.bind (·.2)
      | none => own
    vs.zipIdx.map fun p =>
      let w : View := { p.1 with lead, ganged := true }
      match cast p.1.g with
      | some (j, b) => if j = p.2 then w else { w with bc := b }
      | none => w

/-- A member that a broadcast feeds has its A operand once the broadcasting member has it (R54). -/
def View.fed (v : View) (n : Nat) : Bool :=
  !v.ganged || match v.g.gbc with
    | some j => j = n || v.bc.isSome
    | none => true

def CfgOp.address : CfgOp → Option Word
  | .drain _ (some a) => some a
  | .spill _ a | .fill _ a | .merge _ a => some a
  | _ => none

/-- Does an accumulator command read records? -/
def CfgOp.reads : CfgOp → Bool
  | .fill _ _ | .merge _ _ => true
  | _ => false

/-- Has a command still to ask for a read at element e, or to act there and write? -/
def XaCmd.pendingAt (y : XaCmd) (e : Nat) : Bool :=
  y.cmd.op.address.isSome && y.left.any fun p => p.1 = e && (!y.cmd.op.reads || y.asked ≤ p.2)

/-- Must the read of command x at element e wait for a command that acts there before it: one that stands before it and
has reached the element, or is held there as x is (R136, R139, R268)? -/
def Core.readWaits (q : Core) (x : XaCmd) (e : Nat) : Bool :=
  q.xaCmds.any (fun y => y.cmd.id ≠ x.cmd.id && y.outbox.any fun w => w.2.elem = e)
    || (q.xaCmds.takeWhile fun y => y.cmd.id ≠ x.cmd.id).any fun y =>
        y.pendingAt e && (y.armed.contains e || !x.armed.contains e)

/-- Does the next record that a command reads wait for an earlier command? -/
def Core.xaBlocked (q : Core) (x : XaCmd) : Bool :=
  x.cmd.op.reads && match x.left.find? fun p => p.2 = x.asked with
    | some p => q.readWaits x p.1
    | none => false

/-- An accumulator command that is to act at the element before its next firing (R268). One whose records wait for an
earlier command, which may be held for an END of this element, lets the element go on (DEDUCED, log 29). -/
def Core.armedAt (q : Core) (e : Nat) : Bool :=
  q.xaCmds.any fun x => x.armed.contains e && !(q.xaBlocked x && x.left.any fun p => p.1 = e && x.asked ≤ p.2)

/-- Nothing that must come before the next firing is outstanding at the element: no drain is due, and no accumulator
command is to act first. -/
def State.gapClosed (s : State) (c e : Nat) : Bool :=
  (match (s.core c).regionAt e with
    | some (_, r) => (s.latest c e (s.genOf c r.ctx)).due.isNone
    | none => true)
    && !(s.core c).armedAt e

/-- The tokens that a firing takes leave their buffers; KEEP inputs hold theirs (R61). -/
def Elem.consume (v : Elem) (g : Cfg) (slot : Nat) (l : List (Nat × Token)) : Elem :=
  l.foldl (fun v p =>
    let (i, t) := p
    if g.keep i && t.isData then
      if v.kept.look i = some t then v
      else
        let rec drop : List Token → List Token
          | [] => []
          | u :: us => if u.ctx.toNat = slot && u.isMarker then drop us else if u = t then us else u :: drop us
        { v.setBuf i (drop (v.buf i)) with kept := v.kept.put i t }
    else v.setBuf i ((v.buf i).erase t)) v

/-- Tokens that the firing consumes now: those of KEEP inputs only when they are taken up (R42). -/
def freshTakes (v : Elem) (g : Cfg) (l : List (Nat × Token)) : Nat :=
  (l.filter fun p => p.2.isData && !(g.keep p.1 && v.kept.look p.1 = some p.2)).length

def firedTag (v : View) : BitVec 6 :=
  if v.g.tmode = 1 || v.lead.isSome then v.tagIn else (((v.ins.filterMap v.opd).head?).map (·.tag)).getD 0

/-- The update of a firing as it stands pending (R28, R287). -/
def View.pending (v : View) (f : Fired) : Upd :=
  { gen := v.gen
    tag := firedTag v
    slot := v.slot
    own := if f.priv.own = v.priv.own then none else some f.priv.own.val
    a := v.val 0
    b := v.val 1
    sa := if v.g.op = opMins then v.minsIn.side else BitVec.ofNat 8 (v.sideAt 0)
    sb := BitVec.ofNat 8 (v.sideAt 1)
    err := f.err
    reads := f.reads
    strict := v.strict }

/-- Does a firing change what can stand pending: is it a firing on operands, or does it write OWN? -/
def Fired.counts (f : Fired) (v : View) : Bool := f.reads || f.priv.own ≠ v.priv.own

/-- The state update of a firing: at once, or what R28 names pending under the firing's tag (R28, R287). -/
def Elem.update (w : Elem) (v : View) (holds : Bool) (f : Fired) : Elem :=
  if !holds && w.pend.isEmpty then
    { w with priv := if f.reads && !f.err then f.priv.stepCtr v.g v.gen else f.priv }
  else
    let w := { w with priv := { w.priv with op := f.priv.op.withSums w.priv.op } }
    if f.counts v then { w with pend := w.pend ++ [{ v.pending f with waits := holds }] } else w

/-- The tags of the pending iterations of an element, oldest first. -/
def Elem.pendTags (w : Elem) : List (BitVec 6) :=
  (w.pend.filter (·.waits)).foldl (fun l u => if l.getLast? = some u.tag then l else l ++ [u.tag]) []

/-- Room for one more pending iteration, at an element that holds its updates by iteration; what stands pending for a DET
round alone has no bound (R28, R41, R454). -/
def Elem.pendRoom (w : Elem) (v : View) (iterates : Bool) (f : Fired) : Bool :=
  !iterates || !f.counts v || w.pendTags.length < v.g.pend + 1 || w.pendTags.getLast? = some (firedTag v)

/-- What one member's part of a firing does to the machine. -/
def State.applyFired (s : State) (rn : Nat) (r : Region) (v : View) (f : Fired) : State :=
  let q := s.core v.c
  let el := s.elem v.c v.e
  let holds := holdsPending q r v.slot v.e v.g
  let n := freshTakes el v.g f.take
  let el' := (el.consume v.g v.slot f.take).update v holds f
  let s := s.setElem v.c v.e { el' with held := heldWith el'.held v.slot }
  let s := s.updRegion v.c rn fun r => { r.addRecv n with tagUsed := f.pool.getD r.tagUsed }
  let s := if f.pool.isSome then s.updElem v.c v.e fun w => { w with dry := false } else s
  let s := f.records.foldl (fun s p =>
    s.report { s.recordFor v.c r.alloc v.gen p.1 2 with
      place := BitVec.ofNat 8 v.pos, info := BitVec.ofNat 64 p.2 }) s
  let s := f.pulses.foldl (fun s k => s.pulse v.c v.e k v.x) s
  s.emit v.c v.e f.outs

/-- May a slot's configuration act in the region now (R34, R36)? -/
def Region.serves (r : Region) (slot : Nat) : Bool :=
  (r.slot slot).st = .retiring || ((r.slot slot).st = .current && r.drained.isEmpty)

/-- At step 5 of the power ladder and above, elements of background demand-mode regions do not fire (R339). -/
def State.throttled (s : State) (r : Region) : Bool :=
  5 ≤ s.dev.pstep && 16 ≤ s.strmOf r.alloc && (r.slot r.cur).demand

/-- A firing rule: what the members of a gang do, if the rule lets them fire. -/
abbrev Rule := List View → Option (List Fired)

/-- A firing under one slot. An element without data input fires under the CURRENT slot, and under another while a run
of it is under way (R77). -/
def State.fireSlot (s : State) (c e rn : Nat) (r : Region) (is : Cfg → Bool) (f : Rule) (slot : Nat) : Option State :=
  let q := s.core c
  let g := q.cfg slot e
  if !g.works || !is g || !r.serves slot || s.throttled r
      || (g.isSource && r.cur ≠ slot && !(s.elem c e).running slot) then none
  else
    let es := gangOf g e
    if es.isEmpty || !es.all (fun n => r.holds n && s.gapClosed c n) then none
    else
      let vs := gangViews (es.map fun n => s.viewOf c r slot n)
      if !vs.zipIdx.all (fun p => p.1.fed p.2) then none
      else match f vs with
      | none => none
      | some fs =>
        let ps := vs.zip fs
        let fits := ps.all fun p =>
          let w := s.elem c p.1.e
          (p.2.outs.isEmpty || w.out.isEmpty)
            && (p.2.outs.all fun o => s.allSpace c p.1.e o.lanes o.tok)
            && w.pendRoom p.1 (holdsIterations q r slot p.1.e p.1.g) p.2
        if fits then some (ps.foldl (fun s p => s.applyFired rn r p.1 p.2) s) else none

/-- Outputs that wait and tokens that can come in, before an element acts; did anything move? -/
def State.prepare (s : State) (c e : Nat) : State × Bool :=
  let n := (s.elem c e).out.length
  let s := s.flush c e
  let p := s.intake c e
  (p.1, p.2 || (s.elem c e).out.length < n)

/-- An element's step by the rule of its operation: it lets tokens move in and out, ends a source's service of an old
slot (R77), and fires when the conditions of R48 hold, by the first of its rules that lets it. -/
def fireElem (is : Cfg → Bool) (fs : List Rule) (c e : Nat) (s : State) : Option State :=
  match (s.core c).regionAt e with
  | none => none
  | some (rn, r) =>
    let q := s.core c
    if !r.live || !(List.range 4).any fun x => is (q.cfg x e) && (q.cfg x e).works then none
    else
      let p := s.prepare c e
      let t := (List.range 4).foldl (fun t x =>
        if is (q.cfg x e) && (r.slot x).st = .retiring then t.retireSource c e x else t) p.1
      let moved := p.2 || t.elem c e ≠ p.1.elem c e
      match t.region? c rn with
      | none => none
      | some r =>
        match fs.findSome? fun f => (List.range 4).findSome? (t.fireSlot c e rn r is f) with
        | some u => some ((List.range 4).foldl (fun u x =>
            if is (q.cfg x e) && ((u.region? c rn).map fun r => (r.slot x).st) = some .retiring then u.retireSource c e x
            else u) u)
        | none => if moved then some t else none

/-! ## Markers (R62, R430) -/

/-- Operations with marker rules of their own, to which MARKALIGN does not apply (R62, R430). -/
def ownMarkers (op : Nat) : Bool :=
  op = opSteer || op = opSwch || op = opMerge || op = opAmrg || op = opFilt || op = opExpd || op = opReord
    || op = opTaga || op = opTagf || op = opReq

/-- What an element emits before an END, and the OWN it writes (R295, R296, R299, R301, R302). -/
def View.beforeEnd (v : View) : List OutTok × Option W32 :=
  let p := v.priv
  let o := p.op
  if v.g.op = opPivg then
    let t := v.result (p.ctr.readAs v.gen) none
    (outTo v.g.sec (match p.ctr.cause v.gen v.strict with
      | some cause => { t with kind := .error, pay := errorPay cause v.pos v.c }
      | none => t), none)
  else if v.g.op = opCmac then
    let r := packC (sat16 (cScale v.g o.sumR.toInt)) (sat16 (cScale v.g o.sumI.toInt))
    (outTo v.g.prim (v.result r none), some r)
  else if v.g.op = opMins && !o.group.isEmpty then
    let outs := v.minsOuts o.group
    (outs, outs.getLast?.map (·.tok.pay))
  else if v.g.op = opXorr then
    let r := xorrOut v.g o.x
    (outTo v.g.prim (v.result r none), some r)
  else if v.g.op = opCrcs then
    let r := if o.live then o.crc else crcInit v.g
    (outTo v.g.prim (v.result r none), some r)
  else ([], none)

/-- What the consumption of an END changes at once in what an operation keeps (R283 to R285, R307). -/
def OpState.afterEnd (o : OpState) (g : Cfg) : OpState :=
  { o with
    seq := if g.op = opSwch then 0 else o.seq
    next := if g.op = opReord then 0 else o.next
    sq := if g.isLoopExit then false else o.sq
    fenceNext := g.op = opReq }

/-- What an END does in its turn: CTR becomes 0 and the sums close (R279). -/
def View.tileEnd (v : View) (own : Option W32) : Upd := 
  { kind := .tileEnd, gen := v.gen, slot := v.slot, own, waits := false, strict := v.strict }

/-- The marker sides of an element: inputs that must be headed together, lanes the marker leaves on, and the path of
R77 it passes. -/
def markerSides (g : Cfg) : List (List Nat × List Nat × Nat) :=
  if g.op = opReq then
    [(g.tokInputs.filter fun i => i ≠ 1, g.prim, 8), (g.tokInputs.filter fun i => i = 1, g.sec, 9)]
  else if g.op = opTaga then [(g.tokInputs.filter fun i => i = 0, mergeLanes g.prim g.sec, 8)]
  else [(g.tokInputs.filter fun i => !g.keep i, g.markerLanes, 8)]

/-- The marker that heads every input of a side. -/
def View.sideMarker (v : View) (ins : List Nat) : Option Token :=
  match ins with
  | [] => none
  | i :: _ =>
    match (v.seg i).head? with
    | some t =>
      if t.isMarker && ins.all fun j =>
        match (v.seg j).head? with
        | some u => u.kind = t.kind
        | none => false
      then some t else none
    | none => none

/-- Erase the first marker of a kind and context from a list. -/
def eraseMarker (x : Nat) (k : Kind) : List Token → List Token
  | [] => []
  | t :: ts => if t.ctx.toNat = x && t.kind = k then ts else t :: eraseMarker x k ts

/-- The state of an element after it has consumed a marker on a side (R41, R62, R279). -/
def Elem.marked (w : Elem) (v : View) (cfg : Nat → Cfg) (ins : List Nat) (main : Bool) (t : Token) (own : Option W32) :
    Elem :=
  let w := ins.foldl (fun w i => w.setBuf i (eraseMarker v.slot t.kind (w.buf i))) w
  let w := { w with kept := if main then [] else w.kept, malign := false, held := heldWith w.held v.slot }
  if t.kind = .endTile then
    ({ w with priv := { w.priv with op := w.priv.op.afterEnd v.g } } : Elem).push cfg v.gen (v.tileEnd own)
  else if t.kind = .round && v.dete then w.commitAll cfg v.gen
  else w

/-- The marker consumed on a side, and what follows from it. -/
def State.consumeMarker (s : State) (rn : Nat) (v : View) (ins lanes : List Nat) (path : Nat) (t : Token) :
    State :=
  let c := v.c
  let e := v.e
  let isEnd := t.kind = .endTile
  let mv : View := { v with tok := fun i => if i = 0 then some t else none, lead := some t }
  let before := if isEnd && path = 8 then mv.beforeEnd else ([], none)
  let s := s.updElem c e fun w => w.marked v (fun x => (s.core c).cfg x e) ins (path = 8) t before.2
  let s := if isEnd then
      s.updCore c fun q => { q with xaCmds := q.xaCmds.map fun k =>
        if k.cmd.tile && k.cmd.region = rn && (k.left.any fun l => l.1 = e) && !k.armed.contains e then
          { k with armed := e :: k.armed } else k }
    else s
  s.emit c e (before.1 ++
    if t.kind = .retire then [{ lanes, tok := t, path := some path }] else outTo lanes t)

/-- MARKALIGN: a DATA token opposite a marker is consumed and an ERROR takes its place, with one record per marker
(R430). -/
def State.misalign (s : State) (rn : Nat) (r : Region) (v : View) : Option State :=
  if ownMarkers v.g.op then none
  else
    let ins := v.g.tokInputs.filter fun i => !v.g.keep i
    let heads := ins.filterMap fun i => ((v.seg i).head?).map fun t => (i, t)
    if !heads.any fun p => p.2.isMarker then none
    else match heads.find? fun p => p.2.isData with
      | none => none
      | some (i, t) =>
        let lanes := if v.g.op = opPass || v.g.op = 0x0D || v.g.op = 0x53 || v.g.op = opMma || v.g.op = opRng then v.both
          else if v.g.op = opCrcs then v.g.sec else v.g.prim
        let er : Token := { kind := .error, ctx := v.x, tag := t.tag, side := t.side, pay := errorPay 0x4B v.pos v.c }
        if !s.allSpace v.c v.e lanes er then none
        else
          let seen := (s.elem v.c v.e).malign
          let s := s.updElem v.c v.e fun w => { w.setBuf i ((w.buf i).erase t) with malign := true }
          let s := s.updRegion v.c rn (·.addRecv 1)
          let s := if seen then s else s.report { s.recordFor v.c r.alloc v.gen 0x4B 2 with
            place := BitVec.ofNat 8 v.pos,
            info := BitVec.ofNat 64 ((i + 1) * 2 ^ 24 + v.slot * 256 + t.tag.toNat) }
          some (s.emit v.c v.e (outTo lanes er))

/-- Before a REORD lets a marker pass, its window leaves in order (R285). -/
def View.reordFlush (v : View) : Option (Token × List Token) :=
  let o := v.priv.op
  (o.window.foldl (fun (b : Option Token) t =>
    match b with
    | none => some t
    | some u => if (t.side - o.next).toNat < (u.side - o.next).toNat then some t else some u) none).map fun t =>
      (t, o.window.erase t)

/-- Marker work under one slot. A ROUND that makes pending updates permanent passes before an accumulator command that
waits for them (R41, R100; DEDUCED, log 29). -/
def State.markerSlot (s : State) (c e rn : Nat) (r : Region) (slot : Nat) : Option State :=
  let q := s.core c
  let g := q.cfg slot e
  if !g.works || !r.serves slot || !(s.elem c e).out.isEmpty then none
  else
    let v := s.viewOf c r slot e
    (markerSides g).findSome? (fun side =>
      match v.sideMarker side.1 with
      | none => none
      | some t =>
        if !s.gapClosed c e && !(t.kind = .round && v.dete && !(s.elem c e).pend.isEmpty) then none
        else if g.op = opReord && !v.priv.op.window.isEmpty then
          v.reordFlush.bind fun p =>
            if s.allSpace c e g.prim p.1 then
              some ((s.updElem c e fun w => w.update v false { bare := true, priv := { v.priv with
                own := if p.1.kind = .error then v.priv.own else EReg.set p.1.pay v.gen,
                op := { v.priv.op with window := p.2, next := p.1.side + 1 } } }).emit c e
                (outTo g.prim (v.forward p.1)))
            else none
        else if g.isLoopExit && !v.priv.op.issue.isEmpty then none
        else if g.op = opRep && v.priv.op.repTok.isSome then none
        else if g.op = opCnt && v.priv.op.run.isSome then none
        else some (s.consumeMarker rn v side.1 side.2.1 side.2.2 t))
      |>.orElse fun _ => if s.gapClosed c e then s.misalign rn r v else none

/-- A RETIRE of the context that is CURRENT again is discarded where it stands (R39). -/
def State.dropStale (s : State) (c e : Nat) : Option State :=
  let v := s.elem c e
  if (v.bufA ++ v.bufB ++ v.bufC).any (·.void) then
    let f (l : List Token) : List Token := l.filter fun t => !t.void
    some (s.setElem c e { v with bufA := f v.bufA, bufB := f v.bufB, bufC := f v.bufC })
  else none

/-- MARKER_CONSUME (R62, R430). -/
def markerConsume (c e : Nat) (s : State) : Option State :=
  match (s.core c).regionAt e with
  | none => none
  | some (_, r) =>
    if !r.live then none
    else
      let p := s.prepare c e
      match (p.1.core c).regionAt e with
      | none => none
      | some (rn, r) =>
        match (p.1.dropStale c e).orElse fun _ => (List.range 4).findSome? (p.1.markerSlot c e rn r) with
        | some t => some t
        | none => if p.2 then some p.1 else none

def isOp (op : Nat) (g : Cfg) : Bool := g.op = op

end Sys2Proof.Machine
end

