-- ==== Sys2Proof/Machine/FabricEvents.lean ====
section
/-! DEFINITION. Steps of the fabric beside firings: SQUASH (R63), pulses (R60), pass-through (R57), the drain chain
and drains by KLEN (R103, R305), and the sign of a dry tag pool (R451). -/

namespace Sys2Proof.Machine

/-! ## SQUASH (R28, R63, R288) -/

def keptBy (t : Token) (x : BitVec 2) (tag : BitVec 6) : Bool := !(t.kind = .data && t.ctx = x && t.tag = tag)

/-- Buffered DATA of a tag discarded at an element: one lane's stage and some inputs. -/
def Elem.squash (v : Elem) (key : Nat) (ins : List Nat) (x : BitVec 2) (tag : BitVec 6) : Elem :=
  let f (l : List Token) : List Token := l.filter fun t => keptBy t x tag
  let v := v.setLane key { v.lane key with stage := f (v.lane key).stage }
  let v := ins.foldl (fun v i => v.setBuf i (f (v.buf i))) v
  let o := v.priv.op
  { v with kept := v.kept.filter fun k => !ins.contains k.1 || keptBy k.2 x tag
           priv := { v.priv with op := { o with window := f o.window } } }

/-- A SQUASH goes ahead of the DATA that waits to leave (R63). -/
def outAhead (outs : List OutTok) (o : OutTok) : List OutTok :=
  let tail := (outs.reverse.takeWhile fun p => p.tok.isData).reverse
  outs.take (outs.length - tail.length) ++ o :: tail

/-- SQUASH_ARRIVAL on an incoming lane. (DEDUCED, log 57.) -/
def squashArrival (c e key : Nat) (s : State) : Option State :=
  match (s.core c).regionAt e, s.headOf c e key with
  | some (rn, r), some t =>
    if t.kind ≠ .squash || !r.live then none
    else
      let q := s.core c
      let x := t.ctx
      let g := q.cfg x.toNat e
      let ins := g.takers key
      if !s.allSpace c e (g.passTo key) t then none
      else
      let s := s.popLane c e key t
      let before := s.elem c e
      let count (v : Elem) : Nat :=
        ((v.lane key).stage ++ v.bufA ++ v.bufB ++ v.bufC).length
      let after := (before.squash key ins x t.tag).discard (fun y => q.cfg y e) (s.genOf c r.ctx) t.tag
      let s := (s.setElem c e after).updRegion c rn (·.addRecv (count before - count after))
      let s := s.putAll c e (g.passTo key) t
      if ins.isEmpty then some s
      else
        let v := s.elem c e
        let seen := ins.map (fun i => (i, t.tag)) ++ v.squashIn
        if g.tokInputs.all fun i => seen.contains (i, t.tag) then
          let s := s.setElem c e { v with squashIn := seen.filter fun p => p.2 ≠ t.tag }
          if g.op = opTagf then
            let s := s.updElem c e fun v =>
              { v with priv := { v.priv with op := { v.priv.op with tagf := v.priv.op.tagf.del t.tag.toNat } } }
            some (s.emit c e (outTo g.sec { kind := .data, ctx := x, tag := t.tag, pay := t.tag.setWidth 32 }))
          else
            let lanes := g.markerLanes
            if lanes.isEmpty then some s
            else
              let s := s.updElem c e fun v => { v with out := outAhead v.out { lanes, tok := t } }
              some (s.flush c e)
        else some (s.setElem c e { v with squashIn := seen })
  | _, _ => none

/-! ## Pulses (R60) -/

inductive PulseRole where
  | credit
  | done
  | commit
  | enable
deriving DecidableEq, Repr

/-- An element that an enable pulse lets run (R280, R286). -/
def Cfg.runsOnPulse (g : Cfg) : Bool := g.op = opGate || g.op = opConst || g.op = opCnt

/-- Does a slot's configuration take pulses of a route as credits (R281, R284)? -/
def Cfg.credited (g : Cfg) (route : Nat) : Bool :=
  (g.op = opSteer && g.variant = 0 && g.dirv && route = g.crin)
    || (g.op = opSwch && route < g.ways && g.wayFree route ≠ 0)

/-- Is a route the CRIN of a STEER under a slot that is CURRENT or RETIRING, whatever context a pulse on it carries
(R281)? -/
def Core.credits (q : Core) (r : Region) (e route : Nat) : Bool :=
  (List.range 4).any fun x =>
    let g := q.cfg x e
    ((r.slot x).st = .current || (r.slot x).st = .retiring) && g.op = opSteer && g.credited route

/-- Is a route the enable route of a configuration (R60)? -/
def Cfg.enabledBy (g : Cfg) (route : Nat) : Bool := g.env && route = g.enRoute

/-- Does a pulse on the enable route commit an update (R28, R287)? -/
def commits (q : Core) (r : Region) (e : Nat) (p : Pulse) : Bool :=
  let g := q.cfg p.ctx.toNat e
  g.enabledBy p.route && !g.runsOnPulse && holdsPending q r p.ctx.toNat e g

/-- The step that takes a pulse, by the meanings of its route under its context's configuration (R60, R281, R284, R286,
R287). (DEDUCED, log 49.) -/
def pulseRole (q : Core) (r : Region) (e : Nat) (p : Pulse) : PulseRole :=
  let g := q.cfg p.ctx.toNat e
  if q.credits r e p.route || (g.op = opSwch && g.credited p.route) then .credit
  else if g.op = opCnt && g.node ≠ 0 && g.doneIn.testBit p.route then .done
  else if commits q r e p then .commit
  else .enable

/-- The first waiting pulse of a role, and the others. -/
def takePulse (s : State) (c e : Nat) (role : PulseRole) (ok : Pulse → Bool) :
    Option (Nat × Region × Pulse × State) :=
  match (s.core c).regionAt e with
  | none => none
  | some (rn, r) =>
    if !r.live then none
    else
      let v := s.elem c e
      (v.pulses.find? fun p => pulseRole (s.core c) r e p = role && ok p).map fun p =>
        (rn, r, p, s.setElem c e { v with pulses := v.pulses.erase p })

/-- Pulses of the enable route go on in the directions of F10 (R60). -/
def State.forwardPulse (s : State) (c e : Nat) (p : Pulse) : State :=
  let g := (s.core c).cfg p.ctx.toNat e
  if g.enabledBy p.route then
    ((List.range 4).filter fun d => g.fwd.testBit d).foldl (fun s d => s.pulse c e d p.ctx) s
  else s

def State.updOp (s : State) (c e : Nat) (f : OpState → OpState) : State :=
  s.updElem c e fun v => { v with priv := { v.priv with op := f v.priv.op } }

/-- The place of a route among the set bits of a byte. -/
def childOf (bits route : Nat) : Nat := (setBits bits).idxOf route

/-- A done pulse of a child (R30, R286). -/
def OpState.done (o : OpState) (g : Cfg) (route : Nat) : OpState :=
  if g.op = opCnt && g.node ≠ 0 && g.doneIn.testBit route then
    { o with doneCnt := bump o.doneCnt (setBits g.doneIn).length (childOf g.doneIn route) }
  else o

/-- A credit for a direction token of a STEER (R281), and for a way of a SWCH (R284). -/
def OpState.credit (o : OpState) (g : Cfg) (steer : Bool) (route : Nat) : OpState :=
  let o := if steer then { o with outst := o.outst - 1 } else o
  if g.op = opSwch && g.credited route then { o with free := o.free.put route (min 255 (o.free.lookD route 0 + 1)) } else o

/-- An enable pulse: grants of a GATE, runs of CONST and CNT (R280, R286). -/
def OpState.enable (o : OpState) (g : Cfg) (p : Pulse) : OpState :=
  if !g.enabledBy p.route then o
  else if g.op = opGate then { o with grants := min 65535 (o.grants + if g.cntA = 0 then 1 else g.cntA) }
  else if g.op = opConst || g.op = opCnt then { o with runsDue := o.runsDue ++ [p.ctx] }
  else o

/-- What a pulse does: all that its route means under its context's configuration (R60; of a route with several meanings
DEDUCED, log 49). A pulse without meaning is spent. -/
def State.pulseActs (s : State) (c e : Nat) (r : Region) (p : Pulse) : State :=
  let q := s.core c
  let g := q.cfg p.ctx.toNat e
  let t := s.updOp c e fun o => ((o.done g p.route).credit g (q.credits r e p.route) p.route).enable g p
  let t := if commits q r e p then t.updElem c e fun v => v.commit (fun x => q.cfg x e) (s.genOf c r.ctx) else t
  t.forwardPulse c e p

/-- The first waiting pulse of a role acts. -/
def takesPulse (role : PulseRole) (ok : Pulse → Bool) (c e : Nat) (s : State) : Option State :=
  (takePulse s c e role ok).map fun w => w.2.2.2.pulseActs c e w.2.1 w.2.2.1

/-- ENABLE_PULSE (R280, R286). -/
def enablePulse (c e : Nat) (s : State) : Option State := takesPulse .enable (fun _ => true) c e s

/-- DONE_PULSE of a child (R30). -/
def donePulse (c e route : Nat) (s : State) : Option State := takesPulse .done (fun p => p.route = route) c e s

/-- COMMIT_PULSE: the oldest pending update becomes permanent (R28, R287). -/
def commitPulse (c e : Nat) (s : State) : Option State := takesPulse .commit (fun _ => true) c e s

/-- CREDIT_PULSE of a MERGE to its STEER, or of a consumer to a way of a SWCH (R281, R284). -/
def creditPulse (c e route : Nat) (s : State) : Option State := takesPulse .credit (fun p => p.route = route) c e s

/-! ## Pass-through (R57) -/

/-- A token taken from an incoming lane and put on outgoing lanes, unless it is an END that has to be held there before it
leaves the region (R157). -/
def State.passOn (s : State) (c e key : Nat) (r : Region) (t : Token) (outs : List Nat) (then' : State → State) :
    Option State :=
  let l := (s.elem c e).lane key
  match s.endHeld c r e outs t l.hold with
  | none =>
    let s := if l.hold.isNone then s else s.updElem c e fun v => v.setLane key { v.lane key with hold := none }
    some (then' ((s.popLane c e key t).putAll c e outs t))
  | some h =>
    if l.hold = some h then none else some (s.updElem c e fun v => v.setLane key { v.lane key with hold := some h })

/-- SWITCHBOX_PASS: the token at the head of a lane goes to every outgoing lane that its slot names, and to operands
that the slot feeds from the same lane. -/
def switchboxPass (c e key : Nat) (s : State) : Option State :=
  match (s.core c).regionAt e, s.headOf c e key with
  | some (rn, r), some t =>
    if t.kind = .squash || !r.live then none
    else if t.void then some (s.popLane c e key t)
    else
      let g := (s.core c).cfg t.ctx.toNat e
      let outs := g.passTo key
      let ins := g.takers key
      if outs.isEmpty || !s.allSpace c e outs t || !(s.elem c e).hasRoom g ins then none
      else
        s.passOn c e key r t outs fun s =>
          let s := s.updElem c e fun v => { v.take ins t with held := heldWith v.held t.ctx.toNat }
          let s := if t.isData then s.updRegion c rn fun r => (r.addRecv 1).addSent ins.length else s
          if t.kind = .retire then outs.foldl (fun s k => s.passed c e t.ctx.toNat k) s else s
  | _, _ => none

/-! ## Drains (R102, R103, R305, R402, R432) -/

/-- The token that a drain gives (R102, R402), with the accumulator it leaves. -/
def drainTok (x : Xa) (ctx : BitVec 2) (pos core : Nat) : Token :=
  if x.poison then { kind := .error, ctx, pay := errorPay 0x25 pos core }
  else { kind := .data, ctx, pay := drainValue x }

/-- The drain that follows a firing: in its turn behind the update of that firing (R28, R103). -/
def drainUpd (v : Elem) (gen : BitVec 12) : Upd :=
  match v.pend.getLast? with
  | none => { kind := .drain, gen, waits := false }
  | some u => { kind := .drain, gen, tag := u.tag, slot := u.slot, waits := u.waits }

/-- KLEN_DRAIN (R103). -/
def klenDrain (c e : Nat) (s : State) : Option State :=
  match (s.core c).regionAt e with
  | none => none
  | some (_, r) =>
    let v := s.elem c e
    let gen := s.genOf c r.ctx
    let p := s.latest c e gen
    match p.due with
    | none => none
    | some x =>
      if !r.live then none
      else
        let t := drainTok p.xa x (r.posOf e) c
        let s := if p.xa.guarded then
            s.report { s.recordFor c r.alloc gen 0x48 2 with place := BitVec.ofNat 8 (r.posOf e), info := 1 }
          else s
        let w := v.push (fun y => (s.core c).cfg y e) gen (drainUpd v gen)
        let lanes := ((s.core c).cfg x.toNat e).drainLanes
        some (s.setElem c e (if lanes.isEmpty then w else { w with drains := w.drains ++ [t] }))

/-- An own drained value, or the RETIRE behind it, leaves on the drain route of its slot (R35, R305). -/
def State.sendDrain (s : State) (c e : Nat) : Option State :=
  let v := s.elem c e
  match v.drains with
  | [] => none
  | t :: ts =>
    let g := (s.core c).cfg t.ctx.toNat e
    let lanes := g.drainLanes
    let turn := !t.isData || g.chainLane.isNone || v.priv.op.chain ≥ g.chainCount
    if !turn || !s.allSpace c e lanes t then none
    else
      let o := { v.priv.op with chain := if t.isData then 0 else v.priv.op.chain }
      let s := s.setElem c e { v with drains := ts, priv := { v.priv with op := o } }
      let s := s.putAll c e lanes t
      some (if t.kind = .retire && !t.void then s.passed c e t.ctx.toNat 11 else s)

/-- A chain token goes on (R305). -/
def State.sendChain (s : State) (c e rn : Nat) (r : Region) (key : Nat) : Option State :=
  match s.headOf c e key with
  | none => none
  | some t =>
    let g := (s.core c).cfg t.ctx.toNat e
    if g.chainLane ≠ some key || t.kind = .squash then none
    else if t.void then some (s.popLane c e key t)
    else if t.kind = .retire then some ((s.popLane c e key t).passed c e t.ctx.toNat 10)
    else if !s.allSpace c e g.drainLanes t then none
    else
      s.passOn c e key r t g.drainLanes fun s =>
        if t.isData then (s.updRegion c rn (·.addRecv 1)).updOp c e fun o => { o with chain := o.chain + 1 } else s

/-- DRAIN_CHAIN_FORWARD (R305). -/
def drainChainForward (c e : Nat) (s : State) : Option State :=
  match (s.core c).regionAt e with
  | none => none
  | some (rn, r) =>
    if !r.live then none
    else (s.sendDrain c e).orElse fun _ => (List.range 8).findSome? (s.sendChain c e rn r)

/-- TAGDRY: the record of a TAGA whose pool has stayed empty (R451). -/
def tagdry (c e : Nat) (s : State) : Option State :=
  match (s.core c).regionAt e with
  | none => none
  | some (_, r) =>
    let waits := (List.range 4).any fun x =>
      let g := (s.core c).cfg x e
      g.op = opTaga && g.works && r.serves x
        && (let v := s.viewOf c r x e
            (v.tok 0).isSome && v.priv.op.tagaPos = 0 && (lowestFree v.pool).isNone && (v.seg 1).isEmpty)
    if !waits || (s.elem c e).dry || !r.live then none
    else
      let s := s.updElem c e fun v => { v with dry := true }
      some (s.report { s.recordFor c r.alloc (s.genOf c r.ctx) 0x66 2 with
        place := BitVec.ofNat 8 (r.posOf e), info := 64 })

def execMarkerConsume (c e : Nat) (s : State) : Host.Outcome State Fault Refusal := attempt (markerConsume c e) s
def execSquashArrival (c e lane : Nat) (s : State) : Host.Outcome State Fault Refusal := attempt (squashArrival c e lane) s
def execEnablePulse (c e : Nat) (s : State) : Host.Outcome State Fault Refusal := attempt (enablePulse c e) s
def execDonePulse (c e route : Nat) (s : State) : Host.Outcome State Fault Refusal := attempt (donePulse c e route) s
def execCommitPulse (c e : Nat) (s : State) : Host.Outcome State Fault Refusal := attempt (commitPulse c e) s
def execCreditPulse (c e route : Nat) (s : State) : Host.Outcome State Fault Refusal := attempt (creditPulse c e route) s
def execSwitchboxPass (c e lane : Nat) (s : State) : Host.Outcome State Fault Refusal := attempt (switchboxPass c e lane) s
def execDrainChainForward (c e : Nat) (s : State) : Host.Outcome State Fault Refusal := attempt (drainChainForward c e) s
def execKlenDrain (c e : Nat) (s : State) : Host.Outcome State Fault Refusal := attempt (klenDrain c e) s
def execTagdry (c e : Nat) (s : State) : Host.Outcome State Fault Refusal := attempt (tagdry c e) s

end Sys2Proof.Machine
end

