-- ==== Sys2Proof/Machine/ConfigCheck.lean ====
section
/-! DEFINITION. Configuration streams (R68 to R70) and the checks that a configuration must pass at load (R423 to
R427). -/

namespace Sys2Proof.Machine

/-! ## Words of a stream (R68, R69) -/

def cwElem (w : W32) : Nat := bitsOf w.toNat 22 8
def cwField (w : W32) : Nat := bitsOf w.toNat 16 6
def cwValue (w : W32) : Nat := w.toNat % 65536
def isCtl (w : W32) (sel : Nat) : Bool := cwField w = 63 && cwElem w = sel

/-- Words after which a stream must have ended (R425). -/
def streamLimit (r : Region) : Nat := 4 * (48 * (r.rows * r.cols) + 16)

/-- Why a configuration is refused: cause, PLACE, index of the word (0xFFFF for the final contents), FIELD. -/
structure CfgFault where
  cause : Nat
  place : Nat := 0
  word : Nat := 0xFFFF
  field : Nat := 0x3F
deriving DecidableEq, Repr

/-! ## The region header (R70) -/

def sectRows (w : Nat) : List Nat := List.range' (bitsOf w 28 4) (bitsOf w 20 4 + 1)
def sectCols (w : Nat) : List Nat := List.range' (bitsOf w 24 4) (bitsOf w 16 4 + 1)
def sectElems (w : Nat) : List Nat := (sectRows w).flatMap fun i => (sectCols w).map fun j => i * 16 + j

/-- A section word: reserved bits 0, inside the region, its exit inside it, apart from the earlier ones. -/
def sectOk (r : Region) (before : List Nat) (w : Nat) : Bool :=
  let es := sectElems w
  w % 256 = 0 && bitsOf w 28 4 + bitsOf w 20 4 < r.rows && bitsOf w 24 4 + bitsOf w 16 4 < r.cols
    && es.contains (bitsOf w 8 8) && es.all fun e => !before.contains e

/-- The first bad header word among the sections. -/
def sectsBad (r : Region) : Nat → List Nat → List Nat → Option Nat
  | _, _, [] => none
  | i, before, w :: ws => if sectOk r before w then sectsBad r (i + 1) (before ++ sectElems w) ws else some i

/-- The checks of a header of n words at stream index 1 (R425, cause 0x42): the index of the offending word. -/
def headerBad (r : Region) (n : Nat) (hs : List Nat) : Option Nat :=
  let h0 := hs.getD 0 0
  let h1 := hs.getD 1 0
  let nsec := bitsOf h0 12 4
  if n < 2 || 10 < n then some 0
  else if bitsOf h0 28 4 + 1 ≠ r.rows || bitsOf h0 24 4 + 1 ≠ r.cols || h0 % 1024 ≠ 0 || nsec > 8 then some 1
  else if n ≠ 2 + nsec then some 0
  else if 1 ≤ h1 % 65536 && h1 % 65536 ≤ 255 then some 2
  else sectsBad r 3 [] (hs.drop 2)

/-! ## Reading a stream -/

/-- A stream as far as it is well formed: its header, and its writes as element position, field and value. -/
structure Stream1 where
  header : Option (List W32) := none
  writes : List (Nat × Nat × Nat) := []
deriving DecidableEq, Repr

/-- The words after the header (R69, R425): write commands, a checksum directly before the end, the end. `x` is the
exclusive-or of the words so far, `i` the index of the next. -/
def parseBody (r : Region) : List W32 → Nat → W32 → Stream1 → Except CfgFault Stream1
  | [], i, _, _ => .error { cause := 0x41, word := i }
  | w :: ws, i, x, acc =>
    if cwField w = 63 then
      if cwElem w = 1 then .ok { acc with writes := acc.writes.reverse }
      else if cwElem w = 2 then
        (if !(match ws with | e :: _ => isCtl e 1 | [] => false) then .error { cause := 0x41, word := i }
         else if cwValue w ≠ ((x >>> 16) ^^^ x).toNat % 65536 then .error { cause := 0x40, word := i }
         else .ok { acc with writes := acc.writes.reverse })
      else .error { cause := 0x41, word := i }
    else if cwField w ≥ 48 then .error { cause := 0x41, word := i, place := cwElem w, field := cwField w }
    else if !r.hasElem (cwElem w) then .error { cause := 0x41, word := i, place := cwElem w, field := cwField w }
    else parseBody r ws (i + 1) (x ^^^ w) { acc with writes := (cwElem w, cwField w, cwValue w) :: acc.writes }

def xorWords (ws : List W32) : W32 := ws.foldl (· ^^^ ·) 0

/-- A whole stream; `holds` says that the slot holds a header already. -/
def parseStream (r : Region) (holds : Bool) (ws : List W32) : Except CfgFault Stream1 :=
  match ws with
  | [] => .error { cause := 0x41, word := 0 }
  | w :: rest =>
    if isCtl w 0 then
      let n := cwValue w
      let hs := rest.take n
      match headerBad r n (hs.map (·.toNat)) with
      | some i => .error { cause := 0x42, word := i }
      | none => parseBody r (rest.drop n) (n + 1) (w ^^^ xorWords hs) { header := some hs }
    else if !holds then .error { cause := 0x42, word := 0 }
    else parseBody r ws 0 0 {}

/-- Index just past the end-of-stream word, when it stands in the words. Header words are skipped. -/
def streamEnd : Nat → List W32 → Nat → Option Nat
  | _, [], _ => none
  | 0, w :: ws, i => if isCtl w 1 then some (i + 1) else streamEnd 0 ws (i + 1)
  | n + 1, _ :: ws, i => streamEnd n ws (i + 1)

/-! ## Fields by themselves (R71, R425, R426) -/

/-- Does a field hold no reserved code and no reserved bit? -/
def fieldOk (f v : Nat) : Bool :=
  if f = 0 then
    let op := bitsOf v 0 8
    opListed op && variantListed op (bitsOf v 8 4) && subListed op (bitsOf v 12 2)
  else if f ≤ 3 then bitsOf v 12 4 ≤ 9 && v % 1024 = 0
  else if f ≤ 5 then v < 256
  else if f = 11 then bitsOf v 10 2 = 0
  else if f = 14 then bitsOf v 14 2 ≠ 3 && bitsOf v 6 8 = 0
  else if f = 15 then bitsOf v 13 3 ≤ 4 && v % 512 = 0
  else if f = 17 then bitsOf v 8 6 = 0
  else if 18 ≤ f && f ≤ 25 then v % 4096 = 0
  else if f = 26 then bitsOf v 12 4 ≤ 6 && bitsOf v 9 3 ≤ 4 && v % 256 = 0
  else if f = 28 then v < 16
  else if f = 29 || f = 30 then v < 4
  else if f = 31 then v < 32
  else true

/-! ## The final contents, element by element (R425) -/

/-- Cause 0x43: the field at fault. A PASS without input is inert and lacks nothing (R71); a TAGA without input B is
a matter of 0x46. -/
def fieldBad (g : Cfg) : Option Nat :=
  match (List.range 48).find? fun f => !fieldOk f (g f) with
  | some f => some f
  | none =>
    let io := opInputs g.op g.variant
    match (List.range 3).find? fun i => g.kind i ≠ 0 && !(io.1 ++ io.2).contains i && !(g.op = opPass) with
    | some i => some (1 + i)
    | none =>
      if g.op = opPass && (g.kind 1 ≠ 0 || g.kind 2 ≠ 0) then some (if g.kind 1 ≠ 0 then 2 else 3)
      else if g.kind 0 = 9 then some 1
      else if g.op = opPass then none
      else if g.op = opAmrg && g.reads.isEmpty then some 1
      else ((opInputs g.op g.variant).1.find? fun i => g.kind i = 0 && !(g.op = opTaga && i = 1)).map (1 + ·)

/-- The drivers of an element's outgoing lanes, each with its field. -/
def Cfg.drivers (g : Cfg) : List (Nat × List Nat) :=
  (if g.op = opSwch then [(32, g.markerLanes)] else [(4, g.prim), (5, g.sec)])
    ++ [(32, g.dirLanes), (32, g.drainLanes)] ++ g.passes.map fun k => (18 + k, [k])

/-- Cause 0x44, a lane with two drivers: the later one's field. -/
def twoDrivers : List (Nat × List Nat) → List Nat → Option Nat
  | [], _ => none
  | (f, l) :: ds, seen => if l.any seen.contains then some f else twoDrivers ds (l ++ seen)

/-- Is an edge port named as the sending port of a ring channel of the region (R66, R425)? -/
def sendsRing (s : State) (r : Region) (p : Nat) : Bool :=
  match s.alloc? r.alloc with
  | none => false
  | some a => a.img.chans.any fun k => k.logSize ≠ 0 && k.src = r.ireg && ringPort r k.srcPort = p
where
  /-- The edge port that a channel entry means: its index counts from the region's origin (R376). -/
  ringPort (r : Region) (b : Nat) : Nat :=
    let d := b / 64
    let i := b % 16
    d * 16 + (if d % 2 = 0 then r.col0 + i else r.row0 + i)

/-- Cause 0x44, a route that leaves the region where nothing receives it: its field. -/
def routeBad (s : State) (c : Nat) (r : Region) (e : Nat) (g : Cfg) : Option Nat :=
  (g.drivers.find? fun d => d.2.any fun o =>
    match laneEnd e o with
    | .elem n _ =>
      !r.holds n && (match (s.core c).regionAt n with
        | none => true
        | some (_, m) => !s.joined r m)
    | .port p l => l = 1 && sendsRing s r p).map (·.1)

/-! ### Ordered MERGE (R427) -/

/-- The driver of an incoming lane inside a region: the element and its outgoing lane, with the hops walked. -/
def feeder (q : Core) (r : Region) (slot : Nat) : Nat → Nat → Nat → Nat → Option (Nat × Nat × Nat)
  | 0, _, _, _ => none
  | n + 1, e, key, hops =>
    match laneFrom e key with
    | .port _ _ => none
    | .elem m o =>
      if !r.holds m then none
      else match (q.cfg slot m).passFrom o with
        | some k => feeder q r slot n m k (hops + 1)
        | none => some (m, o, hops + 1)

def minOpt (a b : Option Nat) : Option Nat :=
  match a, b with
  | some x, some y => some (min x y)
  | some x, none => some x
  | none, y => y

/-- The outgoing lanes on which an element sends results of its own. -/
def Cfg.feeds (g : Cfg) : List Nat := if g.op = opSwch then g.markerLanes else mergeLanes g.prim g.sec

/-- The least capacity of an arm from a STEER to an input of an element (R427). -/
def armCap (q : Core) (r : Region) (slot steer : Nat) : Nat → Nat → Nat → Option Nat
  | 0, _, _ => none
  | n + 1, e, i =>
    let g := q.cfg slot e
    match (if g.isTok i then feeder q r slot 300 e (g.source i) 0 else none) with
    | none => none
    | some (m, o, hops) =>
      let here := 2 * hops + g.depth i
      if !((q.cfg slot m).works && (q.cfg slot m).feeds.contains o) then none
      else if m = steer then some here
      else
        let up := (q.cfg slot m).tokInputs.foldl (fun b j => minOpt b (armCap q r slot steer n m j)) none
        up.map (here + ·)

/-- Does a credit pulse sent on a route reach the STEER's CRIN, forwarded on the way (R60, R427)? -/
def creditReaches (q : Core) (r : Region) (slot steer : Nat) : Nat → List (Nat × Nat) → List (Nat × Nat) → Bool
  | 0, _, _ => false
  | _ + 1, [], _ => false
  | n + 1, (e, route) :: ws, seen =>
    match pulseEnd e route with
    | none => creditReaches q r slot steer n ws seen
    | some m =>
      let into := oppDir (route % 4) + 4 * (route / 4)
      if !r.holds m || seen.contains (m, into) then creditReaches q r slot steer n ws seen
      else
        let g := q.cfg slot m
        if m = steer && into = g.crin then true
        else
          let next := if g.env && g.enRoute = into then
            ((List.range 4).filter fun d => g.fwd.testBit d).map fun d => (m, d) else []
          creditReaches q r slot steer n (next ++ ws) ((m, into) :: seen)

/-- The STEER that feeds a MERGE's input C. -/
def mergeSteer (q : Core) (r : Region) (slot e : Nat) : Option Nat :=
  match feeder q r slot 300 e ((q.cfg slot e).source 2) 0 with
  | none => none
  | some (m, o, _) => if (q.cfg slot m).dirLanes.contains o then some m else none

/-- Cause 0x45: the MERGE is unsafe. -/
def mergeBad (q : Core) (r : Region) (slot e : Nat) : Bool :=
  let g := q.cfg slot e
  match mergeSteer q r slot e with
  | none => true
  | some m =>
    let sg := q.cfg slot m
    let arm (i : Nat) : Bool := match armCap q r slot m 300 e i with
      | some n => sg.dqd ≤ n
      | none => false
    !(g.isTok 2 && fedBy q r slot m sg.dirLanes = [(e, 2)] && !g.credit.isEmpty
      && creditReaches q r slot m 1000 (g.credit.map fun k => (e, k)) [] && arm 0 && arm 1)

/-! ### Tag pools and controller trees (R288, R30) -/

def tagasOf (q : Core) (r : Region) (slot : Nat) : List Nat :=
  r.elems.filter fun e => (q.cfg slot e).op = opTaga

/-- Cause 0x46 at an element. (DEDUCED, log 55.) -/
def tagBad (q : Core) (r : Region) (slot e : Nat) : Bool :=
  let g := q.cfg slot e
  let ts := tagasOf q r slot
  if g.op = opTaga then ts.head? ≠ some e || !g.isTok 1
  else if g.op = opTagf then
    match ts with
    | [t] =>
      let hit := reach q r slot true (fun m => (q.cfg slot m).op = opTaga) reachFuel (r.into e g.sec) []
      !hit.any fun p => p.1 = t && ((q.cfg slot t).takers p.2).contains 1
    | _ => true
  else if g.isLoopExit then
    match ts with
    | [t] =>
      (match feeder q r slot 300 e (g.source 2) 0 with
       | some (m, o, _) => !(m = t && (q.cfg slot t).sec.contains o)
       | none => true) || !g.isTok 2
    | _ => true
  else false

/-- CNT elements that an enable pulse on some routes reaches, through elements that forward it. -/
def kidsOf (q : Core) (r : Region) (slot : Nat) : Nat → List (Nat × Nat) → List (Nat × Nat) → List Nat
  | 0, _, _ => []
  | _ + 1, [], _ => []
  | n + 1, (e, route) :: ws, seen =>
    match pulseEnd e route with
    | none => kidsOf q r slot n ws seen
    | some m =>
      let into := oppDir (route % 4) + 4 * (route / 4)
      if !r.holds m || seen.contains (m, into) then kidsOf q r slot n ws seen
      else
        let g := q.cfg slot m
        if g.env && g.enRoute = into then
          let next := ((List.range 4).filter fun d => g.fwd.testBit d).map fun d => (m, d)
          (if g.op = opCnt then [m] else []) ++ kidsOf q r slot n (next ++ ws) ((m, into) :: seen)
        else kidsOf q r slot n ws ((m, into) :: seen)

/-- Is the controller tree under an element at most n levels deep? -/
def treeFits (q : Core) (r : Region) (slot : Nat) : Nat → Nat → Bool
  | 0, _ => false
  | n + 1, e =>
    let g := q.cfg slot e
    if g.op ≠ opCnt || g.node = 0 then true
    else (kidsOf q r slot 1000 ((setBits g.enOut).map fun k => (e, k)) []).all fun m => treeFits q r slot n m

/-- Cause 0x47 at an element: the field at fault. -/
def limitBad (q : Core) (r : Region) (slot e : Nat) : Option Nat :=
  let g := q.cfg slot e
  let n := if g.gang = 0 then 1 else if g.gang = 1 then 2 else if g.gang = 2 then 4 else 16
  let lead := e - e % n
  if g.gang ≠ 0 && !(List.range' lead n).all (fun m => r.holds m && q.cfg slot m 0 = g 0) then some 0
  else if g.gang ≠ 0 && g.gidx ≠ e % n then some 28
  else if g.op = opRotz then
    let z := g.opt 0 % 512
    let u := if g.sub = 0 then 1 else if g.sub = 1 then 16 else 8
    if z = 0 || 384 < z || z * u > 32 * n then some 32 else none
  else if g.op = opMins then (if g.cntA < 2 || 32 < g.cntA then some 12 else none)
  else if g.op = opCrcs then (if g.opt 0 % 64 = 0 || 32 < g.opt 0 % 64 then some 32 else none)
  else if g.op = opMma then (if 8 ≤ g.variant && 6 ≤ g.variant % 8 then some 0 else none)
  else if g.op = opCnt && g.node ≠ 0 then
    (if (setBits g.doneIn).length ≠ (setBits g.enOut).length then some 11
     else if treeFits q r slot 4 e then none else some 11)
  else none

/-- The checks of R425 over the final contents of a slot at one element, in the table's order. -/
def elemBad (s : State) (c : Nat) (r : Region) (slot e : Nat) : Option CfgFault :=
  let q := s.core c
  let g := q.cfg slot e
  let at_ (cause : Nat) (f : Option Nat) : Option CfgFault :=
    f.map fun f => { cause, place := r.posOf e, field := f }
  (at_ 0x43 (fieldBad g)).orElse fun _ =>
  (at_ 0x44 (twoDrivers g.drivers [])).orElse fun _ =>
  (at_ 0x44 (routeBad s c r e g)).orElse fun _ =>
  (at_ 0x45 (if g.op = opMerge && g.works && mergeBad q r slot e then some 0x3F else none)).orElse fun _ =>
  (at_ 0x46 (if tagBad q r slot e then some 0x3F else none)).orElse fun _ =>
  at_ 0x47 (limitBad q r slot e)

/-- The first failure in ascending ELEM. -/
def contentsBad (s : State) (c : Nat) (r : Region) (slot : Nat) : Option CfgFault :=
  r.elems.findSome? (elemBad s c r slot)

/-- The writes of a stream in a slot of a region (R72, R73). -/
def writeConfig (m : SMap (BitVec 16)) (r : Region) (slot : Nat) (ws : List (Nat × Nat × Nat)) : SMap (BitVec 16) :=
  ws.foldl (fun m w =>
    let k := cfgKey slot (r.elemAt w.1) w.2.1
    if w.2.2 = 0 then m.del k else m.put k (BitVec.ofNat 16 w.2.2)) m

end Sys2Proof.Machine
end

