-- ==== Sys2Proof/Machine/Release.lean ====
section
/-! DEFINITION. Giving back what an allocation holds: a region's elements, ports and number (R43, R262, R264, R324),
a member's context and memory, and what waits for the region in the configuration path. -/

namespace Sys2Proof.Machine

/-- A region number that names no region: a command of a region that has been freed (R262). -/
def noRegion : Nat := 255

/-- What stays in an element whose region has left: its registers and its accumulator, with their tags (R97, R130). -/
def Elem.left (v : Elem) : Elem :=
  { priv := { own := v.priv.own, ctr := v.priv.ctr, xa := v.priv.xa } }

/-- A port that no region holds: its sequence number and the statuses of its DONE bindings stay (R255, R258). -/
def Port.vacated (p : Port) : Port := { seqNext := p.seqNext, dones := p.dones }

/-- Is an access of a load, or of an accumulator command, that its core no longer holds? -/
def Core.orphan (q : Core) (c : Nat) (a : Access) : Bool :=
  match a.client with
  | .loader d => d = c && q.loading.isNone
  | .xa d _ id _ _ => d = c && !q.xaCmds.any fun k => k.cmd.id = id
  | _ => false

/-- Accesses of loads and commands that have gone leave with them. -/
def State.dropOrphans (s : State) (c : Nat) : State := s.withdrawAll ((s.core c).orphan c)

/-- A region leaves its core: its tokens are dropped, its slots return to 0, and commands that still name it name no
region. -/
def State.freeRegion (s : State) (c rn : Nat) : State :=
  match s.region? c rn with
  | none => s
  | some r =>
    (s.updCore c fun q =>
      { q with
        regions := q.regions.del rn
        elems := r.elems.foldl (fun m e => m.upd e Elem.left) q.elems
        ports := r.ports.foldl (fun m p => m.upd p Port.vacated) q.ports
        config := q.config.filter fun k => !r.elems.contains (k.1 / 64 % 256)
        cfgPath := (q.cfgPath.filter fun k => k.region ≠ rn || k.ctx.isSome).map fun k =>
          if k.region = rn then { k with region := noRegion } else k
        installs := q.installs.del rn
        loading := q.loading.filter fun l => l.cmd.region ≠ rn
        xaCmds := q.xaCmds.filter fun k => k.cmd.region ≠ rn }).dropOrphans c

/-- A region of an area reserved for SPAWN gives it back (R43). -/
def State.freeArea (s : State) (a c rn : Nat) : State :=
  s.updAlloc a fun k => { k with areas := k.areas.map fun w => if w.core = c && w.used = some rn then { w with used := none } else w }

/-- A member leaves its core: its context, partition and buffers return to the pool. -/
def State.freeContext (s : State) (c x : Nat) : State :=
  (s.updCore c fun q =>
    { q with
      ctxs := q.ctxs.del x
      oldRegs := match q.ctxs.look x with | some k => q.oldRegs.put x k.regs | none => q.oldRegs
      xaCmds := q.xaCmds.filter fun k => k.cmd.ctx ≠ some x
      cfgPath := q.cfgPath.filter fun k => k.ctx ≠ some x }).dropOrphans c

/-- Every region and context of an allocation leaves its core (R21). -/
def State.freeMembers (s : State) (a : Nat) : State :=
  match s.alloc? a with
  | none => s
  | some k =>
    k.members.foldl (fun s m =>
      let rs := (s.core m.core).regions.filter fun e => e.2.alloc = a
      (rs.foldl (fun s e => s.freeRegion m.core e.1) s).freeContext m.core m.ctx) s

/-- An access that only translates: a walk's table read, or a page ahead of a binding. -/
def Access.translates (a : Access) : Bool :=
  match a.client with
  | .walk _ _ | .ahead _ _ _ _ => true
  | _ => false

/-- Every TLB entry and every queued translation of an allocation is discarded, with its walks (R125). -/
def State.dropTranslations (s : State) (a : Nat) : State :=
  let s := s.withdrawAll fun w => w.alloc = a && w.translates
  { s with cores := s.cores.mapVal fun _ q =>
             { q with
               tlb := q.tlb.filter fun t => t.alloc ≠ a
               ports := q.ports.mapVal fun _ p => { p with bindings := p.bindings.map fun b =>
                 if b.alloc = a then { b with translated := [] } else b } }
           dies := s.dies.mapVal fun _ d => { d with walks := d.walks.filter fun w => w.alloc ≠ a } }

/-- What is still on its way of an allocation that leaves is dropped: its accesses, its tokens on die links, slots on
their way to its rings, its event signals (R127, R274). -/
def State.dropWork (s : State) (a : Nat) : State :=
  let s := (s.withdrawAll fun w => w.alloc = a).dropFlights fun f =>
    match f.what with
    | .token b _ _ _ _ _ => b = a
    | _ => false
  { s with
    eventMsgs := s.eventMsgs.filter fun e => e.alloc ≠ a
    slotReturns := s.slotReturns.filter fun k => ((s.ctx? k.rxCore k.ctx).map (·.alloc)) ≠ some a }

/-- An allocation becomes ENDED: it holds nothing any more, and nothing is cleared (R21, R22). -/
def State.endAlloc (s : State) (a : Nat) : State :=
  (((s.dropWork a).freeMembers a).dropTranslations a).updAlloc a fun k =>
    { k with st := .ended, members := [], areas := [], spawnQ := [] }

/-- A placement is undone: the generations stamped for it die with it (R323, R446). -/
def State.undoPlacement (s : State) (a : Nat) : State :=
  { ((s.dropWork a).freeMembers a).dropTranslations a with allocs := s.allocs.del a }

/-- A packet is refused (R445): it counts as completed and takes no effect; one record is written. -/
def State.refusePacket (s : State) (id cause : Nat) (info : Nat) : State :=
  match s.teasel.packets.find? (·.id = id) with
  | none => s
  | some p =>
    let d0 := (p.d.getD 0 0).toNat
    let ty := d0 % 256
    let named := ty = 1 || ty = 8 || ty = 9 || ty = 10
    let hasStrm := ty = 1 || ty = 2 || ty = 5 || ty = 7
    let r : FaultRec :=
      { cause := BitVec.ofNat 8 cause, src := 6, alloc := if named then BitVec.ofNat 8 (d0 / 2 ^ 24) else 0xFF,
        strm := if hasStrm then BitVec.ofNat 8 (bitsOf d0 16 5) else 0xFF, addr := BitVec.ofNat 64 p.addr,
        info := BitVec.ofNat 64 (d0 / 2 ^ 32 * 2 ^ 32 + p.queue * 2 ^ 24 + info * 256 + ty) }
    let s := s.report r
    let s := s.updQueue p.queue fun q => { q with refused := true }
    s.updTeasel fun t => { t with packets := t.packets.map fun w => if w.id = id then { w with st := .finished, refused := true } else w }

end Sys2Proof.Machine
end

