-- ==== Sys2Proof/Machine/Streams.lean ====
section
/-! DEFINITION. Bindings and their items (R154 to R158, R246 to R258, R397 to R399, R437, R440): activation, moves
between memory and a port, gather and scatter requests, translation ahead, status records and completion. -/

namespace Sys2Proof.Machine

/-! ## Parts -/

def State.updBinding (s : State) (c p seq : Nat) (f : Binding → Binding) : State :=
  s.updPort c p fun w => { w with bindings := w.bindings.map fun b => if b.seq = seq then f b else b }

/-- Items of a binding in which a fault has just been detected keep the slot count of this moment (R389). -/
def Binding.stampFaults (slot : W32) (b : Binding) : Binding :=
  { b with items := b.items.map fun i =>
      if (i.failed || i.poisoned) && i.faultSlot.isNone then { i with faultSlot := some slot } else i }

/-- SLOTCNT of the stream of an allocation, as a core holds it. -/
def State.slotOf (s : State) (c a : Nat) : W32 := (s.markView c (s.strmOf a)).slot

/-- A change of a binding in whose items faults may be detected. -/
def State.updItems (s : State) (c p seq : Nat) (f : Binding → Binding) : State :=
  s.updBinding c p seq fun b => (f b).stampFaults (s.slotOf c b.alloc)

def State.binding? (s : State) (c p seq : Nat) : Option Binding := (s.port c p).bindings.find? fun b => b.seq = seq

def Binding.updItem (b : Binding) (no : Nat) (f : Item → Item) : Binding :=
  { b with items := b.items.map fun i => if i.no = no then f i else i }

/-- A fault of an item: an access that was not performed, or poisoned data; the first fault gives the cause (R397). -/
def Item.note (i : Item) (failed : Bool) (cause : Nat) (addr : Word) : Item :=
  { i with failed := i.failed || failed, poisoned := i.poisoned || !failed,
           cause := if i.cause = 0 then BitVec.ofNat 8 cause else i.cause,
           addr := if i.failed || i.poisoned then i.addr else addr }

/-- A port in a fault record's PLACE, and its stream engine (R56, R389). -/
def portPlace (p : Nat) : BitVec 8 := BitVec.ofNat 8 (p / 16 * 64 + p % 16)
def portEngine (p : Nat) : Nat := p % 16

/-- The payload of an ERROR token that a stream engine makes (R400). -/
def engineError (c p cause : Nat) : W32 := errorPay cause (0xF0 + portEngine p) c

/-- Work in the background class: BCLS 01, or demoted (R245, R335). -/
def Binding.background (b : Binding) : Bool := b.pat.bcls = 1 || b.demoted

/-- The fields of a record that name a binding. -/
def State.bindingRecord (s : State) (c p : Nat) (b : Binding) (cause : Nat) : FaultRec :=
  let r := s.recordFor c b.alloc b.gen cause 1
  { r with unit := BitVec.ofNat 8 (portEngine p), place := portPlace p,
           strm := if b.background then 16 else r.strm, slot := if b.background then 0 else r.slot }

/-- Moves of a binding, or requests with 0 for no limit. -/
def Binding.total (b : Binding) : Nat := if b.pat.indexed then b.pat.cnt0.toNat else b.pat.totalMoves

def Binding.itemOf (b : Binding) (m : Nat) : Nat := if b.pat.endr = 0 then 0 else m / b.pat.itemMoves

/-- Items of a load or store binding (R247); those of a request port open as they come. -/
def Binding.itemTotal (b : Binding) : Nat :=
  if b.pat.indexed then 0
  else if b.pat.endr = 0 || b.pat.totalMoves = 0 then 1 else b.pat.totalMoves / b.pat.itemMoves

def Binding.openItem (b : Binding) : Binding := { b with items := b.items ++ [{ no := b.itemNo }], itemNo := b.itemNo + 1 }
def Binding.openTo (b : Binding) (no : Nat) : Binding := if b.itemNo ≤ no then b.openItem else b
def Binding.closeItem (b : Binding) (no : Nat) : Binding := b.updItem no fun i => { i with closed := true }

/-- The open item of a request port, opened when there is none. -/
def Binding.current (b : Binding) : Binding × Nat :=
  match b.items.getLast? with
  | some i => if i.closed then (b.openItem, b.itemNo) else (b, i.no)
  | none => (b.openItem, b.itemNo)

/-- Has a binding moved its last token and END through its port (R254)? -/
def Binding.through (b : Binding) (w : Port) : Bool :=
  (b.st = .active || b.st = .drained) &&
    let sent := b.fetched.isEmpty && !w.offered.any fun o => match o.2 with
      | some (q, _) => q = b.seq
      | none => false
    let taken := b.ended.isSome || ((!b.pat.indexed || b.pat.cnt0 != 0) && b.issued ≥ b.total && !b.endsAt && !b.discard)
    taken && (b.pat.writes || sent || b.ended.any (· ≠ 0))

def Port.active (w : Port) : Option Binding := w.bindings.find? fun b => b.st = .active && !b.through w

/-! ## Activation (R254) -/

/-- What a binding does as it becomes ACTIVE: one without data has its one item at once (R247). -/
def Binding.activate (b : Binding) : Binding :=
  let b := { b with st := .active }
  if b.pat.indexed || b.pat.totalMoves ≠ 0 then b
  else
    let b := b.openItem
    if b.pat.endr = 0 then b.closeItem 0
    else if b.pat.writes then { b with endsAt := true }
    else { b.closeItem 0 with fetched := [{ move := 0, item := 0, ready := true, toks := [{ kind := .endTile }] }] }

/-- Does the port's region run (R44, R47)? -/
def State.portLive (s : State) (c p : Nat) : Bool :=
  match (s.core c).regionAt (portElem p) with
  | none => false
  | some (_, r) => r.live

/-- BINDING_ACTIVATE. -/
def bindingActivate (c p : Nat) (s : State) : Option State :=
  if !s.portLive c p then none else
  let w := s.port c p
  match w.bindings.find? fun b => !b.through w with
  | none => none
  | some b =>
    if b.st ≠ .queued then none
    else
      some (s.setPort c p { w with bindings := w.bindings.map fun d =>
        if d.seq = b.seq then d.activate else if d.through w then { d with st := .drained } else d })

/-! ## Tokens at a port -/

/-- The item number that END tokens carry in `offered`: no item has it. -/
def endMark : Nat := 2 ^ 64

/-- Can the port's region take a token on a lane? -/
def State.portSpace (s : State) (c p l : Nat) : Bool :=
  match (s.core c).regionAt (portElem p) with
  | none => false
  | some (_, r) => r.live && ((s.elem c (portElem p)).lane (portLane p l)).space

/-- A token offered to the entry element of a port (R42, R56). -/
def State.offer (s : State) (c p l : Nat) (t : Token) (owner : Option (Nat × Nat)) : State :=
  let e := portElem p
  let s := s.updElem c e fun v => v.setLane (portLane p l) { v.lane (portLane p l) with
    stage := (v.lane (portLane p l)).stage ++ [t] }
  let s := s.updPort c p fun w => { w with offered := w.offered ++ [(l, owner)] }
  match (s.core c).regionAt e with
  | some (rn, _) => if t.isData then s.updRegion c rn (·.addSent 1) else s
  | none => s

/-- The head of an outgoing lane taken by the port's engine (R42). -/
def State.takeOut (s : State) (c p l : Nat) (t : Token) : State :=
  let s := s.updPort c p fun w => w.setOut l ((w.out l).drop 1)
  match (s.core c).regionAt (portElem p) with
  | some (rn, _) => if t.isData then s.updRegion c rn (·.addRecv 1) else s
  | none => s

/-- The number of the DATA or ERROR token at the head of a lane, among those put on it (R157). -/
def Port.headNo (w : Port) (l : Nat) : Nat := w.left.lookD l 0 + 1 - ((w.out l).filter Token.isData).length

/-- A ROUND at the head of a lane of a DET region's port closes the round there (R41, R167). -/
def dropRound (c p : Nat) (s : State) : Option State :=
  let w := s.port c p
  let closes (l : Nat) : Bool := match w.out l with
    | t :: _ => t.kind = .round
    | [] => false
  let go (l : Nat) : Option State := some (s.setPort c p { w.setOut l ((w.out l).drop 1) with
    rounds := w.rounds.put l (w.rounds.lookD l 0 + 1) })
  if closes 0 then go 0 else if closes 1 then go 1 else none

/-! ## Where a move's bytes lie -/

/-- A page in a binding's queue of translations. -/
def Binding.pageAt (b : Binding) (page : Nat) : Option PageEnd := (b.translated.find? fun t => t.1 = page).map (·.2)

/-- An access with the place that its address gives, or with its fault. -/
def Access.placedBy (a : Access) : Except Nat (Option (Nat × Attr)) → Access
  | .ok pl => { a with place := pl }
  | .error cause => { a with fault := some cause }

/-- An access of a binding with the places that are known: a load or store pattern takes those of the pages translated
ahead (R124), a fault among them met now (R437), and none while one of them is not known; a gather or scatter request
is translated on demand. A request of an unbounded pattern wraps round its buffer's end (R440; DEDUCED, log 70). -/
def Binding.placed (k : Ctx) (c : Nat) (b : Binding) (a : Access) : Option Access :=
  match addrForm a.addr with
  | .part _ | .reserved => some { a with fault := some 0x21 }
  | .buf n o =>
    some (match b.pat.indexed && b.pat.lo == b.pat.hi, k.bufs.look n with
      | true, some v =>
        if v.size < o + a.size && a.size ≤ v.size then
          { a with place := some (v.place c o, .normal), tail := some (v.place c 0, .normal), cut := v.size - o }
        else a.placedBy (k.placeAt c a.addr a.size)
      | _, _ => a.placedBy (k.placeAt c a.addr a.size))
  | .virt va =>
    let page := va / 65536
    let second := va % 65536 + a.size > 65536
    if b.pat.indexed then some a
    else match b.pageAt page, (if second then b.pageAt ((page + 1) % 2 ^ 32) else none) with
      | some (.fault cause), _ => some { a with fault := some cause }
      | some (.placed _ _), some (.fault cause) => some { a with fault := some cause }
      | some (.placed pa attr), some (.placed qa attr2) =>
        some { a with place := some (pa + va % 65536, attr), tail := some (qa, attr2) }
      | some (.placed pa attr), none => if second then none else some { a with place := some (pa + va % 65536, attr) }
      | _, _ => none

/-- Pages before a move's own leave the queue of translations, and a fault that has been met is removed (R124, R436,
R437). -/
def Binding.passPage (b : Binding) (a : Word) : Binding :=
  match addrForm a with
  | .virt va =>
    let last := (va + b.pat.tb - 1) % 2 ^ 48 / 65536
    let faulty : PageEnd → Bool
      | .fault _ => true
      | _ => false
    let l := b.translated.dropWhile fun t => t.1 ≠ va / 65536
    { b with translated := l.filter fun t => !((t.1 = va / 65536 || t.1 = last) && faulty t.2) }
  | _ => b

/-! ## The end of a move's access (R83, R87 to R90, R399) -/

/-- The cause of poison, which the tokens of one item from one line share: 0x26 when a read of it by this item found
the error (R399). -/
def Binding.poisonCause (b : Binding) (item line cause : Nat) : Binding × Nat :=
  if cause = 0x26 then ({ b with found := some (item, line) }, 0x26)
  else (b, if b.found = some (item, line) then 0x26 else cause)

/-- The tokens of a move made from what its access and its block's scale byte have come to. -/
def Binding.makeFrom (c p : Nat) (b : Binding) (f : Fetched) (e : Result) (sc : ScaleByte) : Binding :=
  let side := if b.pat.sideScale then sc.side else 0
  let err (cause : Nat) : List Token :=
    List.replicate b.pat.perMove { kind := .error, tag := f.tag, side, pay := engineError c p cause }
  let data (bs : List Byte) : List Token := (b.pat.toTokens bs).map fun v => { tag := f.tag, side, pay := v }
  let keep := b.pat.pacc
  let (b, toks, note, n) := match e with
    | .failed cause _ => (b, err cause, some (true, cause), 0)
    | .bytes bs none => (b, data bs, none, b.pat.tb)
    | .bytes bs (some cause) =>
      let (b, cause) := b.poisonCause f.item f.line cause
      (b, if keep then data bs else err cause, some (false, cause), b.pat.tb)
  let toks := match sc.cause with
    | some cause => if sc.failed || !keep then err cause else toks
    | none => toks
  let b := b.updItem f.item fun i =>
    let i := { i with waits := i.waits - 1, bytes := i.bytes + n }
    let i := match note with | some (x, cause) => i.note x cause f.addr | none => i
    match sc.cause with
    | some cause => i.note sc.failed cause (b.pat.scaleAddr (b.pat.blockOf f.no))
    | none => i
  let toks := if f.ends then toks ++ [{ kind := .endTile, pay := BitVec.ofNat 32 f.item }] else toks
  { b with fetched := b.fetched.map fun g => if g.move = f.move then { g with ready := true, toks } else g }

/-- What a read whose tokens are no longer wanted leaves in its item: its bytes and its fault (R397). -/
def Pattern.tally (q : Pattern) (i : Item) (a : Word) : Result → Item
  | .bytes _ none => { i with bytes := i.bytes + q.tb }
  | .bytes _ (some cause) => { i.note false cause a with bytes := i.bytes + q.tb }
  | .failed cause _ => i.note true cause a

/-- A move's tokens are made once its data and its scale byte have come. -/
def Binding.make (c p : Nat) (b : Binding) (f : Fetched) : Binding :=
  let scale := if b.pat.hasScale then b.scales.look (b.pat.blockOf f.no) else some {}
  match f.ready, f.got, scale with
  | false, some e, some sc => b.makeFrom c p f e sc
  | _, _, _ => b

def Binding.makeAll (c p : Nat) (b : Binding) : Binding := b.fetched.foldl (Binding.make c p) b

/-- A read of a load or gather has ended. -/
def State.readEnd (s : State) (c p seq move item line : Nat) (a : Word) (e : Result) : State :=
  s.updItems c p seq fun b =>
    if b.fetched.any (·.move = move) then
      let fs := b.fetched.map fun f => if f.move = move then { f with got := some e, line, addr := a } else f
      { b with fetched := fs }.makeAll c p
    else b.updItem item fun i => { b.pat.tally i a e with waits := i.waits - 1 }

/-- A scale byte has come, for every token of its block. -/
def State.scaleRead (s : State) (c p seq blk : Nat) (e : Result) : State :=
  let sc : ScaleByte := match e with
    | .failed cause _ => { cause := some cause, failed := true }
    | .bytes bs po => { side := bs.headD 0, cause := po }
  s.updItems c p seq fun b => { b with scales := b.scales.put blk sc }.makeAll c p

/-- A write of a store or scatter has ended (R397, R398, R437). -/
def State.writeEnd (s : State) (c p seq item n : Nat) (a : Word) (fail : Option Nat) : State :=
  s.updItems c p seq fun b => b.updItem item fun i =>
    let i := { i with waits := i.waits - 1 }
    match fail with
    | some cause => i.note true cause a
    | none => { i with bytes := i.bytes + n }

/-! ## Issuing moves -/

/-- Who pays for a binding's requests (R330). -/
def State.bindingPayer (s : State) (c : Nat) (b : Binding) : Payer := if b.background then .background else s.payerAt c b.ctx

/-- An access of move m of a binding. -/
def State.moveAccess (s : State) (c p : Nat) (b : Binding) (m no : Nat) (kind : AccKind) (a : Word) : Access :=
  { id := 0, client := .move c p b.seq m, alloc := b.alloc, kind, addr := a, size := b.pat.tb,
    chained := b.pat.orderedFlag, payer := s.bindingPayer c b, item := no }

/-- The access to the scale byte of a block. -/
def State.scaleAccess (s : State) (c p : Nat) (b : Binding) (blk no : Nat) (kind : AccKind) : Access :=
  { s.moveAccess c p b 0 no kind (b.pat.scaleAddr blk) with client := .scale c p b.seq blk, size := 1 }

/-- The scale byte of token n's block is asked for once (R83). -/
def State.askScale (s : State) (c p : Nat) (k : Ctx) (b : Binding) (n no : Nat) : State :=
  let blk := b.pat.blockOf n
  if !b.pat.hasScale || blk < b.scaleNext then s
  else
    (s.updBinding c p b.seq fun b => { b with scaleNext := blk + 1 }).enterAt c k (s.scaleAccess c p b blk no .load)

/-- Can a read of a DEVICE page be made now? It is never made ahead: the token goes to the port next (R122). -/
def State.mayRead (s : State) (c p : Nat) (b : Binding) (a : Access) : Bool :=
  !a.attrIs .device || (b.fetched.isEmpty && s.portSpace c p (if b.lane then 1 else 0))

/-- Would the read of a load's scale byte from a DEVICE page be made ahead? It is made when a token of its block goes to
the port next (R122). -/
def State.scaleAhead (s : State) (a : Access) : Bool :=
  match a.client, a.kind with
  | .scale c p seq blk, .load => a.attrIs .device && (s.binding? c p seq).any fun b =>
      b.pat.dir = 0 && b.ended.all (· = 0) && b.fetched.any (fun f => b.pat.blockOf f.no = blk)
        && !((b.fetched.head?.any fun f => b.pat.blockOf f.no = blk) && s.portSpace c p (if b.lane then 1 else 0))
  | _, _ => false

/-- The next read of a load binding (R115, R155, R246). At most 16 moves are read ahead. -/
def issueRead (c p : Nat) (k : Ctx) (b : Binding) (s : State) : Option State :=
  let m := b.issued
  if b.ended.isSome || m ≥ b.total || b.fetched.length ≥ 16 then none
  else
    let no := b.itemOf m
    let last := if b.pat.endr = 0 then m + 1 = b.total else b.pat.endsAfter m
    let b1 := b.openTo no
    let b1 := b1.updItem no fun i =>
      { i with waits := i.waits + 1, tokens := i.tokens + b.pat.perMove, closed := i.closed || last }
    let f : Fetched := { move := m, item := no, ends := b.pat.endr ≠ 0 && last, no := m * b.pat.perMove }
    let b1 := { b1 with issued := m + 1, fetched := b1.fetched ++ [f] }
    match k.queueOf b.pat with
    | some (i, v) =>
      if v.fill < b.pat.tb then none
      else
        let a := bufAddr i (v.rptr % v.size)
        let o := s.popBuf c b.ctx i k v b.pat.tb { s.bindingRecord c p b 0x26 with addr := a }
        let s := (o.st.updBinding c p b.seq fun _ => b1).askScale c p k b f.no no
        some (s.readEnd c p b.seq m no (v.place c (v.rptr % v.size) / 64) a
          (if o.foreign then .failed 0x24 else .bytes o.bytes o.poison))
    | none =>
      let a := b.pat.addrAt (b.pat.moveOffset m)
      (b.placed k c (s.moveAccess c p b m no .load a)).bind fun acc =>
        if s.mayRead c p b acc then
          some (((s.updBinding c p b.seq fun _ => b1.passPage a).askScale c p k b f.no no).enter acc)
        else none

/-- The bytes that tokens write, and whether under poison with the first ERROR's cause (R90, R398). -/
def Pattern.payload (q : Pattern) (ts : List Token) : List Byte × Option Nat :=
  match ts.find? fun t => t.kind = .error with
  | some t => (List.replicate q.tb 0, some (t.pay.toNat % 256))
  | none => (q.toBytes (ts.map (·.pay)), none)

/-- The entries of a run of bytes of one write, by offset: eight, four, two or one of them each (R405). -/
def logParts : Nat → List Byte → Nat → List (Nat × List Byte)
  | 0, _, _ => []
  | n + 1, bs, o =>
    if bs.isEmpty then []
    else
      let m := if 8 ≤ bs.length then 8 else if 4 ≤ bs.length then 4 else if 2 ≤ bs.length then 2 else 1
      (o, bs.take m) :: logParts n (bs.drop m) (o + m)

/-- The entries of a write: address, place and attribute, and bytes of each. -/
def Access.logEntries (a : Access) : List (Word × (Nat × Attr) × List Byte) :=
  let h := a.headLen
  let base := if a.cut = 0 then a.addr + BitVec.ofNat 64 h else a.addr - BitVec.ofNat 64 (a.addr.toNat % 2 ^ 20)
  ((logParts 40 (a.data.take h) 0).map fun e =>
      (a.addr + BitVec.ofNat 64 e.1, (a.place.map fun p => (p.1 + e.1, p.2)).getD (0, .normal), e.2))
    ++ (logParts 40 (a.data.drop h) 0).map fun e =>
      (base + BitVec.ofNat 64 e.1, (a.tail.map fun p => (p.1 + e.1, p.2)).getD (0, .normal), e.2)

/-- Does the region of a port run in DET mode? -/
def State.detPort (s : State) (c p : Nat) : Bool :=
  match (s.core c).regionAt (portElem p) with
  | some (_, r) => r.det
  | none => false

/-- The round whose log a write of a binding belongs to, if any: one of a DET region, or of a scatter whose record carries
the DET flag (R41, R167). -/
def State.roundOf (s : State) (c p : Nat) (b : Binding) (l : Nat) : Option (BitVec 32) :=
  if s.detPort c p || (b.pat.dir = 3 && b.pat.detFlag) then some (BitVec.ofNat 32 ((s.port c p).rounds.lookD l 0)) else none

/-- An entry put into a log at its place in the order of issue. -/
def insertEntry (e : LogEntry) : List LogEntry → List LogEntry
  | [] => [e]
  | f :: fs => if e.no < f.no then e :: f :: fs else f :: insertEntry e fs

/-- A write of a round that has reached its home goes into its log instead; under an abort it is dropped (R167, R405, R411).
(DEDUCED, log 72.) -/
def State.logWrite (s : State) (a : Access) (c p seq : Nat) (n : BitVec 32) : State :=
  match (s.core c).regionAt (portElem p) with
  | none => s
  | some (rn, r) =>
    if r.phase = .aborting then s.updBinding c p seq fun b => b.updItem a.item fun i => { i with waits := i.waits - 1 }
    else
    let es : List LogEntry := a.logEntries.map fun e =>
      { va := e.1, op := none, size := e.2.2.length, round := n,
        value := BitVec.ofNat 64 (leNat e.2.2), elem := portElem p, port := p, seq, item := a.item, no := a.id,
        place := e.2.1.1, attr := e.2.1.2, mark := a.mark.getD (0, 0), poisoned := a.poisoned,
        clear := a.kind = .clear }
    let s := s.updRegion c rn fun r => { r with log := es.foldl (fun l e => insertEntry e l) r.log }
    s.updBinding c p seq fun b => b.updItem a.item fun i => { i with waits := i.waits + es.length - 1 }

/-- Bytes that logs of a core's regions have still to push into a buffer (R41). -/
def State.loggedPushes (s : State) (c i : Nat) : Nat :=
  (((s.core c).regions.flatMap fun r => r.2.log).filter fun e =>
    match addrForm e.va with | .buf j _ => j = i | _ => false).foldl (fun n e => n + e.size) 0

/-- A write issued for some tokens at an address: its item waits for it (R397, R398). `b` holds the tokens already
taken, `no` is the item and l the lane whose tokens are counted in `mark`. -/
def State.issueWrite (s : State) (c p : Nat) (k : Ctx) (b : Binding) (m no l : Nat) (a : Word) (ts : List Token)
    (mark : Nat) : Option State :=
  let w := b.pat.payload ts
  let poisoned := w.2.isSome
  let b1 := b.updItem no fun i =>
    let i := { i with waits := i.waits + 1 }
    match w.2 with | some cause => i.note false cause a | none => i
  match (if b.pat.indexed then none else k.queueOf b.pat) with
  | some (i, v) =>
    if v.space < b.pat.tb + s.loggedPushes c i then none
    else
      let s := s.updItems c p b.seq fun _ => b1
      match (if s.detPort c p then s.roundOf c p b l else none) with
      | none => some ((s.pushBuf c b.ctx i k v w.1 poisoned).writeEnd c p b.seq no b.pat.tb a none)
      | some n =>
        let acc := { s.moveAccess c p b m no .store (bufAddr i 0) with
          id := s.nextId, data := w.1, poisoned, mark := some (l, mark), place := some (v.place c 0, .normal) }
        some ({ s with nextId := s.nextId + 1 }.logWrite acc c p b.seq n)
  | none =>
    (b.placed k c (s.moveAccess c p b m no (if b.pat.clear then .clear else .store) a)).map fun acc =>
      (s.updItems c p b.seq fun _ => if b.pat.indexed then b1 else b1.passPage a).enter
        { acc with data := w.1, poisoned, mark := some (l, mark), round := s.roundOf c p b l }

/-- The scale byte of a block is the SIDE of its first token, written once as the block begins (R90).
(DEDUCED, log 74.) -/
def State.storeScale (s : State) (c p : Nat) (k : Ctx) (b : Binding) (m no l : Nat) (ts : List Token) (mark : Nat) :
    State :=
  let blk := b.pat.blockOf (m * b.pat.perMove)
  if !b.pat.hasScale || blk < b.scaleNext then s
  else
    let s := s.updBinding c p b.seq fun b =>
      { b.updItem no fun i => { i with waits := i.waits + 1 } with scaleNext := blk + 1 }
    s.enterAt c k
      { s.scaleAccess c p b blk no .store with
        data := [(ts.headD {}).side], mark := some (l, mark), round := s.roundOf c p b l }

/-! ## Stores -/

/-- A store takes the token at its port (R246, R247, R398). Fewer than 12 C16 tokens of a CB9 item that an END closes
short are dropped. (DESIGN CHOICE, log 116.) -/
def takeStore (c p : Nat) (k : Ctx) (b : Binding) (s : State) : Option State :=
  let w := s.port c p
  let l := if b.lane then 1 else 0
  let set (s : State) (b : Binding) : State := s.updItems c p b.seq fun _ => b
  match w.out l with
  | [] => none
  | t :: _ =>
    let took := s.takeOut c p l t
    let count (b : Binding) : Binding := if t.isData then { b with moved := b.moved + 1 } else b
    if b.discard || b.endsAt then
      let no := b.itemNo - 1
      if t.kind = .endTile then some (set took { b.closeItem no with discard := false, endsAt := false })
      else some (set took (count { (b.updItem no fun i => i.note true 0x4C 0) with discard := true }))
    else if b.issued ≥ b.total || b.ended.isSome then none
    else if t.kind = .endTile then
      if b.pat.endr = 0 then some took
      else
        let no := b.itemOf b.issued
        let b1 := b.openTo no
        let closed (b : Binding) : Binding :=
          { (b.updItem no fun i => { i.note true 0x4C 0 with closed := true }) with
            half := [], issued := (no + 1) * b.pat.itemMoves }
        if b.pat.isFp4w && !b.half.isEmpty then
          let a := b.pat.addrAt (b.pat.moveOffset b.issued)
          ((set took b1).issueWrite c p k b1 b.issued no l a b.half (w.headNo l - 1)).map fun s =>
            (s.storeScale c p k b1 b.issued no l b.half (w.headNo l - 1)).updItems c p b.seq closed
        else some (set took (closed b1))
    else
      let ts := b.half ++ [t]
      let no := b.itemOf b.issued
      let b1 := count (b.openTo no)
      if ts.length < b.pat.perMove then some (set took { b1 with half := ts })
      else
        let m := b.issued
        let a := b.pat.addrAt (b.pat.moveOffset m)
        let last := if b.pat.endr = 0 then m + 1 = b.total else b.pat.endsAfter m
        let b2 := { b1 with half := [] }
        ((set took b2).issueWrite c p k b2 m no l a ts (w.headNo l)).map fun s =>
          (s.storeScale c p k b2 m no l ts (w.headNo l)).updBinding c p b.seq fun b =>
            { (if last && b.pat.endr = 0 then b.closeItem no else b) with
              issued := m + 1, endsAt := b.pat.endr ≠ 0 && last }

/-! ## Loads -/

/-- The head of what has been fetched is offered to the port (R158, R246). -/
def deliverHead (c p : Nat) (b : Binding) (s : State) : Option State :=
  let l := if b.lane then 1 else 0
  match b.fetched with
  | [] => none
  | f :: rest =>
    if !f.ready || !s.portSpace c p l then none
    else
      match f.toks with
      | [] => some (s.updBinding c p b.seq fun b => { b with fetched := rest })
      | t :: ts =>
        let owner := if t.kind = .endTile then (b.seq, endMark) else (b.seq, f.item)
        let s := s.offer c p l t (some owner)
        some (s.updBinding c p b.seq fun b =>
          { b with moved := if t.isData then b.moved + 1 else b.moved,
                   fetched := if ts.isEmpty then rest else { f with toks := ts } :: rest,
                   scales := match rest.head? with
                     | some g => b.scales.filter fun e => b.pat.blockOf g.no ≤ e.1
                     | none => b.scales })

/-- The ACTIVE binding of a port moves a token, or issues the read of one. -/
def moveAt (c p : Nat) (s : State) : Option State :=
  if !s.portLive c p then none else
  match dropRound c p s with
  | some t => some t
  | none =>
    match (s.port c p).active with
    | none => none
    | some b =>
      match s.ctx? c b.ctx with
      | none => none
      | some k =>
        if b.pat.dir = 1 then takeStore c p k b s
        else if b.pat.dir = 3 then none
        else match deliverHead c p b s with
          | some t => some t
          | none => if b.pat.dir = 0 then issueRead c p k b s else none

/-! ## Request ports (R158, R247, R440) -/

/-- Is an earlier request of the port still to be performed, or a write of it still in a round's log? -/
def State.portBusy (s : State) (c p : Nat) : Bool :=
  (s.accesses.any fun a => a.got.isNone && a.ofPort c p)
    || (s.core c).regions.any fun r => r.2.log.any fun e => e.port = p

/-- The address of an index, or none where it lies outside the bounds (R422, R440). (DEDUCED, log 70.) -/
def Ctx.indexAddr (k : Ctx) (q : Pattern) (i : Nat) : Option Word :=
  let o : Int := (i : Int) * q.str0.toInt
  if q.lo != q.hi then (if q.inBounds o then some (q.addrAt o) else none)
  else match q.bufOf with
    | none => some (q.addrAt o)
    | some (n, _) =>
      match k.bufs.look n with
      | none => none
      | some v => some (bufAddr n (o % (v.size : Int)).toNat)

/-- A request counted: with CNT0 requests taken, the item closes or its END is due (R247). (DEDUCED, log 75.) -/
def Binding.countRequest (b : Binding) (no : Nat) : Binding :=
  let b := { b with issued := b.issued + 1 }
  if b.pat.cnt0.toNat ≠ 0 && b.issued = b.pat.cnt0.toNat then
    (if b.pat.endr = 0 then b.closeItem no else { b with endsAt := true })
  else b

def Binding.full (b : Binding) : Bool := b.pat.cnt0.toNat ≠ 0 && b.issued ≥ b.pat.cnt0.toNat

/-- The request at a gather port taken. (DEDUCED, log 69.) (DEDUCED, log 71.) -/
def gatherAt (c p : Nat) (s : State) : Option State :=
  if !s.portLive c p then none else
  let w := s.port c p
  match w.active with
  | none => none
  | some b =>
    let l := if b.lane then 1 else 0
    match w.out l, s.ctx? c b.ctx with
    | t :: _, some k =>
      if b.pat.dir ≠ 2 || b.ended.isSome || t.kind = .round || (b.full && t.kind ≠ .endTile) || (b.full && !b.endsAt) then none
      else
        let (b1, no) := b.current
        let f : Fetched := { move := b.issued, item := no, tag := t.tag, no := b.issued }
        let took := s.takeOut c p l t
        if t.kind = .endTile then
          some (took.updBinding c p b.seq fun _ =>
            { b1.closeItem no with
              endsAt := false
              fetched := b1.fetched ++ [{ f with move := endMark, ready := true, toks := [{ t with ctx := 0 }] }] })
        else
          let n := if t.kind = .error then 1 else b.pat.perMove
          let b2 := b1.updItem no fun i => { i with tokens := i.tokens + n, waits := i.waits + 1 }
          let b2 := { b2.countRequest no with fetched := b2.fetched ++ [f] }
          if t.kind = .error then
            let b3 := b2.updItem no fun i => { i.note true (t.pay.toNat % 256) 0 with waits := i.waits - 1 }
            some (took.updItems c p b.seq fun _ =>
              { b3 with fetched := b1.fetched ++ [{ f with ready := true, toks := [{ t with ctx := 0 }] }] })
          else if t.side.getLsbD 7 && s.portBusy c p then none
          else
            let took := took.updBinding c p b.seq fun _ => b2
            match k.indexAddr b.pat t.pay.toNat with
            | none =>
              some ((took.askScale c p k b f.no no).readEnd c p b.seq b.issued no 0
                (b.pat.addrAt ((t.pay.toNat : Int) * b.pat.str0.toInt)) (.failed 0x22))
            | some a =>
              (b.placed k c (s.moveAccess c p b b.issued no .load a)).map fun acc =>
                (took.askScale c p k b f.no no).enter acc
    | _, _ => none

/-- The index and the value at a scatter port taken. -/
def scatterAt (c p : Nat) (s : State) : Option State :=
  if !s.portLive c p then none else
  let w := s.port c p
  match w.active with
  | none => none
  | some b =>
    match s.ctx? c b.ctx with
    | none => none
    | some k =>
      if b.pat.dir ≠ 3 || b.ended.isSome then none
      else
        match w.out 0, w.out 1 with
        | i :: _, d =>
          if i.kind = .endTile then
            if b.full && !b.endsAt then none
            else
              let (b1, no) := b.current
              some ((s.takeOut c p 0 i).updBinding c p b.seq fun _ => { b1.closeItem no with endsAt := false })
          else match d with
            | [] => none
            | v :: _ =>
              if v.kind = .endTile then some (s.takeOut c p 1 v)
              else if i.kind = .round || v.kind = .round || b.full || (i.side.getLsbD 7 && s.portBusy c p) then none
              else
                let (b1, no) := b.current
                let b1 := { b1 with moved := b1.moved + 2 }
                let took := ((s.takeOut c p 0 i).takeOut c p 1 v).updBinding c p b.seq fun _ => b1
                let fail (cause : Nat) (a : Word) : Option State :=
                  some (took.updItems c p b.seq fun b => (b.updItem no fun j => j.note true cause a).countRequest no)
                if i.kind = .error then fail (i.pay.toNat % 256) 0
                else match k.indexAddr b.pat i.pay.toNat with
                  | none => fail 0x22 (b.pat.addrAt ((i.pay.toNat : Int) * b.pat.str0.toInt))
                  | some a =>
                    (took.issueWrite c p k b1 b.issued no 1 a [v] (w.headNo 1)).map fun s =>
                      (s.storeScale c p k b1 b.issued no 1 [v] (w.headNo 1)).updBinding c p b.seq fun b =>
                        b.countRequest no
        | [], v :: _ => if v.kind = .endTile then some (s.takeOut c p 1 v) else none
        | [], [] => none

/-! ## The turns of a stream engine (R324) -/

/-- What the binding at a port can do. -/
def portStep (c p : Nat) (s : State) : Option State :=
  match moveAt c p s with
  | some t => some t
  | none =>
    match gatherAt c p s with
    | some t => some t
    | none => scatterAt c p s

/-- A stream engine takes its ports in the order N, E, S, W in turn: those between the side that it served last and port
p can do nothing now. -/
def State.engineTurn (s : State) (c p : Nat) : Bool :=
  let u := portEngine p
  let last := (s.core c).engineLast.lookD u 3
  (List.range 4).all fun i =>
    (p / 16 + 4 - (last + 1) % 4) % 4 ≤ i || (portStep c ((last + 1 + i) % 4 * 16 + u) s).isNone

/-- A step of the binding at a port, in the engine's turn. -/
def State.inTurn (s : State) (c p : Nat) (f : Nat → Nat → State → Option State) : Option State :=
  if s.engineTurn c p then
    (f c p s).map fun t => t.updCore c fun q => { q with engineLast := q.engineLast.put (portEngine p) (p / 16 % 4) }
  else none

/-- STREAM_MOVE. -/
def streamMove (c p : Nat) (s : State) : Option State := s.inTurn c p moveAt

/-- GATHER_REQUEST. -/
def gatherRequest (c p : Nat) (s : State) : Option State := s.inTurn c p gatherAt

/-- SCATTER_REQUEST. -/
def scatterRequest (c p : Nat) (s : State) : Option State := s.inTurn c p scatterAt

/-! ## Translation ahead (R124, R437) -/

/-- The first page, in the order of a pattern's moves from m on, that has not been translated, with the pages met before it;
at most n moves are looked at. -/
def Binding.nextPage (b : Binding) : Nat → Nat → List Nat → Option (Nat × List Nat)
  | 0, _, _ => none
  | n + 1, m, seen =>
    if m ≥ b.total then none
    else match addrForm (b.pat.addrAt (b.pat.moveOffset m)) with
      | .virt va =>
        let known (g : Nat) : Bool := (b.pageAt g).isSome
        let g1 := va / 65536
        let g2 := (va + b.pat.tb - 1) % 2 ^ 48 / 65536
        if !known g1 then some (g1, seen) else if !known g2 then some (g2, g1 :: seen)
        else b.nextPage n (m + 1) (g1 :: g2 :: seen)
      | _ => b.nextPage n (m + 1) seen

/-- The page that a binding translates next: up to 16 are kept ahead of its position, and the page of its next move
is translated in any case. (DESIGN CHOICE, log 66.) -/
def Binding.wantsPage (k : Ctx) (b : Binding) : Option (Nat × List Nat) :=
  if b.pat.indexed || b.ended.isSome || (k.queueOf b.pat).isSome then none
  else match addrForm b.pat.base with
    | .virt _ => b.nextPage (if b.translated.length < 16 then 1024 else 1) b.issued []
    | _ => none

/-- A page put into the queue behind the pages that the pattern meets before it; of more than 16 the farthest goes (R124,
R437). -/
def queuePage (seen : List Nat) (e : Nat × PageEnd) (l : List (Nat × PageEnd)) : List (Nat × PageEnd) :=
  let after := (l.reverse.takeWhile fun t => !seen.contains t.1).length
  (l.take (l.length - after) ++ e :: l.drop (l.length - after)).take 16

/-- The end of a page's translation: it is kept where it was asked for. (DEDUCED, log 65.) -/
def State.pageEnd (s : State) (c p seq page : Nat) (e : PageEnd) : State :=
  s.updBinding c p seq fun b => { b with translated := b.translated.map fun t => if t.1 = page then (page, e) else t }

/-- What an access that only translates a page has found. -/
def Access.pageFound (a : Access) : PageEnd :=
  match a.fault, a.place with
  | some cause, _ => .fault cause
  | none, some (pa, attr) => .placed pa attr
  | none, none => .asked

/-- TRANSLATE_AHEAD: the next page is looked up in the TLB, or waits for a walk. -/
def translateAhead (c p : Nat) (s : State) : Option State :=
  let w := s.port c p
  match w.bindings.findSome? fun b =>
      match s.ctx? c b.ctx with
      | some k => (b.wantsPage k).map fun g => (b, g)
      | none => none with
  | none => none
  | some (b, g, seen) =>
    let kind : AccKind := if b.pat.writes then .store else .load
    let q := s.lookUp 1
      { s.moveAccess c p b 0 0 kind (BitVec.ofNat 64 (g * 65536)) with
        id := s.nextId, client := .ahead c p b.seq g, size := 0 }
    let t := q.1.updBinding c p b.seq fun b => { b with translated := queuePage seen (g, q.2.pageFound) b.translated }
    some (if q.2.missing.isNone then t else { t with accesses := t.accesses ++ [q.2], nextId := t.nextId + 1 })

/-! ## Items and completion (R248, R254, R258, R397) -/

def Binding.handle (b : Binding) : Word := handleOf b.seq b.named b.lane

/-- An item finishes: its state, the record in the status area or, without one, a fault record, and the counts. -/
def State.finishItem (s : State) (c p : Nat) (b : Binding) (i : Item) : State :=
  match s.ctx? c b.ctx with
  | none => s
  | some k =>
    let m := s.strmOf b.alloc
    let slot := s.slotOf c b.alloc
    let past := b.deadline != 0 && (slot - b.deadline).toNat < 2 ^ 31
    let st : Nat := if i.failed then 2 else if i.poisoned then 3 else if past then 1 else 0
    let cause := if st ≥ 2 then i.cause else 0
    let s :=
      if b.pat.logn ≠ 0 then
        let rec0 := leBytes i.no 4 ++ leBytes st 1 ++ [cause] ++ leBytes 0 2 ++ leBytes i.bytes 4 ++ leBytes slot.toNat 4
        let a := partAddr (b.pat.soff + 16 * (i.no % 2 ^ b.pat.logn))
        (s.engineWrite c k a rec0).st
      else if st ≥ 2 then
        let r := s.bindingRecord c p b cause.toNat
        s.report { r with
          item := true, slot := if b.background then 0 else i.faultSlot.getD r.slot, addr := i.addr, info := BitVec.ofNat 64 (i.no % 2 ^ 32 * 2 ^ 32 + b.handle.toNat) }
      else s
    let s := if st = 1 && m < 16 then s.updStream m fun k => { k with laten := k.laten + 1 } else s
    s.updBinding c p b.seq fun b =>
      { b with items := b.items.filter fun j => j.no ≠ i.no, finished := b.finished + 1,
               failAny := b.failAny || st ≥ 2, lateAny := b.lateAny || st = 1 }

def Item.allOver (i : Item) : Bool := i.closed && i.waits = 0 && i.tokens = 0

/-- The next item of a binding that finishes: an open one that is over or, when the binding has been ended, one that
was never opened. (DEDUCED, log 67.) -/
def Binding.finishes (b : Binding) : Option (Binding × Item) :=
  match b.items.find? Item.allOver, b.ended with
  | some i, _ => some (b, i)
  | none, some cause =>
    if b.items.isEmpty && b.itemNo < b.itemTotal then
      some (b.openItem, { no := b.itemNo, failed := true, closed := true, cause, faultSlot := some b.endSlot })
    else none
  | none, none => none

/-- ITEM_FINISH. -/
def itemFinish (c p : Nat) (s : State) : Option State :=
  (((s.port c p).bindings.findSome? Binding.finishes)).map fun f =>
    (s.updBinding c p f.1.seq fun _ => f.1).finishItem c p f.1 f.2

/-- BINDING_DONE: the binding leaves its port; the port keeps the statuses of its last 16 (R254, R258). -/
def bindingDone (c p : Nat) (s : State) : Option State :=
  let w := s.port c p
  match w.bindings.find? fun b => b.through w && b.items.isEmpty && (b.ended.isNone || b.itemTotal ≤ b.itemNo) with
  | none => none
  | some b =>
    let d : DoneStatus := { seq := b.seq, ctx := b.ctx, items := b.finished, failAny := b.failAny, lateAny := b.lateAny,
                            cancelled := b.ended = some 0 }
    let ds := w.dones ++ [d]
    some (s.setPort c p { w with bindings := w.bindings.filter fun k => k.seq ≠ b.seq, dones := ds.drop (ds.length - 16) })

/-- A binding is cancelled, cut (cause 0) or aborted: it issues no further access, its unfinished items are FAILED,
and an ACTIVE load sends the tokens it has read and, with an item open, one END (R257, R335, R411).
(DEDUCED, log 68.) -/
def Binding.finish (b : Binding) (cause : BitVec 8) : Binding :=
  let sends := b.st = .active && !b.pat.writes && cause = 0
  let begun (i : Item) : Bool :=
    i.bytes ≠ 0 || i.failed || i.poisoned || b.fetched.any fun f => f.item = i.no
  let close : List Fetched :=
    match b.items.find? fun i => !i.closed && begun i with
    | some i =>
      if sends && b.pat.dir = 0 && b.pat.endr ≠ 0 then
        [{ move := endMark, item := i.no, ready := true, toks := [{ kind := .endTile, pay := BitVec.ofNat 32 i.no }] }]
      else []
    | none => []
  { b with
    ended := some (b.ended.getD cause)
    items := b.items.map fun i =>
      { i with failed := true, closed := true, tokens := if sends then i.tokens else 0,
               cause := if i.cause = 0 then cause else i.cause }
    fetched := if sends then b.fetched ++ close else b.fetched.filter fun f => !f.ready
    half := [], endsAt := false, discard := false
    st := if sends then .active else .drained }

/-- Is a request deferred: at the arbiter, or at a die link (R328)? It has not been issued (R449). -/
def State.isHeld (s : State) (a : Access) : Bool :=
  (a.deferred.isSome && !a.granted)
    || (a.got.isNone && s.flights.any fun f => f.what = .request a.id && f.deferred.isSome)

/-- Moves read ahead whose tokens will not be made. What their reads have come to stays with their items, and an item whose
last move is among them is open again (R257, R397). -/
def Binding.dropMoves (b : Binding) (gone : Fetched → Bool) : Binding :=
  let back (b : Binding) (f : Fetched) : Binding := b.updItem f.item fun i =>
    let i := { i with tokens := i.tokens - b.pat.perMove, closed := i.closed && !f.ends }
    match f.got with
    | some e => { b.pat.tally i f.addr e with waits := i.waits - 1 }
    | none => i
  { (b.fetched.filter gone).foldl back b with fetched := b.fetched.filter fun f => !gone f }

/-- A move, or a scale byte, whose access is withdrawn. -/
def Binding.withdraw (b : Binding) (a : Access) : Binding :=
  match a.client with
  | .move _ _ _ m =>
    (b.updItem a.item fun i => { i with waits := i.waits - 1 }).dropMoves fun f => f.move = m
  | .scale _ _ _ blk =>
    if a.kind = .load then b.dropMoves fun f => !f.ready && b.pat.blockOf f.no = blk
    else b.updItem a.item fun i => { i with waits := i.waits - 1 }
  | _ => b

/-- The entries of a binding in a log whose rounds have not been applied are dropped by an abort (R411). -/
def State.dropLog (s : State) (c p seq : Nat) : State :=
  match (s.core c).regionAt (portElem p) with
  | none => s
  | some (rn, r) =>
    let mine (e : LogEntry) : Bool := e.port = p && e.seq = seq
    (r.log.filter mine).foldl (fun s e => s.updBinding c p seq fun b =>
        b.updItem e.item fun i => { i with waits := i.waits - 1 })
      (s.updRegion c rn fun r => { r with log := r.log.filter fun e => !mine e })

/-- A binding ends before its work is done: what has not been issued is withdrawn, with the requests behind a deferred one that
have not been granted (R257, R335, R411, R449). -/
def State.endBinding (s : State) (c p seq : Nat) (cause : BitVec 8) : State :=
  match s.binding? c p seq with
  | none => s
  | some b =>
    if b.ended.isSome then s
    else
      let mine := s.accesses.filter (Access.ofBinding c p seq)
      let gone (a : Access) : Bool := a.ofBinding c p seq &&
        (s.isHeld a || (!a.granted && (mine.takeWhile fun b => b.id ≠ a.id).any s.isHeld))
      let held := mine.filter gone
      let t := if cause = 0x7B then s.dropLog c p seq else s
      (t.withdrawAll gone).updItems c p seq fun b =>
        { (held.foldl Binding.withdraw b).finish cause with endSlot := s.slotOf c b.alloc }

def execBindingActivate (c p : Nat) (s : State) : Host.Outcome State Fault Refusal := attempt (bindingActivate c p) s
def execStreamMove (c p : Nat) (s : State) : Host.Outcome State Fault Refusal := attempt (streamMove c p) s
def execGatherRequest (c p : Nat) (s : State) : Host.Outcome State Fault Refusal := attempt (gatherRequest c p) s
def execScatterRequest (c p : Nat) (s : State) : Host.Outcome State Fault Refusal := attempt (scatterRequest c p) s
def execItemFinish (c p : Nat) (s : State) : Host.Outcome State Fault Refusal := attempt (itemFinish c p) s
def execBindingDone (c p : Nat) (s : State) : Host.Outcome State Fault Refusal := attempt (bindingDone c p) s
def execTranslateAhead (c p : Nat) (s : State) : Host.Outcome State Fault Refusal := attempt (translateAhead c p) s

end Sys2Proof.Machine
end

