-- ==== Sys2Proof/Machine/Image.lean ====
section
/-! DEFINITION. The bytes of freeze images (R45, R404 to R406): region images, member records and the image area, and
the structured content kept beside them (DESIGN CHOICE, log 17). -/

namespace Sys2Proof.Machine

def padTo (n : Nat) (bs : List Byte) : List Byte := bs ++ List.replicate (n - bs.length) 0
def padBy (k : Nat) (bs : List Byte) : List Byte := bs ++ List.replicate ((k - bs.length % k) % k) 0

/-! ## Region images (R405, R406) -/

/-- STATE of the slots, as CFG.STAT gives it (R253). -/
def SlotState.code : SlotState → Nat
  | .idle => 0
  | .loading => 1
  | .ready => 2
  | .current => 3
  | .retiring => 4

def Region.slotStates (r : Region) : Nat :=
  ((List.range 4).map fun i => (r.slot i).st.code * 8 ^ i).foldl (· + ·) 0

/-- The ten header words and the fields of every element of one slot; zero for an IDLE slot. -/
def slotBytes (q : Core) (r : Region) (i : Nat) : List Byte :=
  let t := r.slot i
  let es := r.elems
  if t.st = .idle then List.replicate (40 + 96 * es.length) 0
  else
    (List.range 10).flatMap (fun j => leBytes (t.hw j) 4)
      ++ es.flatMap fun e => (List.range 48).flatMap fun f => leBytes (q.cfg i e f) 2

/-- One element record (R406). An accumulator under another generation is captured as empty (R97). -/
def elemBytes (q : Core) (r : Region) (gen : BitVec 12) (e : Nat) : List Byte :=
  let v := q.elems.lookD e {}
  let xa := v.priv.xa.seenBy gen
  let since := v.lanes.foldl (fun n l => max n l.2.since) 0
  let pend := (v.pend.take 8).flatMap fun u => (u.seenBy gen).bytes
  leBytes (v.priv.own.readAs gen).toNat 4 ++ leBytes (v.priv.ctr.readAs gen).toNat 4 ++ leBytes v.held.toNat 1
    ++ leBytes (if xa.poison then 1 else 0) 1 ++ leBytes since 2 ++ leBytes 0 4
    ++ v.priv.op.bytes (usedOps q r e) 80 ++ xa.record ++ padTo 64 pend

/-- The tokens that stand at input i of an element: one that a KEEP input holds is still in its buffer (R61). -/
def Elem.atInput (v : Elem) (i : Nat) : List Token := (v.kept.filter fun k => k.1 = i).map (·.2) ++ v.buf i

/-- The tokens of one element: operand buffers and what an operation holds of them, link stages, outputs. An output that
waits for a port's lane stands behind the tokens there. -/
def elemTokens (q : Core) (r : Region) (e : Nat) : List (List Byte) :=
  let v := q.elems.lookD e {}
  let el := r.posOf e
  let kept (ts : List Token) : List Token := ts.filter fun t => !t.void
  let drain : Nat := ((((List.range 4).flatMap fun i => (q.cfg i e).drainLanes).head?).getD 0)
  (List.range 3).flatMap (fun i => tokenRun el (bufLoc i) (kept (v.atInput i)))
    ++ tokenRun el windowLoc v.priv.op.window ++ tokenRun el groupLoc v.priv.op.group
    ++ tokenRun el repLoc v.priv.op.repTok.toList
    ++ v.lanes.flatMap (fun l => tokenRun el (laneLoc l.1) (kept (l.2.pre ++ l.2.stage)))
    ++ (List.range 8).flatMap (fun l =>
        let before := match laneEnd e l with
          | .port p n => ((q.ports.lookD p {}).out n).length
          | .elem _ _ => 0
        tokenRun el (outLoc l) (kept ((v.out.filter fun o => o.lanes.contains l).map (·.tok))) before)
    ++ tokenRun el (outLoc drain + 1) v.drains

def portTokens (r : Region) (q : Core) (p : Nat) : List (List Byte) :=
  let w := q.ports.lookD p {}
  let el := r.posOf (portElem p)
  tokenRun el (outLoc (portLane p 0)) w.out0 ++ tokenRun el (outLoc (portLane p 1)) w.out1

def regionTokens (q : Core) (r : Region) : List (List Byte) :=
  r.elems.flatMap (elemTokens q r) ++ r.ports.flatMap (portTokens r q)

/-- The quantum position: how long the CURRENT configuration has been current, of which the model knows whether it has
reached its quantum (R39; DESIGN CHOICE, log 32). -/
def Slot.quantum (t : Slot) : Nat := if bitsOf (t.hw 1) 0 16 = 0 then 4096 else bitsOf (t.hw 1) 0 16
def State.quantumAt (s : State) (r : Region) : Nat :=
  let n := (r.slot r.cur).quantum
  if r.quantumUp then n else Config.quantumPosition s.acts % n

/-- The state of a binding in an image (R405; DEDUCED, log 73). -/
def BState.code : BState → Nat
  | .bound => 0
  | .queued => 1
  | .active | .drained => 2

def bindingEntry (b : Binding) : List Byte :=
  patternBytes b.pat ++ leBytes b.handle.toNat 8 ++ leBytes b.moved 8 ++ leBytes b.finished 4 ++ leBytes b.deadline.toNat 4
    ++ leBytes b.st.code 1 ++ leBytes 0 39

def AOp.code : AOp → Nat
  | .add => 0
  | .swap => 1
  | .and => 2
  | .or => 3
  | .xor => 4
  | .min => 5
  | .max => 6
  | .minu => 7
  | .maxu => 8
  | .cas | .semWait | .semPost => 9

def logBytes (e : LogEntry) : List Byte :=
  let op := match e.op with | some o => o.code | none => 15
  let sz := if e.size = 1 then 0 else if e.size = 2 then 1 else if e.size = 4 then 2 else 3
  leBytes e.va.toNat 6 ++ leBytes (op + sz * 16) 1 ++ leBytes e.round.toNat 1 ++ leBytes e.value.toNat 8

def regionBindings (q : Core) (r : Region) : List Binding := r.ports.flatMap fun p => (q.ports.lookD p {}).bindings

/-- A region image. -/
def State.regionImage (s : State) (c : Nat) (r : Region) : List Byte :=
  let q := s.core c
  let gen := s.genOf c r.ctx
  let img := ((s.alloc? r.alloc).map (·.img)).getD {}
  let toks := regionTokens q r
  let binds := regionBindings q r
  let n := r.rows * r.cols
  let size := 0x40 + 4 * (40 + 96 * n) + 64 + 256 * n + 16 * toks.length + 128 * binds.length + 16 * r.log.length
  leBytes 0x4746_5A52_325A_4C47 8 ++ leBytes size 4 ++ leBytes (r.rows - 1) 1 ++ leBytes (r.cols - 1) 1 ++ leBytes r.ireg 1
    ++ leBytes ((if r.det then 1 else 0) + (if (r.slot r.cur).demand then 2 else 0) + (if r.spawned then 4 else 0)) 1
    ++ leBytes img.feat0.toNat 8 ++ leBytes img.feat1.toNat 8 ++ leBytes r.steps 4
    ++ leBytes (r.cur * 4096 + r.slotStates) 2 ++ leBytes (r.row0 * 16 + r.col0) 1 ++ leBytes r.lr 1
    ++ leBytes toks.length 4 ++ leBytes binds.length 2 ++ leBytes r.log.length 2 ++ leBytes (~~~r.tagUsed).toNat 8
    ++ leBytes 0 8
    ++ (List.range 4).flatMap (slotBytes q r)
    ++ (List.range 8).flatMap (fun i => leBytes (r.remaining.lookD i 0) 4) ++ leBytes (s.quantumAt r) 4
    ++ leBytes 0 28
    ++ r.elems.flatMap (elemBytes q r gen) ++ toks.flatten ++ binds.flatMap bindingEntry ++ r.log.flatMap logBytes

/-- The most entries that an image of a region may hold for its tokens, per element, and for its log: all that the 16 bits of
R405 count in DET mode (DESIGN CHOICE, log 31). -/
def tokenRoom : Nat := 512
def Region.logRoom (r : Region) : Nat := if r.det then 65535 else 1024

/-- The freeze image bound of a region, in units of 64 bytes: room for every token, binding and log entry that it may come
to hold (R262, R266; DESIGN CHOICE, log 31). -/
def Region.imageBound (r : Region) : Nat :=
  let n := r.rows * r.cols
  let room := 0x40 + 4 * (40 + 96 * n) + 64 + 256 * n + 16 * (tokenRoom * n + r.logRoom) + 128 * (4 * r.ports.length)
  min 0xFFFF ((room + 63) / 64 + Config.imageSlack n % 64)

/-- An element without the holds of R157: an image keeps none, and a held END begins its wait anew after a thaw. -/
def Elem.unheld (v : Elem) : Elem :=
  { v with hold := none, lanes := v.lanes.map fun l => (l.1, { l.2 with hold := none }) }

/-- What the image is written from, with the places within the region. -/
def State.frozenRegion (s : State) (c : Nat) (r : Region) : FrozenRegion :=
  let q := s.core c
  let img := ((s.alloc? r.alloc).map (·.img)).getD {}
  { region := r, gen := s.genOf c r.ctx, feat0 := img.feat0, feat1 := img.feat1
    elems := r.elems.map fun e => (r.posOf e, (q.elems.lookD e {}).unheld)
    ports := r.ports.map fun p => (p, q.ports.lookD p {})
    config := q.config.filter fun k => r.elems.contains (k.1 / 64 % 256) }

/-! ## Member records (R404) -/

/-- The home reads every granule that a freeze captures of a member, and finds what errors there are; a record names the
line by its address in the partition or buffer (R110, R389, R398). -/
def State.checkMember (s : State) (m : Member) : State :=
  match s.ctx? m.core m.ctx with
  | none => s
  | some k =>
    let r := s.recordFor m.core k.alloc k.gen 0x26 4
    let look (s : State) (a n : Nat) (addr : Nat → Word) : State := (linesOf a n).foldl (fun s l =>
      (s.checkLine l { r with addr := addr (l * 64 - a) }).1) s
    k.bufs.foldl (fun s b => look s (sbufAddr m.core b.2.base) b.2.size (bufAddr b.1))
      (look s (cpAddr m.core k.pbase) k.psize partAddr)

/-- A granule of a member's memory at a place: its bytes, present under the member's generation, poison. -/
def State.granuleOf (s : State) (gen : BitVec 12) (a : Nat) : List Byte × Bool × Bool :=
  let k := s.granule (a / 64)
  if k.tag = gen then (s.bytesAt a 64, true, k.poison || k.bad) else ([], false, false)

def State.granulesOf (s : State) (gen : BitVec 12) (a n : Nat) : List (List Byte × Bool × Bool) :=
  (List.range (n / 64)).map fun i => s.granuleOf gen (a + 64 * i)

def bitmapOf (l : List Bool) : List Byte :=
  (List.range ((l.length + 7) / 8)).map fun i =>
    BitVec.ofNat 8 (((List.range 8).map fun j => if l.getD (8 * i + j) false then 2 ^ j else 0).foldl (· + ·) 0)

/-- Granules with their two bitmaps before them; an absent granule is stored as zero. -/
def granuleBytes (l : List (List Byte × Bool × Bool)) : List Byte :=
  bitmapOf (l.map (·.2.1)) ++ bitmapOf (l.map (·.2.2)) ++ l.flatMap fun g => if g.2.1 then g.1 else List.replicate 64 0

def log2Of : Nat → Nat → Nat
  | 0, _ => 0
  | n + 1, v => if v ≤ 1 then 0 else 1 + log2Of n (v / 2)

def bufEntry (k : Ctx) (i : Nat) : List Byte :=
  match k.bufs.look i with
  | none => leBytes 0 4
  | some b => leBytes (log2Of 32 b.size + if b.queue then 32 else 0) 4

/-- The restart block's offset in the partition; a context that issues no block has a number that is none (R404; DESIGN
CHOICE, log 32). -/
def Ctx.restart (k : Ctx) : Nat :=
  match k.run with
  | .running => bitsOf k.next.toNat 0 48
  | .halted => 2 ^ 64 - 1
  | .stopped => 2 ^ 64 - 2

/-- The fixed part of a member record, its partition and its buffer allocations. -/
def State.memberBytes (s : State) (c x : Nat) (k : Ctx) : List Byte :=
  (List.range 32).flatMap (fun j => leBytes ((k.reg j).readAs k.gen).toNat 8)
    ++ leBytes (k.status x).toNat 8 ++ leBytes k.cause.toNat 8 ++ leBytes k.epc.toNat 8 ++ leBytes k.tval.toNat 8
    ++ leBytes k.tvec.toNat 8 ++ leBytes k.fpctl.toNat 8 ++ leBytes k.restart 8 ++ leBytes k.psize 8
    ++ (List.range 16).flatMap (fun i => leBytes (k.scratch.lookD i 0).toNat 8)
    ++ (List.range 16).flatMap (bufEntry k)
    ++ (List.range 128).flatMap (fun i => leBytes (k.events.lookD i 0) 2)
    ++ granuleBytes (s.granulesOf k.gen (cpAddr c k.pbase) k.psize)
    ++ k.bufs.flatMap fun b => leBytes b.2.wptr 4 ++ leBytes b.2.rptr 4
        ++ granuleBytes (s.granulesOf k.gen (sbufAddr c b.2.base) b.2.size)

/-- The regions of an allocation on a core, in order of their local numbers. -/
def Core.regionsOf (q : Core) (a : Nat) : List (Nat × Region) :=
  let rs := q.regions.filter fun e => e.2.alloc = a
  (List.range 8).filterMap fun i => rs.find? fun e => e.2.lr = i

def State.memberRecord (s : State) (m : Member) : List Byte :=
  match s.ctx? m.core m.ctx with
  | none => []
  | some k =>
    padBy 64 (s.memberBytes m.core m.ctx k ++ ((s.core m.core).regionsOf k.alloc).flatMap fun e => s.regionImage m.core e.2)

/-- The image area of an allocation (R404). -/
def State.areaBytes (s : State) (a : Nat) (al : Alloc) : List Byte :=
  let recs := al.members.map s.memberRecord
  let n := al.members.length
  let start := (0x40 + 32 * n + 63) / 64 * 64
  let offs := recs.foldl (fun (p : List Nat × Nat) r => (p.1 ++ [p.2], p.2 + r.length)) ([], start)
  let dir := (al.members.zip (recs.zip offs.1)).zipIdx.flatMap fun e =>
    leBytes e.2 2 ++ leBytes e.1.1.core 2 ++ leBytes 0 4 ++ leBytes e.1.2.2 8 ++ leBytes e.1.2.1.length 8 ++ leBytes 0 8
  let body := padBy 64 dir ++ recs.flatten
  let det := al.img.shapes.any fun r => r.flags.getLsbD 0
  leBytes 0x4146_5A52_325A_4C47 8 ++ leBytes (0x40 + body.length) 8 ++ leBytes a 1 ++ leBytes al.strm 1
    ++ leBytes ((if al.strict then 1 else 0) + if det then 2 else 0) 1 ++ leBytes n 1 ++ leBytes 0 12
    ++ hashBytes body 32 ++ body

/-- The bound of the whole area: every region at its own bound (R404). -/
def State.areaBound (s : State) (a : Nat) (al : Alloc) : Nat :=
  (s.areaBytes a al).length + (al.members.flatMap fun m =>
    ((s.core m.core).regionsOf a).map fun e => 64 * e.2.imageBound).foldl (· + ·) 0

def State.frozenMember (s : State) (m : Member) : FrozenMember :=
  match s.ctx? m.core m.ctx with
  | none => {}
  | some k =>
    { ctx := k, core := m.core,
      regions := ((s.core m.core).regionsOf k.alloc).map fun e => s.frozenRegion m.core e.2,
      partition := s.granulesOf k.gen (cpAddr m.core k.pbase) k.psize,
      bufData := k.bufs.map fun b => s.granulesOf k.gen (sbufAddr m.core b.2.base) b.2.size }

/-! ## Writing and reading an image in DRAM (R262, R407) -/

/-- Where a line of an allocation's virtual memory lies. -/
def State.linePlace (s : State) (c a va : Nat) (write : Bool) (r : FaultRec) :
    State × Except Nat (Nat × Attr) :=
  match s.alloc? a with
  | none => (s, .error 0x27)
  | some al =>
    let p := s.walk al.root va r
    match p.2 with
    | .fail cause => (p.1, .error cause)
    | .page pa big attr rd wr =>
      if permits write rd wr false then
        (p.1, .ok (if big then pa + bitsOf va 0 29 else pa + bitsOf va 0 16, attr))
      else (p.1, .error 0x28)

/-- An image written line by line. A line that cannot be written is reported, is left poisoned where its page gives it a
place, and the freeze goes on (R398, R407; DEDUCED, log 33); where a ONCE page refuses it, no byte changes (R441). The
image is written under no generation: where its page maps a staging buffer, each granule keeps its tag (DESIGN CHOICE,
log 128). -/
def State.writeImage (s : State) (c a va : Nat) (bs : List Byte) (r : FaultRec) : Nat → State
  | 0 => s
  | n + 1 =>
    if bs.isEmpty then s
    else
      let line := bs.take 64
      let rc := { r with addr := BitVec.ofNat 64 va }
      let t := s.linePlace c a va true rc
      let s := match t.2 with
        | .ok (pa, attr) =>
          match t.1.lineWrite attr false pa line with
          | .ok u _ _ => u
          | .refused u cause info =>
            (u.report { rc with cause := BitVec.ofNat 8 cause, info := BitVec.ofNat 64 info }).setGranule (pa / 64)
              { u.granule (pa / 64) with poison := true }
          | .waits => t.1
        | .error cause =>
          let u := t.1.report { rc with cause := BitVec.ofNat 8 cause }
          match (u.linePlace c a va false rc).2 with
          | .ok (pa, _) => u.poisonAs 0 pa 64
          | .error _ => u
      s.writeImage c a (va + 64) (bs.drop 64) r n

/-- An image read line by line: its bytes, whether a line was poisoned, and the cause of a read not performed. Where its
page maps a staging buffer, it is read under generation 0, and other granules as zeros (DESIGN CHOICE, log 128). -/
def State.readImage (s : State) (c a va : Nat) (n : Nat) (r : FaultRec) : Nat → Span
  | 0 => { st := s }
  | k + 1 =>
    if n = 0 then { st := s }
    else
      let m := min n 64
      let t := s.linePlace c a va false { r with addr := BitVec.ofNat 64 va }
      match t.2 with
      | .error cause => { st := t.1, cause := some cause }
      | .ok (pa, _) =>
        let o := t.1.readAs 0 false pa m { r with addr := BitVec.ofNat 64 va }
        let p := o.st.readImage c a (va + 64) (n - m) r k
        { p with bytes := o.bytes ++ p.bytes, poison := if o.poisoned then some 0x25 else p.poison }

end Sys2Proof.Machine
end

