-- ==== Sys2Proof/Machine/ImageRead.lean ====
section
/-! DEFINITION. Freeze images read back from their bytes (R46, R404 to R406, R408, R410): regions, members and areas. What
the bytes do not hold returns as it is right after a region load (DESIGN CHOICE, log 17). -/

namespace Sys2Proof.Machine

def bytesFrom (bs : List Byte) (o n : Nat) : List Byte := (bs.drop o).take n

/-! ## Regions (R405, R406) -/

/-- Where the parts of a region image of n elements start, and the whole length for its counts of tokens, bindings and
log entries. -/
def slotAt (n i : Nat) : Nat := 0x40 + i * (40 + 96 * n)
def stateAt (n : Nat) : Nat := slotAt n 4
def elemAt (n k : Nat) : Nat := stateAt n + 64 + 256 * k
def imageLength (n toks binds logs : Nat) : Nat := elemAt n n + 16 * toks + 128 * binds + 16 * logs

/-- The shape of a region image: rows, columns and the three counts. -/
def shapeOf (bs : List Byte) : Nat × Nat × Nat × Nat × Nat :=
  (fieldAt bs 0x0C 1 + 1, fieldAt bs 0x0D 1 + 1, fieldAt bs 0x28 4, fieldAt bs 0x2C 2, fieldAt bs 0x2E 2)

/-- The checks of a region image (R408): its MAGIC, and a SIZE that its shape and counts agree with. -/
def imageOk (bs : List Byte) : Bool :=
  let (rows, cols, toks, binds, logs) := shapeOf bs
  fieldAt bs 0 8 = 0x4746_5A52_325A_4C47 && rows ≤ 16 && cols ≤ 16
    && fieldAt bs 8 4 = imageLength (rows * cols) toks binds logs

def slotStateOf (n : Nat) : SlotState :=
  if n = 2 then .ready else if n = 3 then .current else if n = 4 then .retiring else .idle

/-- A slot as the image holds it. -/
def slotOf (bs : List Byte) (n i : Nat) : Slot :=
  let st := slotStateOf (bitsOf (fieldAt bs 0x24 2) (3 * i) 3)
  if st = .idle then {}
  else { st, hasHeader := true, header := (List.range 10).map fun j => w32At bs (slotAt n i + 4 * j) }

/-- The configuration words of the slots in use. -/
def configOf (bs : List Byte) (r : Region) : SMap (BitVec 16) :=
  let n := r.rows * r.cols
  ((List.range 4).filter fun i => (r.slot i).st ≠ .idle).foldl (fun m i =>
    r.elems.zipIdx.foldl (fun m e =>
      (List.range 48).foldl (fun m f =>
        let v := fieldAt bs (slotAt n i + 40 + 96 * e.2 + 2 * f) 2
        if v = 0 then m else m.put (cfgKey i e.1 f) (BitVec.ofNat 16 v)) m) m) []

def entriesOf (bs : List Byte) (at_ size n : Nat) : List (List Byte) :=
  (List.range n).map fun i => bytesFrom bs (at_ + size * i) size

/-- One element from its record and the captured tokens. A marker that the region put ahead of a lane that crosses its
boundary is told by its kind: none crosses (R59). `round` numbers the next ROUND. -/
def elemOf (acts : Nat) (q : Core) (r : Region) (gen : BitVec 12) (round : Nat) (hs : List Held) (rec0 : List Byte)
    (e : Nat) : Elem :=
  let el := r.posOf e
  let g := q.cfg r.cur e
  let reg (o : Nat) : EReg := EReg.set (w32At rec0 o) gen
  let since := fieldAt rec0 0x0A 2
  let lanes : SMap Lane := (List.range 8).foldl (fun m key =>
    let ts := heldAt hs el (laneLoc key)
    if r.crosses e key then
      let pre := ts.takeWhile fun t => t.kind = .round || t.kind = .retire
      let used := !(g.takers key).isEmpty
      if used || !ts.isEmpty then
        m.put key { pre, stage := ts.drop pre.length, since := if used then since else 0, rounds := BitVec.ofNat 32 round }
      else m
    else if ts.isEmpty then m else m.put key { stage := ts }) []
  let outs : List OutTok := (List.range 8).flatMap fun l =>
    let ts := heldAt hs el (outLoc l)
    let mine := match laneEnd e l with
      | .port _ _ => ts.drop 2
      | .elem _ _ => ts
    mine.map fun t => { lanes := [l], tok := t }
  let op := OpState.ofBytes (usedOps q r e) (bytesFrom rec0 0x10 80)
  { bufA := heldAt hs el (bufLoc 0), bufB := heldAt hs el (bufLoc 1), bufC := heldAt hs el (bufLoc 2), lanes
    priv :=
      { own := reg 0, ctr := reg 4
        op := { op with window := heldAt hs el windowLoc, group := heldAt hs el groupLoc
                        repTok := (heldAt hs el repLoc).head? }
        xa := Xa.fill { gen } (bytesFrom rec0 0x60 96) (fieldAt rec0 9 1 % 2 = 1) gen g.f27 }
    pend := (List.range 8).filterMap fun i =>
      Upd.ofBytes (bytesFrom rec0 (0xC0 + 8 * i) 8) (Config.pendingOperand acts (8 * e + i)) gen
    out := outs
    drains := (List.range 8).flatMap fun l => heldAt hs el (outLoc l + 1)
    held := BitVec.ofNat 4 (fieldAt rec0 8 1) }

def bstateOf (n : Nat) : BState := if n = 1 then .queued else if n = 2 then .active else .bound

/-- A binding from its entry, with the port it stands on: the one its handle names, as the member's port map translates it
(R409). Moves that were on their way start again. -/
def bindingOf (k : Ctx) (x alloc : Nat) (gen : BitVec 12) (bs : List Byte) : Nat × Binding :=
  let pat := patternOf bs
  let h : Word := BitVec.ofNat 64 (fieldAt bs 64 8)
  let moved := fieldAt bs 72 8
  let finished := fieldAt bs 80 4
  let issued := if pat.dir = 3 then moved / 2 else max (moved / pat.perMove) (if pat.endr = 0 then 0 else finished * pat.itemMoves)
  (k.portOf (handlePort h),
   { seq := handleSeq h, lane := h.getLsbD 5, named := handlePort h, pat, ctx := x, alloc, gen, moved, finished, issued
     itemNo := finished, deadline := w32At bs 84, st := bstateOf (fieldAt bs 88 1) })

def aopOf (n : Nat) : Option AOp :=
  [AOp.add, .swap, .and, .or, .xor, .min, .max, .minu, .maxu, .cas][n]?

/-- A log entry; the element, port and item that it came from are not in the image, and it counts for the region's first
element and port. -/
def logOf (r : Region) (bs : List Byte) : LogEntry :=
  let c := fieldAt bs 6 1
  { va := BitVec.ofNat 64 (fieldAt bs 0 6), op := if c % 16 = 15 then none else aopOf (c % 16), size := 2 ^ bitsOf c 4 2
    round := BitVec.ofNat 32 (fieldAt bs 7 1), value := BitVec.ofNat 64 (fieldAt bs 8 8), elem := (r.elems.head?).getD 0
    port := (r.ports.head?).getD 0, seq := 2 ^ 24, item := 0, mark := (0, 0) }

/-- A port of the region with its tokens and bindings. -/
def portOf (r : Region) (hs : List Held) (round : Nat) (bs : List (Nat × Binding)) (p : Nat) : Port :=
  let el := r.posOf (portElem p)
  let mine := (bs.filter fun b => b.1 = p).map (·.2)
  { out0 := (heldAt hs el (outLoc (portLane p 0))).take 2, out1 := (heldAt hs el (outLoc (portLane p 1))).take 2
    bindings := mine
    rounds := if r.det || mine.any fun b => b.pat.dir = 3 && b.pat.detFlag then [(0, round), (1, round)] else [] }

/-- DATA and ERROR tokens that an image holds: a region that is read back has sent as many more than it has received
(R42). -/
def heldCount (hs : List Held) : Nat := (hs.filter fun h => h.tok.isData && h.loc % 8 ∉ [2, 3, 4]).length

/-- A region image read back for a context: x names it, k holds its port map. -/
def regionOf (acts : Nat) (k : Ctx) (x alloc : Nat) (gen : BitVec 12) (bs : List Byte) : FrozenRegion :=
  let (rows, cols, toks, binds, logs) := shapeOf bs
  let n := rows * cols
  let flags := fieldAt bs 0x0F 1
  let st := fieldAt bs 0x24 2
  let cur := bitsOf st 12 2
  let slots : SMap Slot := (List.range 4).map fun i => (i, slotOf bs n i)
  let hs := (entriesOf bs (elemAt n n) 16 toks).map heldOf
  let r : Region :=
    { alloc, ctx := x, lr := fieldAt bs 0x27 1, ireg := fieldAt bs 0x0E 1, row0 := fieldAt bs 0x26 1 / 16
      col0 := fieldAt bs 0x26 1 % 16, rows, cols, slots, cur, steps := fieldAt bs 0x20 4, det := flags.testBit 0
      spawned := flags.testBit 2, tagUsed := BitVec.ofNat 64 (2 ^ 64 - 1 - fieldAt bs 0x30 8)
      remaining := (List.range 8).map fun i => (i, fieldAt bs (stateAt n + 4 * i) 4), sent := heldCount hs
      order := ((List.range 4).filter fun i => i ≠ cur && (slots.lookD i {}).st ≠ .idle) ++ [cur] }
  let log := (entriesOf bs (elemAt n n + 16 * toks + 128 * binds) 16 logs).map (logOf r)
  let round := log.foldl (fun m e => min m e.round.toNat) ((log.head?.map (·.round.toNat)).getD 0)
  let r := { r with log, rounds := round, applied := round
                    quantumUp := (r.slot cur).quantum ≤ fieldAt bs (stateAt n + 32) 4 }
  let config := configOf bs r
  let q : Core := { config }
  let bs1 := (entriesOf bs (elemAt n n + 16 * toks) 128 binds).map (bindingOf k x alloc gen)
  { region := r, gen, feat0 := BitVec.ofNat 64 (fieldAt bs 0x10 8), feat1 := BitVec.ofNat 64 (fieldAt bs 0x18 8), config
    elems := r.elems.zipIdx.map fun e => (r.posOf e.1, elemOf acts q r gen round hs (bytesFrom bs (elemAt n e.2) 256) e.1)
    ports := r.ports.map fun p => (p, portOf r hs round bs1 p) }

/-! ## Members and areas (R404) -/

/-- Granules with their bitmaps, and the number of bytes they take. -/
def granulesFrom (bs : List Byte) (n : Nat) : List (List Byte × Bool × Bool) :=
  let b := (n + 7) / 8
  let bit (o i : Nat) : Bool := (fieldAt bs (o + i / 8) 1).testBit (i % 8)
  (List.range n).map fun i =>
    if bit 0 i then (bytesFrom bs (2 * b + 64 * i) 64, true, bit b i) else ([], false, false)

def granulesLength (n : Nat) : Nat := 2 * ((n + 7) / 8) + 64 * n

/-- The region images that follow one another in a member record. -/
def regionsFrom (acts : Nat) (k : Ctx) (x alloc : Nat) (gen : BitVec 12) : Nat → List Byte → List FrozenRegion
  | 0, _ => []
  | n + 1, bs =>
    if bs.length < 0x40 || !imageOk bs then []
    else regionOf acts k x alloc gen bs :: regionsFrom acts k x alloc gen n (bs.drop (fieldAt bs 8 4))

/-- The buffer allocations of a record, with what each one holds. -/
def bufsFrom (bs : List Byte) : List (Nat × Buf) → SMap Buf × List (List (List Byte × Bool × Bool)) × List Byte
  | [] => ([], [], bs)
  | (i, b) :: rest =>
    let n := b.size / 64
    let t := bufsFrom (bs.drop (8 + granulesLength n)) rest
    ((i, { b with wptr := fieldAt bs 0 4, rptr := fieldAt bs 4 4 }) :: t.1, granulesFrom (bs.drop 8) n :: t.2.1, t.2.2)

/-- A member record read back. The generation 1 stands for the one under which it was captured. FPCTL and TVEC are taken over as
they stand, reserved values with them (R173; DESIGN CHOICE, log 130). -/
def memberOf (acts : Nat) (a : Nat) (al : Alloc) (number core : Nat) (bs : List Byte) : FrozenMember :=
  let d (i : Nat) : Nat := fieldAt bs (256 + 8 * i) 8
  let psize := d 7
  let shapes : List (Nat × Buf) := (List.range 16).filterMap fun i =>
    let v := fieldAt bs (448 + 4 * i) 4
    if v = 0 then none else some (i, { base := 0, size := 2 ^ (v % 32), queue := v.testBit 5 })
  let rest := bufsFrom (bs.drop (768 + granulesLength (psize / 64))) shapes
  let k : Ctx :=
    { alloc := a, member := number, gen := 1, strict := al.strict, inh := (d 0).testBit 8, lexit := BitVec.ofNat 3 (d 0 / 2 ^ 12)
      run := if d 6 = 2 ^ 64 - 1 then .halted else if d 6 = 2 ^ 64 - 2 then .stopped else .running
      regs := (List.range 32).map fun j => (j, { val := BitVec.ofNat 64 (fieldAt bs (8 * j) 8), tag := 1 })
      next := partAddr (bitsOf (d 6) 0 48), cause := BitVec.ofNat 8 (d 1), epc := BitVec.ofNat 64 (d 2)
      tval := BitVec.ofNat 64 (d 3), tvec := BitVec.ofNat 64 (d 4), ftz := (d 5).testBit 4, daz := (d 5).testBit 3
      rnd := BitVec.ofNat 3 (d 5), stream := BitVec.ofNat 5 al.strm, seed0 := al.seed0, seed1 := al.seed1
      scratch := (List.range 16).map fun i => (i, BitVec.ofNat 64 (fieldAt bs (320 + 8 * i) 8))
      events := (List.range 128).map fun i => (i, fieldAt bs (512 + 2 * i) 2)
      psize, bufs := rest.1 }
  { ctx := k, core, partition := granulesFrom (bs.drop 768) (psize / 64), bufData := rest.2.1
    regions := regionsFrom acts k 0 a 1 16 rest.2.2 }

/-- The check of an image area (R408): MAGIC, SIZE and DIGEST. -/
def areaOk (bs : List Byte) : Bool :=
  fieldAt bs 0 8 = 0x4146_5A52_325A_4C47 && fieldAt bs 8 8 = bs.length && 0x40 ≤ bs.length
    && bytesFrom bs 0x20 32 = hashBytes (bs.drop 0x40) 32

/-- An image area read back. -/
def areaOf (acts a : Nat) (al : Alloc) (bs : List Byte) : Frozen :=
  { area := some a, bytes := bs
    members := (List.range (fieldAt bs 0x13 1)).map fun i =>
      let o := 0x40 + 32 * i
      memberOf acts a al (fieldAt bs o 2) (fieldAt bs (o + 2) 2) (bytesFrom bs (fieldAt bs (o + 8) 8) (fieldAt bs (o + 16) 8)) }

end Sys2Proof.Machine
end

