-- ==== Sys2Proof/Machine/CpAlu.lean ====
section
/-! DEFINITION. Registers, constants, moves, integer arithmetic and logic, and tests (R208 to R216). Every
operation is written as R211 to R213 and R216 give it, over unbounded integers, and narrowed by `intOp` (R205). -/

namespace Sys2Proof.Machine

/-! ## Bit counts (R213) -/

/-- Leading zero bits of a in n bits. -/
def leadingZeros : Nat → Nat → Nat
  | 0, _ => 0
  | n + 1, a => if a.testBit n then 0 else 1 + leadingZeros n a

/-- Trailing zero bits of a in n bits. -/
def trailingZeros : Nat → Nat → Nat
  | 0, _ => 0
  | n + 1, a => if a % 2 = 1 then 0 else 1 + trailingZeros n (a / 2)

/-- One bits of a in n bits. -/
def popCount : Nat → Nat → Nat
  | 0, _ => 0
  | n + 1, a => a % 2 + popCount n (a / 2)

/-- Bit i of the result is bit n - 1 - i of a. -/
def reverseBits : Nat → Nat → Nat
  | 0, _ => 0
  | n + 1, a => a % 2 * 2 ^ n + reverseBits n (a / 2)

/-! ## Operations (R211 to R213, R216) -/

/-- ADD (R211). -/
def opAdd (w : Bool) (a b : Word) : Word :=
  intOp w (fun _ ua ub _ _ => (ua : Int) + ub) a b

/-- SUB (R211). -/
def opSub (w : Bool) (a b : Word) : Word :=
  intOp w (fun _ ua ub _ _ => (ua : Int) - ub) a b

/-- MUL (R211). -/
def opMul (w : Bool) (a b : Word) : Word :=
  intOp w (fun _ ua ub _ _ => (ua : Int) * ub) a b

/-- MULH (R211). -/
def opMulh (w : Bool) (a b : Word) : Word :=
  intOp w (fun n _ _ sa sb => (sa * sb) / (2 ^ n : Nat)) a b

/-- MULHU (R211). -/
def opMulhu (w : Bool) (a b : Word) : Word :=
  intOp w (fun n ua ub _ _ => ((ua * ub / 2 ^ n : Nat) : Int)) a b

/-- DIV (R211). -/
def opDiv (w : Bool) (a b : Word) : Word :=
  intOp w (fun n _ ub sa sb => if ub = 0 then -1 else if sa = -(2 ^ (n - 1) : Nat) ∧ sb = -1 then sa else sa.tdiv sb) a b

/-- DIVU (R211). -/
def opDivu (w : Bool) (a b : Word) : Word :=
  intOp w (fun n ua ub _ _ => if ub = 0 then (2 ^ n : Nat) - 1 else ((ua / ub : Nat) : Int)) a b

/-- REM (R211). -/
def opRem (w : Bool) (a b : Word) : Word :=
  intOp w (fun n _ ub sa sb => if ub = 0 then sa else if sa = -(2 ^ (n - 1) : Nat) ∧ sb = -1 then 0 else sa - sb * sa.tdiv sb) a b

/-- REMU (R211). -/
def opRemu (w : Bool) (a b : Word) : Word :=
  intOp w (fun _ ua ub _ _ => if ub = 0 then (ua : Int) else ((ua % ub : Nat) : Int)) a b

/-- MIN (R211). -/
def opMin (w : Bool) (a b : Word) : Word :=
  intOp w (fun _ _ _ sa sb => if sa ≤ sb then sa else sb) a b

/-- MAX (R211). -/
def opMax (w : Bool) (a b : Word) : Word :=
  intOp w (fun _ _ _ sa sb => if sa ≤ sb then sb else sa) a b

/-- MINU (R211). -/
def opMinu (w : Bool) (a b : Word) : Word :=
  intOp w (fun _ ua ub _ _ => ((min ua ub : Nat) : Int)) a b

/-- MAXU (R211). -/
def opMaxu (w : Bool) (a b : Word) : Word :=
  intOp w (fun _ ua ub _ _ => ((max ua ub : Nat) : Int)) a b

/-- AND (R212). -/
def opAnd (w : Bool) (a b : Word) : Word :=
  intOp w (fun _ ua ub _ _ => ((ua &&& ub : Nat) : Int)) a b

/-- OR (R212). -/
def opOr (w : Bool) (a b : Word) : Word :=
  intOp w (fun _ ua ub _ _ => ((ua ||| ub : Nat) : Int)) a b

/-- XOR (R212). -/
def opXor (w : Bool) (a b : Word) : Word :=
  intOp w (fun _ ua ub _ _ => ((ua ^^^ ub : Nat) : Int)) a b

/-- ANDN (R212). -/
def opAndn (w : Bool) (a b : Word) : Word :=
  intOp w (fun n ua ub _ _ => ((ua &&& (2 ^ n - 1 - ub) : Nat) : Int)) a b

/-- ORN (R212). -/
def opOrn (w : Bool) (a b : Word) : Word :=
  intOp w (fun n ua ub _ _ => ((ua ||| (2 ^ n - 1 - ub) : Nat) : Int)) a b

/-- SHL (R212): the count is B read as an unsigned 64-bit number in both widths. -/
def opShl (w : Bool) (a b : Word) : Word :=
  intOp w (fun n ua _ _ _ => if b.toNat ≥ n then 0 else ((ua * 2 ^ b.toNat : Nat) : Int)) a b

/-- SHR (R212): the count is B read as an unsigned 64-bit number in both widths. -/
def opShr (w : Bool) (a b : Word) : Word :=
  intOp w (fun n ua _ _ _ => if b.toNat ≥ n then 0 else ((ua / 2 ^ b.toNat : Nat) : Int)) a b

/-- SRA (R212): the count is B read as an unsigned 64-bit number in both widths. -/
def opSra (w : Bool) (a b : Word) : Word :=
  intOp w (fun n _ _ sa _ => if b.toNat ≥ n then (if sa < 0 then -1 else 0) else sa / (2 ^ b.toNat : Nat)) a b

/-- ROL (R212): the count is B read as an unsigned 64-bit number in both widths. -/
def opRol (w : Bool) (a b : Word) : Word :=
  intOp w (fun n ua _ _ _ => ((ua * 2 ^ (b.toNat % n) + ua / 2 ^ (n - b.toNat % n) : Nat) : Int)) a b

/-- ROR (R212): the count is B read as an unsigned 64-bit number in both widths. -/
def opRor (w : Bool) (a b : Word) : Word :=
  intOp w (fun n ua _ _ _ => ((ua / 2 ^ (b.toNat % n) + ua % 2 ^ (b.toNat % n) * 2 ^ (n - b.toNat % n) : Nat) : Int)) a b

/-- BFX (R212): the count is B read as an unsigned 64-bit number in both widths. -/
def opBfx (w : Bool) (a b : Word) : Word :=
  intOp w (fun n ua _ _ _ => if b.toNat % 256 ≥ n then 0 else ((ua / 2 ^ (b.toNat % 256) % 2 ^ min (b.toNat / 256 % 256) n : Nat) : Int)) a b

/-- CLZ (R213). -/
def opClz (w : Bool) (a : Word) : Word := intOp w (fun n ua _ _ _ => ((leadingZeros n ua : Nat) : Int)) a 0

/-- CTZ (R213). -/
def opCtz (w : Bool) (a : Word) : Word := intOp w (fun n ua _ _ _ => ((trailingZeros n ua : Nat) : Int)) a 0

/-- POPC (R213). -/
def opPopc (w : Bool) (a : Word) : Word := intOp w (fun n ua _ _ _ => ((popCount n ua : Nat) : Int)) a 0

/-- BREV (R213). -/
def opBrev (w : Bool) (a : Word) : Word := intOp w (fun n ua _ _ _ => ((reverseBits n ua : Nat) : Int)) a 0

/-- BSWAP (R213). -/
def opBswap (w : Bool) (a : Word) : Word := intOp w (fun n ua _ _ _ => ((leNat (leBytes ua (n / 8)).reverse : Nat) : Int)) a 0

/-- NEG (R213). -/
def opNeg (w : Bool) (a : Word) : Word := intOp w (fun _ ua _ _ _ => -(ua : Int)) a 0

/-- NOT (R213). -/
def opNot (w : Bool) (a : Word) : Word := intOp w (fun n ua _ _ _ => ((2 ^ n - 1 - ua : Nat) : Int)) a 0

/-- SEXT_8 (R213). -/
def opSext8 (w : Bool) (a : Word) : Word := intOp w (fun _ ua _ _ _ => signedOf (ua % 2 ^ 8) 8) a 0

/-- SEXT_16 (R213). -/
def opSext16 (w : Bool) (a : Word) : Word := intOp w (fun _ ua _ _ _ => signedOf (ua % 2 ^ 16) 16) a 0

/-- SEXT_32 (R213). -/
def opSext32 (w : Bool) (a : Word) : Word := intOp w (fun _ ua _ _ _ => signedOf (ua % 2 ^ 32) 32) a 0

/-- ZEXT_8 (R213). -/
def opZext8 (w : Bool) (a : Word) : Word := intOp w (fun _ ua _ _ _ => ((ua % 2 ^ 8 : Nat) : Int)) a 0

/-- ZEXT_16 (R213). -/
def opZext16 (w : Bool) (a : Word) : Word := intOp w (fun _ ua _ _ _ => ((ua % 2 ^ 16 : Nat) : Int)) a 0

/-- ZEXT_32 (R213). -/
def opZext32 (w : Bool) (a : Word) : Word := intOp w (fun _ ua _ _ _ => ((ua % 2 ^ 32 : Nat) : Int)) a 0

/-- TEQ (R216). -/
def opTeq (w : Bool) (a b : Word) : Word := testOp w (fun ua ub _ _ => ua == ub) a b

/-- TNE (R216). -/
def opTne (w : Bool) (a b : Word) : Word := testOp w (fun ua ub _ _ => ua != ub) a b

/-- TLT (R216). -/
def opTlt (w : Bool) (a b : Word) : Word := testOp w (fun _ _ sa sb => sa < sb) a b

/-- TLE (R216). -/
def opTle (w : Bool) (a b : Word) : Word := testOp w (fun _ _ sa sb => sa ≤ sb) a b

/-- TLTU (R216). -/
def opTltu (w : Bool) (a b : Word) : Word := testOp w (fun ua ub _ _ => ua < ub) a b

/-- TLEU (R216). -/
def opTleu (w : Bool) (a b : Word) : Word := testOp w (fun ua ub _ _ => ua ≤ ub) a b

/-! ## Registers, constants and moves (R209) -/

/-- READ gj: the register as at block start; a poisoned one traps with 0x25 and, under STRICT, one of another generation
with 0x24 (R129, R130, R182, R462; the TVAL is unstated, DESIGN CHOICE, log 14). -/
def execRead (p : Pred) (g : BitVec 5) (t0 t1 : Target) (s : State) : Host.Outcome State Fault Refusal :=
  fireWith p s fun h =>
    let r := h.ctx.reg g.toNat
    let stop (cause : BitVec 8) : Option State :=
      let b := (h.blk.fire h.k).note h.k cause.toNat (Config.openTval s.acts)
      (s.setCtx h.c h.x { h.ctx with block := some b }).abandon h.c h.x
    if r.tag != h.ctx.gen && h.ctx.strict then stop 0x24
    else if r.poison && r.tag == h.ctx.gen then stop 0x25
    else
      let v := r.readAs h.ctx.gen
      some (s.setCtx h.c h.x { h.ctx with block := some (((h.blk.fire h.k).send t0 v).send t1 v) })

/-- A WRITE or NULLW resolves its register once; a second one faults with 0x08 (R182, R415). -/
def resolveReg (s : State) (h : Here) (g : BitVec 5) (v : Option Word) : Option State :=
  if (h.blk.regw.look g.toNat).isSome then s.faultHere h 0x08
  else
    let b := h.blk.fire h.k
    some (s.setCtx h.c h.x { h.ctx with block := some { b with regw := b.regw.put g.toNat v } })

/-- WRITE gj records A for commit. -/
def execWrite (p : Pred) (g : BitVec 5) (s : State) : Host.Outcome State Fault Refusal :=
  fireWith p s fun h => h.a.bind fun a => resolveReg s h g (some a)

/-- NULLW gj records that gj keeps its value. -/
def execNullw (p : Pred) (g : BitVec 5) (s : State) : Host.Outcome State Fault Refusal :=
  fireWith p s fun h => resolveReg s h g none

/-- MOVI: the sign-extended immediate. -/
def execMovi (p : Pred) (imm : BitVec 14) (t0 : Target) (s : State) : Host.Outcome State Fault Refusal :=
  fireResult p t0 0 s fun _ => some (imm14 imm)

/-- APPI: A * 2^14 + the unsigned immediate, mod 2^64. -/
def execAppi (p : Pred) (imm : BitVec 14) (t0 : Target) (s : State) : Host.Outcome State Fault Refusal :=
  fireResult p t0 0 s fun h => h.a.map fun a => BitVec.ofNat 64 (a.toNat * 2 ^ 14 + imm.toNat)

/-- MOV: A. -/
def execMov (p : Pred) (t0 t1 : Target) (s : State) : Host.Outcome State Fault Refusal :=
  fireResult p t0 t1 s fun h => h.a

/-- SEL: A when bit 0 of the selector is 1, else B; the predicate slot holds the selector. -/
def execSel (t0 t1 : Target) (s : State) : Host.Outcome State Fault Refusal :=
  fireResult .always t0 t1 s fun h =>
    match h.ab, h.blk.slotP.look h.k with
    | some (a, b), some sel => some (if sel.getLsbD 0 then a else b)
    | _, _ => none

/-! ## Integer arithmetic, logic and tests: one value from A and B, from A, or from A and the immediate -/

def execAdd (p : Pred) (w : Bool) (t0 t1 : Target) (s : State) : Host.Outcome State Fault Refusal :=
  fireResult p t0 t1 s fun h => h.ab.map fun o => opAdd w o.1 o.2

def execSub (p : Pred) (w : Bool) (t0 t1 : Target) (s : State) : Host.Outcome State Fault Refusal :=
  fireResult p t0 t1 s fun h => h.ab.map fun o => opSub w o.1 o.2

def execMul (p : Pred) (w : Bool) (t0 t1 : Target) (s : State) : Host.Outcome State Fault Refusal :=
  fireResult p t0 t1 s fun h => h.ab.map fun o => opMul w o.1 o.2

def execMulh (p : Pred) (w : Bool) (t0 t1 : Target) (s : State) : Host.Outcome State Fault Refusal :=
  fireResult p t0 t1 s fun h => h.ab.map fun o => opMulh w o.1 o.2

def execMulhu (p : Pred) (w : Bool) (t0 t1 : Target) (s : State) : Host.Outcome State Fault Refusal :=
  fireResult p t0 t1 s fun h => h.ab.map fun o => opMulhu w o.1 o.2

def execDiv (p : Pred) (w : Bool) (t0 t1 : Target) (s : State) : Host.Outcome State Fault Refusal :=
  fireResult p t0 t1 s fun h => h.ab.map fun o => opDiv w o.1 o.2

def execDivu (p : Pred) (w : Bool) (t0 t1 : Target) (s : State) : Host.Outcome State Fault Refusal :=
  fireResult p t0 t1 s fun h => h.ab.map fun o => opDivu w o.1 o.2

def execRem (p : Pred) (w : Bool) (t0 t1 : Target) (s : State) : Host.Outcome State Fault Refusal :=
  fireResult p t0 t1 s fun h => h.ab.map fun o => opRem w o.1 o.2

def execRemu (p : Pred) (w : Bool) (t0 t1 : Target) (s : State) : Host.Outcome State Fault Refusal :=
  fireResult p t0 t1 s fun h => h.ab.map fun o => opRemu w o.1 o.2

def execMin (p : Pred) (w : Bool) (t0 t1 : Target) (s : State) : Host.Outcome State Fault Refusal :=
  fireResult p t0 t1 s fun h => h.ab.map fun o => opMin w o.1 o.2

def execMax (p : Pred) (w : Bool) (t0 t1 : Target) (s : State) : Host.Outcome State Fault Refusal :=
  fireResult p t0 t1 s fun h => h.ab.map fun o => opMax w o.1 o.2

def execMinu (p : Pred) (w : Bool) (t0 t1 : Target) (s : State) : Host.Outcome State Fault Refusal :=
  fireResult p t0 t1 s fun h => h.ab.map fun o => opMinu w o.1 o.2

def execMaxu (p : Pred) (w : Bool) (t0 t1 : Target) (s : State) : Host.Outcome State Fault Refusal :=
  fireResult p t0 t1 s fun h => h.ab.map fun o => opMaxu w o.1 o.2

def execAnd (p : Pred) (w : Bool) (t0 t1 : Target) (s : State) : Host.Outcome State Fault Refusal :=
  fireResult p t0 t1 s fun h => h.ab.map fun o => opAnd w o.1 o.2

def execOr (p : Pred) (w : Bool) (t0 t1 : Target) (s : State) : Host.Outcome State Fault Refusal :=
  fireResult p t0 t1 s fun h => h.ab.map fun o => opOr w o.1 o.2

def execXor (p : Pred) (w : Bool) (t0 t1 : Target) (s : State) : Host.Outcome State Fault Refusal :=
  fireResult p t0 t1 s fun h => h.ab.map fun o => opXor w o.1 o.2

def execAndn (p : Pred) (w : Bool) (t0 t1 : Target) (s : State) : Host.Outcome State Fault Refusal :=
  fireResult p t0 t1 s fun h => h.ab.map fun o => opAndn w o.1 o.2

def execOrn (p : Pred) (w : Bool) (t0 t1 : Target) (s : State) : Host.Outcome State Fault Refusal :=
  fireResult p t0 t1 s fun h => h.ab.map fun o => opOrn w o.1 o.2

def execShl (p : Pred) (w : Bool) (t0 t1 : Target) (s : State) : Host.Outcome State Fault Refusal :=
  fireResult p t0 t1 s fun h => h.ab.map fun o => opShl w o.1 o.2

def execShr (p : Pred) (w : Bool) (t0 t1 : Target) (s : State) : Host.Outcome State Fault Refusal :=
  fireResult p t0 t1 s fun h => h.ab.map fun o => opShr w o.1 o.2

def execSra (p : Pred) (w : Bool) (t0 t1 : Target) (s : State) : Host.Outcome State Fault Refusal :=
  fireResult p t0 t1 s fun h => h.ab.map fun o => opSra w o.1 o.2

def execRol (p : Pred) (w : Bool) (t0 t1 : Target) (s : State) : Host.Outcome State Fault Refusal :=
  fireResult p t0 t1 s fun h => h.ab.map fun o => opRol w o.1 o.2

def execRor (p : Pred) (w : Bool) (t0 t1 : Target) (s : State) : Host.Outcome State Fault Refusal :=
  fireResult p t0 t1 s fun h => h.ab.map fun o => opRor w o.1 o.2

def execBfx (p : Pred) (w : Bool) (t0 t1 : Target) (s : State) : Host.Outcome State Fault Refusal :=
  fireResult p t0 t1 s fun h => h.ab.map fun o => opBfx w o.1 o.2

def execTeq (p : Pred) (w : Bool) (t0 t1 : Target) (s : State) : Host.Outcome State Fault Refusal :=
  fireResult p t0 t1 s fun h => h.ab.map fun o => opTeq w o.1 o.2

def execTne (p : Pred) (w : Bool) (t0 t1 : Target) (s : State) : Host.Outcome State Fault Refusal :=
  fireResult p t0 t1 s fun h => h.ab.map fun o => opTne w o.1 o.2

def execTlt (p : Pred) (w : Bool) (t0 t1 : Target) (s : State) : Host.Outcome State Fault Refusal :=
  fireResult p t0 t1 s fun h => h.ab.map fun o => opTlt w o.1 o.2

def execTle (p : Pred) (w : Bool) (t0 t1 : Target) (s : State) : Host.Outcome State Fault Refusal :=
  fireResult p t0 t1 s fun h => h.ab.map fun o => opTle w o.1 o.2

def execTltu (p : Pred) (w : Bool) (t0 t1 : Target) (s : State) : Host.Outcome State Fault Refusal :=
  fireResult p t0 t1 s fun h => h.ab.map fun o => opTltu w o.1 o.2

def execTleu (p : Pred) (w : Bool) (t0 t1 : Target) (s : State) : Host.Outcome State Fault Refusal :=
  fireResult p t0 t1 s fun h => h.ab.map fun o => opTleu w o.1 o.2

def execClz (p : Pred) (w : Bool) (t0 t1 : Target) (s : State) : Host.Outcome State Fault Refusal :=
  fireResult p t0 t1 s fun h => h.a.map (opClz w)

def execCtz (p : Pred) (w : Bool) (t0 t1 : Target) (s : State) : Host.Outcome State Fault Refusal :=
  fireResult p t0 t1 s fun h => h.a.map (opCtz w)

def execPopc (p : Pred) (w : Bool) (t0 t1 : Target) (s : State) : Host.Outcome State Fault Refusal :=
  fireResult p t0 t1 s fun h => h.a.map (opPopc w)

def execBrev (p : Pred) (w : Bool) (t0 t1 : Target) (s : State) : Host.Outcome State Fault Refusal :=
  fireResult p t0 t1 s fun h => h.a.map (opBrev w)

def execBswap (p : Pred) (w : Bool) (t0 t1 : Target) (s : State) : Host.Outcome State Fault Refusal :=
  fireResult p t0 t1 s fun h => h.a.map (opBswap w)

def execNeg (p : Pred) (w : Bool) (t0 t1 : Target) (s : State) : Host.Outcome State Fault Refusal :=
  fireResult p t0 t1 s fun h => h.a.map (opNeg w)

def execNot (p : Pred) (w : Bool) (t0 t1 : Target) (s : State) : Host.Outcome State Fault Refusal :=
  fireResult p t0 t1 s fun h => h.a.map (opNot w)

def execSext8 (p : Pred) (w : Bool) (t0 t1 : Target) (s : State) : Host.Outcome State Fault Refusal :=
  fireResult p t0 t1 s fun h => h.a.map (opSext8 w)

def execSext16 (p : Pred) (w : Bool) (t0 t1 : Target) (s : State) : Host.Outcome State Fault Refusal :=
  fireResult p t0 t1 s fun h => h.a.map (opSext16 w)

def execSext32 (p : Pred) (w : Bool) (t0 t1 : Target) (s : State) : Host.Outcome State Fault Refusal :=
  fireResult p t0 t1 s fun h => h.a.map (opSext32 w)

def execZext8 (p : Pred) (w : Bool) (t0 t1 : Target) (s : State) : Host.Outcome State Fault Refusal :=
  fireResult p t0 t1 s fun h => h.a.map (opZext8 w)

def execZext16 (p : Pred) (w : Bool) (t0 t1 : Target) (s : State) : Host.Outcome State Fault Refusal :=
  fireResult p t0 t1 s fun h => h.a.map (opZext16 w)

def execZext32 (p : Pred) (w : Bool) (t0 t1 : Target) (s : State) : Host.Outcome State Fault Refusal :=
  fireResult p t0 t1 s fun h => h.a.map (opZext32 w)

/-- ADDI computes as ADD with B := sext9(IMM9) (R214). -/
def execAddi (p : Pred) (w : Bool) (imm : BitVec 9) (t0 : Target) (s : State) : Host.Outcome State Fault Refusal :=
  fireResult p t0 0 s fun h => h.a.map fun a => opAdd w a (imm64 imm)

/-- ANDI computes as AND with B := sext9(IMM9) (R214). -/
def execAndi (p : Pred) (w : Bool) (imm : BitVec 9) (t0 : Target) (s : State) : Host.Outcome State Fault Refusal :=
  fireResult p t0 0 s fun h => h.a.map fun a => opAnd w a (imm64 imm)

/-- ORI computes as OR with B := sext9(IMM9) (R214). -/
def execOri (p : Pred) (w : Bool) (imm : BitVec 9) (t0 : Target) (s : State) : Host.Outcome State Fault Refusal :=
  fireResult p t0 0 s fun h => h.a.map fun a => opOr w a (imm64 imm)

/-- XORI computes as XOR with B := sext9(IMM9) (R214). -/
def execXori (p : Pred) (w : Bool) (imm : BitVec 9) (t0 : Target) (s : State) : Host.Outcome State Fault Refusal :=
  fireResult p t0 0 s fun h => h.a.map fun a => opXor w a (imm64 imm)

/-- SHLI computes as SHL with B := sext9(IMM9) (R214). -/
def execShli (p : Pred) (w : Bool) (imm : BitVec 9) (t0 : Target) (s : State) : Host.Outcome State Fault Refusal :=
  fireResult p t0 0 s fun h => h.a.map fun a => opShl w a (imm64 imm)

/-- SHRI computes as SHR with B := sext9(IMM9) (R214). -/
def execShri (p : Pred) (w : Bool) (imm : BitVec 9) (t0 : Target) (s : State) : Host.Outcome State Fault Refusal :=
  fireResult p t0 0 s fun h => h.a.map fun a => opShr w a (imm64 imm)

/-- SRAI computes as SRA with B := sext9(IMM9) (R214). -/
def execSrai (p : Pred) (w : Bool) (imm : BitVec 9) (t0 : Target) (s : State) : Host.Outcome State Fault Refusal :=
  fireResult p t0 0 s fun h => h.a.map fun a => opSra w a (imm64 imm)

/-- MULI computes as MUL with B := sext9(IMM9) (R214). -/
def execMuli (p : Pred) (w : Bool) (imm : BitVec 9) (t0 : Target) (s : State) : Host.Outcome State Fault Refusal :=
  fireResult p t0 0 s fun h => h.a.map fun a => opMul w a (imm64 imm)

def execTeqi (p : Pred) (w : Bool) (imm : BitVec 9) (t0 : Target) (s : State) : Host.Outcome State Fault Refusal :=
  fireResult p t0 0 s fun h => h.a.map fun a => opTeq w a (imm64 imm)

def execTnei (p : Pred) (w : Bool) (imm : BitVec 9) (t0 : Target) (s : State) : Host.Outcome State Fault Refusal :=
  fireResult p t0 0 s fun h => h.a.map fun a => opTne w a (imm64 imm)

def execTlti (p : Pred) (w : Bool) (imm : BitVec 9) (t0 : Target) (s : State) : Host.Outcome State Fault Refusal :=
  fireResult p t0 0 s fun h => h.a.map fun a => opTlt w a (imm64 imm)

def execTlei (p : Pred) (w : Bool) (imm : BitVec 9) (t0 : Target) (s : State) : Host.Outcome State Fault Refusal :=
  fireResult p t0 0 s fun h => h.a.map fun a => opTle w a (imm64 imm)

def execTgti (p : Pred) (w : Bool) (imm : BitVec 9) (t0 : Target) (s : State) : Host.Outcome State Fault Refusal :=
  fireResult p t0 0 s fun h => h.a.map fun a => opTlt w (imm64 imm) a

def execTgei (p : Pred) (w : Bool) (imm : BitVec 9) (t0 : Target) (s : State) : Host.Outcome State Fault Refusal :=
  fireResult p t0 0 s fun h => h.a.map fun a => opTle w (imm64 imm) a

def execTltui (p : Pred) (w : Bool) (imm : BitVec 9) (t0 : Target) (s : State) : Host.Outcome State Fault Refusal :=
  fireResult p t0 0 s fun h => h.a.map fun a => opTltu w a (imm64 imm)

def execTgtui (p : Pred) (w : Bool) (imm : BitVec 9) (t0 : Target) (s : State) : Host.Outcome State Fault Refusal :=
  fireResult p t0 0 s fun h => h.a.map fun a => opTltu w (imm64 imm) a

end Sys2Proof.Machine
end

