-- ==== Sys2Proof/Machine/CpMem.lean ====
section
/-! DEFINITION. Loads, stores, atomics, FENCE and NULLS of a block (R217 to R227): what each one accesses, when it
is issued (R183, R184), and the checks made before it reaches its home (R416). What the home does is in
Machine/Homes.lean. -/

namespace Sys2Proof.Machine

/-- What a memory instruction accesses. -/
structure MemOp where
  kind : AccKind
  size : Nat
  imm : BitVec 9 := 0
  signExt : Bool := false
  acq : Bool := false
  rel : Bool := false
  scope : Scope := .system
  t0 : Target := 0
deriving DecidableEq, Repr

def Ord.isAcq : Ord → Bool
  | .acq | .ar => true
  | _ => false
def Ord.isRel : Ord → Bool
  | .rel | .ar => true
  | _ => false

def loadOp (size : Nat) (signExt : Bool) (imm : BitVec 9) (t0 : Target) : MemOp :=
  { kind := .load, size, imm, signExt, t0 }
def storeOp (size : Nat) (imm : BitVec 9) : MemOp := { kind := .store, size, imm }
def atomicOp (k : AOp) (o : Ord) (sc : Scope) (w : Bool) (t0 : Target) : MemOp :=
  { kind := .atomic k, size := if w then 4 else 8, signExt := true, acq := Ord.isAcq o, rel := Ord.isRel o,
    scope := sc, t0 }

/-- The access of a memory instruction (R217, R221, R224, R226); none for any other instruction. -/
def memOpOf : Instr → Option MemOp
  | .ldb _ _ imm t0 => some (loadOp 1 false imm t0)
  | .ldbx _ _ imm t0 => some (loadOp 1 true imm t0)
  | .ldh _ _ imm t0 => some (loadOp 2 false imm t0)
  | .ldhx _ _ imm t0 => some (loadOp 2 true imm t0)
  | .ldw _ _ imm t0 => some (loadOp 4 false imm t0)
  | .ldwx _ _ imm t0 => some (loadOp 4 true imm t0)
  | .ldd _ _ imm t0 => some (loadOp 8 false imm t0)
  | .lda _ _ imm t0 => some { loadOp 8 false imm t0 with acq := true }
  | .stb _ _ imm => some (storeOp 1 imm)
  | .sth _ _ imm => some (storeOp 2 imm)
  | .stw _ _ imm => some (storeOp 4 imm)
  | .std _ _ imm => some (storeOp 8 imm)
  | .stl _ _ imm => some { storeOp 8 imm with rel := true }
  | .amoadd _ _ o sc w t0 => some (atomicOp .add o sc w t0)
  | .amoswp _ _ o sc w t0 => some (atomicOp .swap o sc w t0)
  | .amoand _ _ o sc w t0 => some (atomicOp .and o sc w t0)
  | .amoor _ _ o sc w t0 => some (atomicOp .or o sc w t0)
  | .amoxor _ _ o sc w t0 => some (atomicOp .xor o sc w t0)
  | .amomin _ _ o sc w t0 => some (atomicOp .min o sc w t0)
  | .amomax _ _ o sc w t0 => some (atomicOp .max o sc w t0)
  | .amominu _ _ o sc w t0 => some (atomicOp .minu o sc w t0)
  | .amomaxu _ _ o sc w t0 => some (atomicOp .maxu o sc w t0)
  | .amocas _ _ o sc t0 => some (atomicOp .cas o sc true t0)
  | .fence _ _ sc => some { kind := .fence, size := 0, scope := sc }
  | _ => none

/-- The body word of an LSID, whether it is masked, and its block index. -/
def Block.memWords (b : Block) : List (Nat × Fields) :=
  (List.range b.words.length).filterMap fun k =>
    match b.fields k with
    | some f => if isMem f then some (k, f) else none
    | none => none

/-- A masked LSID that holds nothing back: nullified, or its instruction has fired with its address (R183). -/
def Block.lsidKnown (b : Block) (i : Nat) : Bool :=
  b.nulled.contains i || b.memWords.any fun e => lsidOf e.2 == i && b.fired.contains e.1

/-- The block's waiting instruction is satisfied or declined, or there is none (R184). -/
def Block.waitOver (b : Block) : Bool :=
  (List.range b.words.length).all fun k =>
    match b.fields k with
    | some f => !isWaiting f || b.done.contains k || b.declined k
    | none => true

/-- May the fired memory instruction at k, of LSID i, be issued (R183, R184), but for what the accesses of the block that
are held back have still to do? -/
def Block.mayIssue (b : Block) (k : Nat) (f : Fields) : Bool :=
  let i := lsidOf f
  b.fired.contains k && !b.issued.contains k && !b.nulled.contains i
    && ((List.range i).all fun j => !b.smask.getLsbD j || b.lsidKnown j)
    && (f.op.toNat ≤ 0x47 || b.waitOver)

/-- A fault of an access of the block in flight, noted for BLOCK_ABANDON with the address (R393, R394).
(DEDUCED, log 21.) -/
def State.noteAccess (s : State) (c x num idx cause : Nat) (tval : Word) : State :=
  s.updBlock c x fun b => if b.num = num then b.note idx cause tval else b

/-- An access issued by the block in flight: an address in the partition is at its place at once; a virtual one is
looked up in the TLB, and waits for a walk when it misses (R123, R152). -/
def State.issueAccess (s : State) (c x num idx : Nat) (k : Ctx) (a : Access) : State :=
  match addrForm a.addr with
  | .part off => s.enter { a with place := some (k.partPlace c off, .normal) }
  | .virt _ =>
    let p := s.lookUp 1 { a with id := s.nextId }
    match p.2.fault with
    | some cause => p.1.noteAccess c x num idx cause a.addr
    | none => { p.1 with accesses := p.1.accesses ++ [p.2], nextId := s.nextId + 1 }
  | _ => s.noteAccess c x num idx 0x21 a.addr

/-- The access of the memory instruction at k of a block, from its operands as they stand when it is issued: a value sent to
its slot A or B after it has fired replaces the operand (DESIGN CHOICE, log 114). -/
def State.bodyAccess (s : State) (c x : Nat) (k : Ctx) (b : Block) (idx : Nat) (f : Fields) (op : MemOp) : Access :=
  let data := leBytes (b.slotB.lookD idx 0).toNat 8
  { id := 0, client := .body c x b.num idx, alloc := k.alloc, kind := op.kind, size := op.size,
    addr := if op.kind = .fence then 0 else b.slotA.lookD idx 0 + imm64 op.imm,
    data := if op.kind = .load || op.kind = .fence then [] else if op.kind = .store then data.take op.size else data,
    acq := op.acq, rel := op.rel, scope := op.scope, order := lsidOf f, block := b.num, ba := b.addr,
    payer := s.payerAt c x }

/-- An access with the place that its address names or the tables as they stand give it. -/
def State.peeked (s : State) (c : Nat) (k : Ctx) (a : Access) : Access :=
  match addrForm a.addr with
  | .part off => { a with place := some (k.partPlace c off, .normal) }
  | .virt va => { a with place := (s.alloc? k.alloc).bind fun al => s.peekPlace al.root va }
  | _ => a

/-- A fired memory instruction of the block that is held back, as the access that it will make. -/
def State.heldAccess (s : State) (c x : Nat) (k : Ctx) (b : Block) (e : Nat × Fields) : Option Access :=
  if b.fired.contains e.1 && !b.issued.contains e.1 && !b.nulled.contains (lsidOf e.2) then
    ((b.ops.look e.1).bind memOpOf).map fun o => s.peeked c k (s.bodyAccess c x k b e.1 e.2 o)
  else none

/-- Is an access in a held FENCE's scope that comes before it still to be performed (R148)? -/
def State.fencePends (s : State) (c x : Nat) (k : Ctx) (b : Block) (w : Access) : Bool :=
  (s.accesses.any fun a => a.ofCtx c x && a.fault.isNone && a.got.isNone && w.after a.block a.order && a.touches w.scope)
    || b.memWords.any fun e => lsidOf e.2 < w.order && (s.heldAccess c x k b e).any fun a => a.touches w.scope

/-- Does an instruction of lower LSID that has fired, and that the block's waiting instruction holds back (R184), hold
back the load at k: a store or atomic of the same bytes, an acquire, or a FENCE with an access before it to wait for (R139,
R145, R148, R183)? -/
def State.heldBack (s : State) (c x : Nat) (k : Ctx) (b : Block) (idx : Nat) (f : Fields) (op : MemOp) : Bool :=
  let a := s.peeked c k (s.bodyAccess c x k b idx f op)
  b.memWords.any fun e => lsidOf e.2 < lsidOf f && match s.heldAccess c x k b e with
    | some w => a.waitsFor w && (w.kind ≠ .fence || s.fencePends c x k b w)
    | none => false

/-- The memory instruction at k issued: its address is formed and checked (R218, R416), and its access recorded. -/
def State.issueMem (s : State) (c x k : Nat) (f : Fields) (op : MemOp) : State :=
  match s.ctx? c x with
  | none => s
  | some ctx =>
    match ctx.block with
    | none => s
    | some b =>
      let s := s.updBlock c x fun b => { b with issued := k :: b.issued }
      let a := s.bodyAccess c x ctx b k f op
      if op.kind = .fence then
        { s with accesses := s.accesses ++ [{ a with id := s.nextId, place := some (0, .normal), granted := true }],
                 nextId := s.nextId + 1 }
      else
        match ctx.checkAddr {} a.addr op.size op.size with
        | some cause => s.noteAccess c x b.num k cause a.addr
        | none => s.issueAccess c x b.num k ctx a

/-- One memory instruction of the block in flight issued, when it may be. -/
def State.settleOne (s : State) (c x : Nat) (e : Nat × Fields) : State :=
  match (s.ctx? c x).bind fun k => k.block.map fun b => (k, b) with
  | none => s
  | some (k, b) =>
    match (b.ops.look e.1).bind memOpOf with
    | some op => if b.mayIssue e.1 e.2 && !s.heldBack c x k b e.1 e.2 op then s.issueMem c x e.1 e.2 op else s
    | none => s

/-- The memory instructions of a block in ascending LSID. -/
def Block.byLsid (b : Block) : List (Nat × Fields) :=
  (List.range 32).flatMap fun i => b.memWords.filter fun e => lsidOf e.2 = i

/-- Issue, in ascending LSID, every fired memory instruction that may be issued now. -/
def State.settle (s : State) (c x : Nat) : State :=
  match s.ctx? c x with
  | none => s
  | some k =>
    match k.block with
    | none => s
    | some b =>
      if b.faults.isEmpty then b.byLsid.foldl (fun s e => s.settleOne c x e) s
      else s

/-- A memory instruction fires: its address is known from then on, and what may be issued is issued; one whose LSID
a NULLS has resolved faults with 0x08 (R183, R227, R415). -/
def fireMem (p : Pred) (l : BitVec 5) (takesData : Bool) (takesAddr : Bool) (i : Instr) (s : State) :
    Host.Outcome State Fault Refusal :=
  fireWith p s fun h =>
    if (takesAddr && h.a.isNone) || (takesData && h.b.isNone) then none
    else if h.blk.nulled.contains l.toNat then s.faultHere h 0x08
    else some ((s.setCtx h.c h.x { h.ctx with block := some (h.blk.fireAs h.k i) }).settle h.c h.x)

/-- NULLS resolves its LSID without an access; an LSID resolved already faults with 0x08 (R227, R415).
(DEDUCED, log 42.) -/
def execNulls (p : Pred) (l : BitVec 5) (s : State) : Host.Outcome State Fault Refusal :=
  fireWith p s fun h =>
    if h.blk.lsidKnown l.toNat then s.faultHere h 0x08
    else
      let b := h.blk.fire h.k
      some ((s.setCtx h.c h.x { h.ctx with block := some { b with nulled := l.toNat :: b.nulled } }).settle h.c h.x)

def execLdb (p : Pred) (l : BitVec 5) (imm : BitVec 9) (t0 : Target) (s : State) : Host.Outcome State Fault Refusal :=
  fireMem p l false true (.ldb p l imm t0) s

def execLdbx (p : Pred) (l : BitVec 5) (imm : BitVec 9) (t0 : Target) (s : State) : Host.Outcome State Fault Refusal :=
  fireMem p l false true (.ldbx p l imm t0) s

def execLdh (p : Pred) (l : BitVec 5) (imm : BitVec 9) (t0 : Target) (s : State) : Host.Outcome State Fault Refusal :=
  fireMem p l false true (.ldh p l imm t0) s

def execLdhx (p : Pred) (l : BitVec 5) (imm : BitVec 9) (t0 : Target) (s : State) : Host.Outcome State Fault Refusal :=
  fireMem p l false true (.ldhx p l imm t0) s

def execLdw (p : Pred) (l : BitVec 5) (imm : BitVec 9) (t0 : Target) (s : State) : Host.Outcome State Fault Refusal :=
  fireMem p l false true (.ldw p l imm t0) s

def execLdwx (p : Pred) (l : BitVec 5) (imm : BitVec 9) (t0 : Target) (s : State) : Host.Outcome State Fault Refusal :=
  fireMem p l false true (.ldwx p l imm t0) s

def execLdd (p : Pred) (l : BitVec 5) (imm : BitVec 9) (t0 : Target) (s : State) : Host.Outcome State Fault Refusal :=
  fireMem p l false true (.ldd p l imm t0) s

def execLda (p : Pred) (l : BitVec 5) (imm : BitVec 9) (t0 : Target) (s : State) : Host.Outcome State Fault Refusal :=
  fireMem p l false true (.lda p l imm t0) s

def execStb (p : Pred) (l : BitVec 5) (imm : BitVec 9) (s : State) : Host.Outcome State Fault Refusal :=
  fireMem p l true true (.stb p l imm) s

def execSth (p : Pred) (l : BitVec 5) (imm : BitVec 9) (s : State) : Host.Outcome State Fault Refusal :=
  fireMem p l true true (.sth p l imm) s

def execStw (p : Pred) (l : BitVec 5) (imm : BitVec 9) (s : State) : Host.Outcome State Fault Refusal :=
  fireMem p l true true (.stw p l imm) s

def execStd (p : Pred) (l : BitVec 5) (imm : BitVec 9) (s : State) : Host.Outcome State Fault Refusal :=
  fireMem p l true true (.std p l imm) s

def execStl (p : Pred) (l : BitVec 5) (imm : BitVec 9) (s : State) : Host.Outcome State Fault Refusal :=
  fireMem p l true true (.stl p l imm) s

def execAmoadd (p : Pred) (l : BitVec 5) (o : Ord) (sc : Scope) (w : Bool) (t0 : Target) (s : State) : Host.Outcome State Fault Refusal :=
  fireMem p l true true (.amoadd p l o sc w t0) s

def execAmoswp (p : Pred) (l : BitVec 5) (o : Ord) (sc : Scope) (w : Bool) (t0 : Target) (s : State) : Host.Outcome State Fault Refusal :=
  fireMem p l true true (.amoswp p l o sc w t0) s

def execAmoand (p : Pred) (l : BitVec 5) (o : Ord) (sc : Scope) (w : Bool) (t0 : Target) (s : State) : Host.Outcome State Fault Refusal :=
  fireMem p l true true (.amoand p l o sc w t0) s

def execAmoor (p : Pred) (l : BitVec 5) (o : Ord) (sc : Scope) (w : Bool) (t0 : Target) (s : State) : Host.Outcome State Fault Refusal :=
  fireMem p l true true (.amoor p l o sc w t0) s

def execAmoxor (p : Pred) (l : BitVec 5) (o : Ord) (sc : Scope) (w : Bool) (t0 : Target) (s : State) : Host.Outcome State Fault Refusal :=
  fireMem p l true true (.amoxor p l o sc w t0) s

def execAmomin (p : Pred) (l : BitVec 5) (o : Ord) (sc : Scope) (w : Bool) (t0 : Target) (s : State) : Host.Outcome State Fault Refusal :=
  fireMem p l true true (.amomin p l o sc w t0) s

def execAmomax (p : Pred) (l : BitVec 5) (o : Ord) (sc : Scope) (w : Bool) (t0 : Target) (s : State) : Host.Outcome State Fault Refusal :=
  fireMem p l true true (.amomax p l o sc w t0) s

def execAmominu (p : Pred) (l : BitVec 5) (o : Ord) (sc : Scope) (w : Bool) (t0 : Target) (s : State) : Host.Outcome State Fault Refusal :=
  fireMem p l true true (.amominu p l o sc w t0) s

def execAmomaxu (p : Pred) (l : BitVec 5) (o : Ord) (sc : Scope) (w : Bool) (t0 : Target) (s : State) : Host.Outcome State Fault Refusal :=
  fireMem p l true true (.amomaxu p l o sc w t0) s

def execAmocas (p : Pred) (l : BitVec 5) (o : Ord) (sc : Scope) (t0 : Target) (s : State) : Host.Outcome State Fault Refusal :=
  fireMem p l true true (.amocas p l o sc t0) s

/-- FENCE takes no operand: it fires when its block begins or its predicate arrives (R226). -/
def execFence (p : Pred) (l : BitVec 5) (sc : Scope) (s : State) : Host.Outcome State Fault Refusal :=
  fireMem p l false false (.fence p l sc) s

end Sys2Proof.Machine
end

