-- ==== Sys2Proof/Machine/CpFlow.lean ====
section
/-! DEFINITION. Exits, and access to the control and status registers (R228 to R233). An exit only records the next
block; its effect takes place at commit (R185, Machine/CpBlock.lean). -/

namespace Sys2Proof.Machine

/-- An address that can be a block of the partition: a control-processor address, a multiple of 4, inside it (R175,
R415). -/
def Ctx.blockAddrOk (k : Ctx) (a : Word) : Bool :=
  match addrForm a with
  | .part off => off % 4 = 0 && off < k.psize
  | _ => false

/-- SIZE of a header, and the address of the word after the block (R174, R229). -/
def sizeOf (h0 : W32) : Nat := bitsOf h0.toNat 23 5
def Block.after (b : Block) : Word := b.addr + BitVec.ofNat 64 (16 + 4 * sizeOf b.h0)

/-- May a CSRW of the block still write EPC? -/
def Block.epcOpen (b : Block) : Bool :=
  (List.range b.words.length).any fun k =>
    match b.fields k with
    | some f => f.op = 0x59 && f.csrNo = 0x002 && !b.fired.contains k && !b.declined k
    | none => false

/-- EPC as the block's commit will find it, once every CSRW of it has fired (R232). -/
def Here.epc (h : Here) : Option Word :=
  if h.blk.epcOpen then none else some (h.blk.csrw.foldl (fun k w => k.csrWrite w.2.1 w.2.2) h.ctx).epc

/-- An exit fires: a second one faults with 0x0B, and an address that is no block of the partition with 0x0C (R415). Of a second
exit that has another fault of its own, 0x0B is reported (R238; DESIGN CHOICE, log 131). -/
def takeExit (s : State) (h : Here) (no : BitVec 3) (kind : ExitKind) (next : Option Word) : Option State :=
  if h.blk.exit.isSome then s.faultHere h 0x0B
  else if (match next with | some a => !h.ctx.blockAddrOk a | none => false) then s.faultHere h 0x0C
  else
    let e : Exit := { no, idx := h.k, kind, next := next.getD 0 }
    some (s.setCtx h.c h.x { h.ctx with block := some { h.blk.fire h.k with exit := some e } })

/-- BRI: next := block address + 4 * signed(OFFS20) (R229). -/
def execBri (p : Pred) (e : BitVec 3) (offs : BitVec 20) (s : State) : Host.Outcome State Fault Refusal :=
  fireWith p s fun h => takeExit s h e .branch (some (h.blk.addr + exitOffset offs))

/-- CALLI: as BRI, and g30 takes the return address at commit. -/
def execCalli (p : Pred) (e : BitVec 3) (offs : BitVec 20) (s : State) : Host.Outcome State Fault Refusal :=
  fireWith p s fun h => takeExit s h e .call (some (h.blk.addr + exitOffset offs))

/-- BR: next := A. -/
def execBr (p : Pred) (e : BitVec 3) (s : State) : Host.Outcome State Fault Refusal :=
  fireWith p s fun h => h.a.bind fun a => takeExit s h e .branch (some a)

/-- CALL: as BR, and g30 takes the return address at commit. -/
def execCall (p : Pred) (e : BitVec 3) (s : State) : Host.Outcome State Fault Refusal :=
  fireWith p s fun h => h.a.bind fun a => takeExit s h e .call (some a)

/-- SCALL enters the handler at TVEC when the block commits; under INH it faults with 0x0D, or with 0x0B as a second
exit (R231, R418; DESIGN CHOICE, log 131). -/
def execScall (p : Pred) (e : BitVec 3) (code : BitVec 20) (s : State) : Host.Outcome State Fault Refusal :=
  fireWith p s fun h =>
    if h.ctx.inh && h.blk.exit.isNone then s.faultHere h 0x0D else takeExit s h e (.scall code) none

/-- TRAP enters the handler at TVEC when the block commits; under INH it faults with 0x0D, or with 0x0B as a second
exit (R231, R418; DESIGN CHOICE, log 131). -/
def execTrap (p : Pred) (e : BitVec 3) (code : BitVec 20) (s : State) : Host.Outcome State Fault Refusal :=
  fireWith p s fun h =>
    if h.ctx.inh && h.blk.exit.isNone then s.faultHere h 0x0D else takeExit s h e (.trap code) none

/-- HALT: after the block's commit the context issues no further block (R230). -/
def execHalt (p : Pred) (e : BitVec 3) (s : State) : Host.Outcome State Fault Refusal :=
  fireWith p s fun h => takeExit s h e .halt none

/-- ERET: at commit INH becomes 0 and EPC names the next block (R232). EPC is tested as the ERET fires or, when a CSRW of
it in the block has still to fire, at commit (R415; DEDUCED, log 18). -/
def execEret (p : Pred) (e : BitVec 3) (s : State) : Host.Outcome State Fault Refusal :=
  fireWith p s fun h => takeExit s h e .eret h.epc

/-- CSRR: the register as it stood when the block began (R172, R233). -/
def execCsrr (p : Pred) (n : BitVec 12) (t0 : Target) (s : State) : Host.Outcome State Fault Refusal :=
  fireResult p t0 0 s fun h => some (csrValue s h n)

/-- CSRW: A is written at commit (R172, R233). -/
def execCsrw (p : Pred) (n : BitVec 12) (s : State) : Host.Outcome State Fault Refusal :=
  fireWith p s fun h => h.a.map fun a =>
    let b := h.blk.fire h.k
    s.setCtx h.c h.x { h.ctx with block := some { b with csrw := b.csrw.put h.k (n, a) } }

end Sys2Proof.Machine
end

