-- ==== Sys2Proof/Machine/CpBlock.lean ====
section
/-! DEFINITION. The steps of a block as a whole: fetch with its checks (R174, R175, R413), commit (R186), abandonment
(R393, R394) and the detection of a stall (R417). -/

namespace Sys2Proof.Machine

/-! ## The checks of R413 over the words of a block -/

def fieldsList (ws : List W32) : List (Nat × W32 × Fields) :=
  ws.zipIdx.map fun e => (e.2, e.1, unpack e.1)

/-- Check 2: exactly EXITS + 1 exits, their numbers distinct and none above EXITS. -/
def exitsOk (exits : Nat) (fs : List (Nat × W32 × Fields)) : Bool :=
  let ns := (fs.filter fun e => isExit e.2.2).map fun e => e.2.2.exitNo.toNat
  ns.length = exits + 1 && ns.all (· ≤ exits) && decide ns.Nodup

/-- Check 3: WMASK and SMASK agree with the body, no LSID is shared, every NULLS names a masked LSID. -/
def masksOk (smask wmask : W32) (fs : List (Nat × W32 × Fields)) : Bool :=
  let writes (j : Nat) : Bool := fs.any fun e => (e.2.2.op = 0x02 || e.2.2.op = 0x07) && e.2.2.a.toNat = j
  let masked (i : Nat) : Bool := fs.any fun e => isMasked e.2.2 && lsidOf e.2.2 = i
  let lsids := (fs.filter fun e => isMem e.2.2).map fun e => lsidOf e.2.2
  (List.range 32).all (fun j => wmask.getLsbD j == writes j && smask.getLsbD j == masked j)
    && decide lsids.Nodup
    && fs.all fun e => e.2.2.op != 0x08 || smask.getLsbD (lsidOf e.2.2)

/-- Check 8 for one target of the word at k. -/
def targetFits (fs : List (Nat × W32 × Fields)) (size k : Nat) (t : Target) : Bool :=
  bitsOf t.toNat 5 2 = 0 &&
    (if targetSlot t = 0 then targetIdx t = 0
     else targetIdx t > k && targetIdx t ≤ size &&
       match fs[targetIdx t]? with
       | none => false
       | some e => if targetSlot t = 1 then takesA e.2.2 else if targetSlot t = 2 then takesB e.2.2 else takesP e.2.2)

/-- The target fields of a word: two in formats T and G, one in the formats with a T0, none in an exit (R178). -/
def targetsOf (f : Fields) : List Target :=
  let op := f.op.toNat
  if op = 0x01 || op = 0x05 || op = 0x06 || (0x10 ≤ op && op ≤ 0x12) || op = 0x30 || (0x70 ≤ op && op ≤ 0x72) then
    [f.b, f.c]
  else if isExit f then [] else [f.c]

/-- Checks 4 to 8 of one word, in the table's order. -/
def wordCause (fs : List (Nat × W32 × Fields)) (size : Nat) (e : Nat × W32 × Fields) : Option Nat :=
  match decode e.2.1 with
  | .error r => some r.cause
  | .ok _ => if (targetsOf e.2.2).all (targetFits fs size e.1) then none else some 0x04

/-- The first failure of R413 over a block read whole: body index (0x1F for a header or whole-block failure) and
cause. -/
def blockCause (h0 smask wmask : W32) (ws : List W32) : Option (Option Nat × Nat) :=
  let fs := fieldsList ws
  if !exitsOk (bitsOf h0.toNat 20 3) fs then some (none, 0x02)
  else if !masksOk smask wmask fs then some (none, 0x03)
  else fs.findSome? fun e => (wordCause fs (sizeOf h0) e).map fun c => (some e.1, c)

/-- Words of a little-endian byte string. -/
def wordsOf : Nat → List Byte → List W32
  | 0, _ => []
  | n + 1, bs => BitVec.ofNat 32 (leNat (bs.take 4)) :: wordsOf n (bs.drop 4)

/-- A fetch that fails: the block is abandoned with nothing issued (R413). -/
def State.fetchFault (s : State) (c x : Nat) (k : Ctx) (cause : Nat) (tval : Word) : State :=
  s.trapOrAbort c x k (BitVec.ofNat 8 cause) k.next tval

/-- Can a context fetch its next block (R32)? -/
def Ctx.mayFetch (k : Ctx) : Bool := k.run = .running && k.block.isNone && !k.freezing

/-- The n-th of four in round-robin order after the one served last. -/
def roundRobin (last n : Nat) : Nat := (last + 1 + n) % 4

/-- Is context x the next of its core to begin a block: the first in round-robin order that can fetch one (R32)? -/
def Core.fetchTurn (q : Core) (x : Nat) : Bool :=
  ((List.range 4).map (roundRobin q.fetchLast)).find? (fun y => (q.ctxs.look y).any Ctx.mayFetch) = some x

/-- H0 where the header, or its first word at least, lies inside the partition and may be read; elsewhere a free value
(R394, R413; DESIGN CHOICE, log 15). -/
def State.headWord (s : State) (c : Nat) (k : Ctx) (off : Nat) (r : FaultRec) : State × W32 :=
  if off + 4 > k.psize then (s, Config.noHeader s.acts)
  else
    let o := s.readAs k.gen k.strict (k.partPlace c off) 4 r
    (o.st, if o.foreign || o.poisoned then Config.noHeader s.acts else w32At o.bytes 0)

/-- BLOCK_FETCH: the context's next block is read from its partition, checked, and begins to execute.
(DEDUCED, log 16.) (DESIGN CHOICE, log 41.) -/
def fetchBlock (c x : Nat) (k : Ctx) (s : State) : Option State :=
  let hdr (h0 : W32) : Word := tvalOf 0x1F h0
  match addrForm k.next with
  | .part off =>
    if off % 4 ≠ 0 || off + 16 > k.psize then
      let p := s.headWord c k off { s.recordFor c k.alloc k.gen 0x26 4 with addr := k.next }
      some (p.1.fetchFault c x k 0x01 (hdr p.2))
    else
      let r := s.recordFor c k.alloc k.gen 0x26 4
      let head := s.readAs k.gen k.strict (k.partPlace c off) 12 { r with addr := k.next }
      if head.foreign then some (head.st.fetchFault c x k 0x24 k.next)
      else if head.poisoned then some (head.st.fetchFault c x k 0x25 k.next)
      else
        let h0 := w32At head.bytes 0
        if bitsOf h0.toNat 28 4 ≠ 0xA || bitsOf h0.toNat 0 20 ≠ 0 || off + 16 + 4 * sizeOf h0 > k.psize then
          some (head.st.fetchFault c x k 0x01 (hdr h0))
        else
          let n := sizeOf h0 + 1
          let body := head.st.readAs k.gen k.strict (k.partPlace c (off + 12)) (4 * n) { r with addr := k.next }
          if body.foreign then some (body.st.fetchFault c x k 0x24 k.next)
          else if body.poisoned then some (body.st.fetchFault c x k 0x25 k.next)
          else
            let ws := wordsOf n body.bytes
            let smask := w32At head.bytes 4
            let wmask := w32At head.bytes 8
            match blockCause h0 smask wmask ws with
            | some (none, cause) => some (body.st.fetchFault c x k cause (hdr h0))
            | some (some i, cause) => some (body.st.fetchFault c x k cause (tvalOf i (ws.getD i 0)))
            | none =>
              let b : Block :=
                { addr := k.next, h0, smask, wmask, words := ws, num := k.blocks, cycle := s.cycle c,
                  markcnt := s.markcnt c k, markkind := s.markkind c k }
              some (body.st.setCtx c x { k with block := some b, blocks := k.blocks + 1, quiet := none })
  | _ => some (s.fetchFault c x k 0x01 (hdr (Config.noHeader s.acts)))

/-- BLOCK_FETCH, in the context's turn. -/
def blockFetch (c x : Nat) (s : State) : Option State :=
  match s.ctx? c x with
  | none => none
  | some k =>
    if k.mayFetch && (s.core c).fetchTurn x then
      (fetchBlock c x k s).map fun t => t.updCore c fun q => { q with fetchLast := x }
    else none

/-! ## Commit (R186) -/

/-- An access of the block that its commit waits for: a load that lies, or may yet prove to lie, on a ONCE page
(R152, R219). (DEDUCED, log 19.) -/
def holdsCommit (c x num : Nat) (a : Access) : Bool :=
  match a.client with
  | .body c' x' n _ => c' = c && x' = x && n = num &&
      (match a.place with | none => true | some (_, attr) => attr = .once)
  | _ => false

/-- An engine instruction or CSRW that is accepted, or declined (R186, condition 4). -/
def Block.settled (b : Block) (k : Nat) : Bool :=
  match b.fields k with
  | none => true
  | some f =>
    if isEngine f then b.done.contains k || b.declined k
    else if f.op = 0x59 then (b.csrw.look k).isSome || b.declined k
    else true

/-- The four conditions of R186, and no fault noted. -/
def Block.complete (b : Block) : Bool :=
  b.faults.isEmpty && b.exit.isSome
    && (List.range 32).all (fun j => !b.wmask.getLsbD j || (b.regw.look j).isSome)
    && (List.range 32).all (fun i => !b.smask.getLsbD i || b.nulled.contains i
        || b.memWords.any fun e => lsidOf e.2 == i && b.done.contains e.1)
    && (List.range b.words.length).all b.settled

/-- Registers, then CSRW values in ascending body index, then g30 of a call, then LEXIT (R186, R233). -/
def Ctx.commitRegs (k : Ctx) (b : Block) (e : Exit) : Ctx :=
  let k := b.regw.foldl (fun k w => match w.2 with | some v => k.setReg w.1 v | none => k) k
  let k := b.csrw.foldl (fun k w => k.csrWrite w.2.1 w.2.2) k
  let k := if e.kind = .call then k.setReg 30 b.after else k
  { k with lexit := e.no, block := none }

/-- The context goes on as its exit says (R229 to R232). -/
def Ctx.leaveBlock (k : Ctx) (b : Block) (e : Exit) : Ctx :=
  match e.kind with
  | .branch | .call => { k with next := e.next }
  | .scall code => k.enterTrap 0x00 b.after (code.setWidth 64)
  | .trap code => k.enterTrap 0x1F b.addr (code.setWidth 64)
  | .halt => { k with run := .halted }
  | .eret => k.leaveTrap

/-- After a HALT: the allocation goes to ENDING when every context of it has halted (R21, R230). -/
def State.endIfHalted (s : State) (a : Nat) : State :=
  match s.alloc? a with
  | none => s
  | some k =>
    if k.st = .running && k.members.all fun m =>
        match s.ctx? m.core m.ctx with
        | some q => q.run = .halted && !q.freezing
        | none => true
    then s.setAlloc a { k with st := .ending } else s

/-- BLOCK_COMMIT (R186). (DEDUCED, log 18.) -/
def blockCommit (c x : Nat) (s : State) : Option State :=
  match s.ctx? c x with
  | none => none
  | some k =>
    match k.block with
    | none => none
    | some b =>
      match b.exit with
      | none => none
      | some e =>
        if !b.complete || s.accesses.any (holdsCommit c x b.num) then none
        else
          let k' := k.commitRegs b e
          if e.kind = .eret && !k'.blockAddrOk k'.epc then
            some (s.trapOrAbort c x k 0x0C b.addr (tvalOf e.idx (b.words.getD e.idx 0)))
          else
            let s := s.setCtx c x (k'.leaveBlock b e)
            some (if e.kind = .halt then s.endIfHalted k.alloc else s)

/-- BLOCK_ABANDON (R393, R394). -/
def blockAbandon (c x : Nat) (s : State) : Option State := s.abandon c x

/-! ## Stall (R417) -/

def ofBlock (c x num : Nat) (a : Access) : Bool :=
  match a.client with
  | .body c' x' n _ => c' = c && x' = x && n = num
  | _ => false

/-- Every engine instruction before the word at k has fired or been declined. -/
def Block.lowerMoving (b : Block) (k : Nat) : Bool :=
  (List.range k).all fun j =>
    match b.fields j with
    | some f => !isEngine f || b.fired.contains j || b.declined j
    | none => true

/-- A fired engine instruction still to be accepted or satisfied. -/
def Block.awaits (b : Block) : Bool :=
  b.ops.any fun e =>
    !b.done.contains e.1 &&
      match b.fields e.1 with
      | some f => isEngine f && (isWaiting f || (b.waitOver && b.lowerMoving e.1))
      | none => false

/-- Nothing of the block can happen any more (R417). -/
def stalled (s : State) (c x : Nat) (b : Block) : Bool :=
  b.faults.isEmpty && !b.complete && (List.range b.words.length).all (fun k => !b.ready k)
    && !s.accesses.any (ofBlock c x b.num)
    && !b.memWords.any (fun e => b.mayIssue e.1 e.2) && !b.awaits

/-- STALL_DETECT: 0x09 when no exit has fired, 0x0A when one has. (DESIGN CHOICE, log 12.) -/
def stallDetect (c x : Nat) (s : State) : Option State :=
  match s.ctx? c x with
  | none => none
  | some k =>
    match k.block with
    | none => none
    | some b =>
      if stalled s c x b then
        some (s.trapOrAbort c x k (if b.exit.isNone then 0x09 else 0x0A) b.addr (tvalOf 0x1F b.h0))
      else none

def execBlockFetch (c x : Nat) (s : State) : Host.Outcome State Fault Refusal := attempt (blockFetch c x) s
def execBlockCommit (c x : Nat) (s : State) : Host.Outcome State Fault Refusal := attempt (blockCommit c x) s
def execBlockAbandon (c x : Nat) (s : State) : Host.Outcome State Fault Refusal := attempt (blockAbandon c x) s
def execStallDetect (c x : Nat) (s : State) : Host.Outcome State Fault Refusal := attempt (stallDetect c x) s

end Sys2Proof.Machine
end

