-- ==== Sys2Proof/Machine/Loader.lean ====
section
/-! DEFINITION. The loader and the configuration path (R72 to R76, R240, R249, R250, R423 to R425), the region
scheduler (R39, R334), and accumulator commands in the fabric (R100, R268, R269, R421, R432, R433). -/

namespace Sys2Proof.Machine

/-- The cause with which the loader drops a command of a freed region, and of a slot that may not be loaded. -/
def State.loaderRecord (s : State) (c : Nat) (k : CfgCmd) (cause : Nat) : FaultRec :=
  let g := match k.ctx with
    | some x => s.genOf c x
    | none => match s.region? c k.region with
      | some r => s.genOf c r.ctx
      | none => 0
  s.recordFor c k.alloc g cause 3

/-- The context whose share pays for a command. -/
def State.payer (s : State) (c : Nat) (k : CfgCmd) : Nat :=
  match k.ctx with
  | some x => x
  | none => match s.region? c k.region with
    | some r => r.ctx
    | none => 4

def CfgOp.stream : CfgOp → Option Word
  | .load _ a _ _ => some a
  | .init a => some a
  | _ => none

/-- A CFG.SWAP of a context that waits on a slot is refused with the cause that refused the load (R420, R423). -/
def State.failSwaps (s : State) (c x rn slot cause : Nat) : State :=
  match s.ctx? c x with
  | none => s
  | some k =>
    match k.block with
    | none => s
    | some b =>
      match b.ops.find? fun e => !b.done.contains e.1 && (match e.2 with
          | .cfgSwap _ r sl _ _ _ => sl.toNat = slot && (((s.core c).regionOf x r.toNat).map (·.1)) = some rn
          | _ => false) with
      | none => s
      | some e => s.updBlock c x fun b => b.note e.1 cause
          (if cause = 0x11 then tvalOf e.1 (b.words.getD e.1 0) else Config.openTval s.acts)

/-! ## Reading a stream -/

/-- Index just past the end of the stream, when the words hold it. -/
def foundEnd (ws : List W32) : Option Nat :=
  match ws with
  | [] => none
  | w :: rest => if isCtl w 0 then streamEnd (cwValue w) rest 1 else streamEnd 0 ws 0

/-- The words of a line added to what the loader has read; reading ends at the end of the stream or at its limit
(R425). -/
def Loading.add (l : Loading) (limit : Nat) (bs : List Byte) : Loading :=
  let ws := (l.words ++ wordsOf (bs.length / 4) bs).take limit
  match foundEnd ws with
  | some n => { l with words := ws.take n, ended := true }
  | none => { l with words := ws, ended := ws.length ≥ limit }

/-- A load of the region scheduler is background work (R331). -/
def CfgCmd.background (k : CfgCmd) : Bool :=
  match k.op with
  | .load _ _ _ sched => sched
  | _ => false

/-- The loader asks for the next line of its stream (R72, R159, R330). -/
def State.askLine (s : State) (c : Nat) (l : Loading) (addr : Word) : Option State :=
  match s.region? c l.cmd.region with
  | none => none
  | some r =>
    match s.ctx? c r.ctx with
    | none => none
    | some k =>
      let at1 := addr + BitVec.ofNat 64 (4 * l.words.length)
      if s.accesses.any fun a => a.client = .loader c then none
      else some (s.enterAt c k
        { id := 0, client := .loader c, alloc := r.alloc, kind := .load, addr := at1, size := 64 - at1.toNat % 64,
          payer := if l.cmd.background then .background else s.payerAt c r.ctx })

/-- A line of the stream has come: its bytes are charged to the loader budget, and poison or a read that was not
performed ends the stream (R327, R423, R437). -/
def State.lineRead (s : State) (c : Nat) (e : Result) : State :=
  match (s.core c).loading with
  | none => s
  | some l =>
    match s.region? c l.cmd.region with
    | none => s
    | some r =>
      let set (s : State) (l : Loading) : State := s.updCore c fun q => { q with loading := some l }
      let charged (n : Nat) : State := if l.cmd.background then s else s.chargeLoader c r.ctx n
      match e with
      | .failed cause _ => set s { l with ended := true, cause := some cause }
      | .bytes bs (some _) => set (charged bs.length) { l with ended := true, cause := some 0x25 }
      | .bytes bs none => set (charged bs.length) (l.add (streamLimit r) bs)

/-! ## Serving commands -/

def State.popPath (s : State) (c : Nat) : State := s.updCore c fun q => { q with cfgPath := q.cfgPath.drop 1 }

/-- An accumulator command that has reached the rows of its region (R268). -/
def reached (r : Region) (k : CfgCmd) (sel : Word) : XaCmd :=
  let es := (r.selected sel).zipIdx
  { cmd := k, left := es, armed := if k.tile then [] else es.map (·.1) }

/-- A region that commands of the path still reach: one under a packet's FREEZE serves what was accepted before. A command
that names one of another freeze or abort holds the path until the region is freed, and is then dropped.
(DESIGN CHOICE, log 117.) -/
def Region.takesCommands (r : Region) : Bool :=
  match r.phase with
  | .placed | .joining => true
  | .freezing _ packet => packet && !r.stopped
  | .aborting => false

/-- The loader starts to serve a command (R72, R240, R249, R250, R420). -/
def State.serve (s : State) (c : Nat) (k : CfgCmd) : Option State :=
  match s.region? c k.region with
  | none => some ((s.popPath c).report (s.loaderRecord c k 0x10))
  | some r =>
    if !r.takesCommands then none
    else
      let s := s.popPath c
      let load (slot : Nat) (full : Bool) : State :=
        let s := if full then s.updCore c fun q => { q with config := clearConfig q.config r.elems slot } else s
        let s := s.updRegion c k.region fun r =>
          r.setSlot slot (if full then { st := .loading } else { r.slot slot with st := .loading })
        s.updCore c fun q => { q with loading := some { cmd := k, slot } }
      let fabric (sel : Word) : State := s.updCore c fun q => { q with xaCmds := q.xaCmds ++ [reached r k sel] }
      match k.op with
      | .load slot _ full _ =>
        let st := (r.slot slot).st
        if st = .current || st = .retiring then some (s.report (s.loaderRecord c k 0x11)) else some (load slot full)
      | .init _ => some (load 0 true)
      | .write w =>
        let slot := bitsOf w.toNat 30 2
        some ((s.updCore c fun q => { q with config := writeConfig q.config r slot [(cwElem w, cwField w, cwValue w)] }).chargeLoader
          c (s.payer c k) 4)
      | .clr sel | .drain sel _ | .spill sel _ | .fill sel _ | .merge sel _ => some (fabric sel)
      | .freeze addr => some (s.updRegion c k.region fun r => { r with phase := .freezing addr false })
      | .abort => some (s.updRegion c k.region fun r => { r with phase := .aborting })

/-- LOADER_SERVE. -/
def loaderServe (c : Nat) (s : State) : Option State :=
  let q := s.core c
  match q.loading with
  | some l =>
    if l.ended then none
    else match l.cmd.op.stream with
      | some a => s.askLine c l a
      | none => none
  | none =>
    match q.cfgPath with
    | [] => none
    | k :: _ => s.serve c k

/-! ## The end of a load (R73, R423, R424) -/

/-- The slot's final contents after a stream. -/
def State.applyStream (s : State) (c rn slot : Nat) (p : Stream1) : State :=
  match s.region? c rn with
  | none => s
  | some r =>
    let s := s.updCore c fun q => { q with config := writeConfig q.config r slot p.writes }
    s.updRegion c rn fun r =>
      let t := r.slot slot
      r.setSlot slot { t with header := p.header.getD t.header, hasHeader := true }

/-- The record of a refused configuration (R424). -/
def State.refusalRecord (s : State) (c : Nat) (l : Loading) (r : Region) (f : CfgFault) : FaultRec :=
  let a := (l.cmd.op.stream).getD 0
  let k := { s.loaderRecord c l.cmd f.cause with addr := a }
  if 0x40 ≤ f.cause && f.cause ≤ 0x47 then
    { k with place := BitVec.ofNat 8 f.place,
             info := BitVec.ofNat 64 (f.word * 2 ^ 32 + f.field * 256 + l.slot * 16 + r.lr % 8) }
  else k

/-- A region whose INIT load is refused: the LAUNCH is refused, or the SPAWN's region goes back (R446). -/
def State.refuseInit (s : State) (c rn : Nat) (r : Region) : State :=
  if r.spawned then
    let k := { s.recordFor c r.alloc (s.genOf c r.ctx) 0x6A 6 with info := BitVec.ofNat 64 (r.ireg * 256) }
    (((s.report k).freeRegion c rn).freeArea r.alloc c rn).signal c r.ctx (64 + r.lr)
  else
    if (s.alloc? r.alloc).any fun k => k.st ≠ .placing then s else
    let launch := (s.alloc? r.alloc).bind (·.launch)
    let s := s.undoPlacement r.alloc
    match launch with
    | some id => s.refusePacket id 0x6A r.ireg
    | none => s

/-- A refused configuration: the slot is IDLE with every field zero, one record is written, and the waiting swap, the
placement or the demand-mode region follows (R423). -/
def State.refuseConfig (s : State) (c : Nat) (l : Loading) (r : Region) (f : CfgFault) : State :=
  let rn := l.cmd.region
  let s := s.updCore c fun q => { q with config := clearConfig q.config r.elems l.slot, loading := none }
  let s := s.updRegion c rn fun r => (r.setSlot l.slot {})
  let s := s.report (s.refusalRecord c l r f)
  match l.cmd.op with
  | .init _ => s.refuseInit c rn r
  | .load slot _ _ sched =>
    if sched then s.updRegion c rn fun r => { r with phase := .aborting, wantConf := none }
    else match l.cmd.ctx with
      | some x => s.failSwaps c x rn slot f.cause
      | none => s
  | _ => s

/-- Contexts of a placed allocation start, and it goes to RUNNING, when every INIT load has completed (R21, R75). -/
def State.startAlloc (s : State) (a : Nat) : State :=
  match s.alloc? a with
  | none => s
  | some k =>
    if k.st = .placing && k.inits = 0 then
      let s := k.members.foldl (fun s m => s.updCtx m.core m.ctx fun x => { x with run := .running }) s
      s.setAlloc a { k with st := .running }
    else s

/-- An INIT load has completed: slot 0 is CURRENT and the region is in the state of a region load (R75, R76). -/
def State.initDone (s : State) (c rn : Nat) : State :=
  match s.region? c rn with
  | none => s
  | some r =>
    let s := s.updRegion c rn fun r =>
      { r.setSlot 0 { r.slot 0 with st := .current } with
        cur := 0, order := [0], phase := if r.phase = .joining then .placed else r.phase }
    let s := r.elems.foldl (fun s e => s.updElem c e fun v =>
      { v with held := if ((s.core c).cfg 0 e).configures then heldWith 0 0 else 0, passed := [] }) s
    let s := s.loadRegion c rn
    if r.spawned then s.signal c r.ctx (64 + r.lr)
    else (s.updAlloc r.alloc fun k => { k with inits := k.inits - 1 }).startAlloc r.alloc

/-- CONFIG_LOAD_COMPLETE. (DEDUCED, log 59.) -/
def configLoadComplete (c : Nat) (s : State) : Option State :=
  match (s.core c).loading with
  | none => none
  | some l =>
    if !l.ended then none
    else
      let rn := l.cmd.region
      match s.region? c rn with
      | none => none
      | some r =>
        match l.cause with
        | some cause => some (s.refuseConfig c l r { cause })
        | none =>
          match parseStream r (r.slot l.slot).hasHeader l.words with
          | .error f => some (s.refuseConfig c l r f)
          | .ok p =>
            let t := s.applyStream c rn l.slot p
            match contentsBad t c r l.slot with
            | some f => some (s.refuseConfig c l r f)
            | none =>
              let t := t.updCore c fun q => { q with loading := none }
              match l.cmd.op with
              | .init _ => some (t.initDone c rn)
              | _ => some (t.updRegion c rn fun r => r.setSlot l.slot { r.slot l.slot with st := .ready })

/-! ## The region scheduler (R39, R334) -/

def Region.demandMode (r : Region) : Bool := (r.slot r.cur).demand

/-- Configuration n of a region: the slot that holds it in a state that can serve it. -/
def Region.slotOf (r : Region) (conf : Nat) (sts : List SlotState) : Option Nat :=
  (List.range 4).find? fun i => sts.contains (r.slot i).st && (r.slot i).conf = conf

/-- Bytes of an allocation's segment as its tables and memory stand. -/
def State.peekBytes (s : State) (root va n : Nat) : List Byte :=
  (lineParts va (n + 1) 0 n).flatMap fun p =>
    match s.peekPlace root ((va + p.1) % 2 ^ 48) with
    | some (pa, _) => s.bytesAt pa p.2
    | none => List.replicate p.2 0

/-- The address of configuration n's stream in the segment (R200). -/
def State.confAddr (s : State) (r : Region) (conf : Nat) : Option (Nat × Nat) :=
  match s.alloc? r.alloc with
  | none => none
  | some a => (a.img.shapes[r.ireg]?).map fun sh =>
      (a.root, a.segbase + leNat (s.peekBytes a.root (a.segbase + sh.conftab + 8 * conf) 8))

/-- The field writes that configuration n's stream would make, whatever its checks will say. -/
def State.confWrites (s : State) (r : Region) (conf : Nat) : Option (List (Nat × Nat × Nat)) :=
  (s.confAddr r conf).map fun p =>
    let ws := wordsOf (streamLimit r) (s.peekBytes p.1 p.2 (4 * streamLimit r))
    let ws := ws.take ((foundEnd ws).getD ws.length)
    let body := match ws with
      | w :: rest => if isCtl w 0 then rest.drop (cwValue w) else ws
      | [] => []
    (body.filter fun w => r.hasElem (cwElem w) && cwField w < 48).map fun w => (cwElem w, cwField w, cwValue w)

/-- Incoming lanes of a region that a configuration takes across its boundary. -/
def entryLanes (r : Region) (cfg : Nat → Cfg) : List (Nat × Nat) :=
  r.elems.flatMap fun e => (List.range 8).filterMap fun key =>
    let g := cfg e
    if r.crosses e key && (!(g.takers key).isEmpty || !(g.passTo key).isEmpty || g.chainLane = some key) then
      some (e, key) else none

/-- A configuration that no slot holds, as an element reads it. -/
def unheldCfg (r : Region) (writes : List (Nat × Nat × Nat)) (e : Nat) : Cfg :=
  let m := writeConfig [] r 0 writes
  fun f => (m.lookD (cfgKey 0 e f) 0).toNat

/-- Of n DATA tokens that wait on a lane of an element, those that are the first of their thread: where the lane feeds a TAGA,
a thread has as many consecutive tokens as OPT0 says (R288), and the TAGA knows how many of the present one have come;
elsewhere every token is taken as a thread's first (DEDUCED, log 27). -/
def firstTokens (v : Elem) (g : Cfg) (key n : Nat) : Nat :=
  if g.op = opTaga && g.source 0 = key then
    let len := g.opt 0 % 16 + 1
    let pos := v.priv.op.tagaPos + (v.bufA.filter Token.isData).length
    ((List.range n).filter fun i => (pos + i) % len = 0).length
  else n

/-- Threads that wait at the entry of a configuration (R39; DEDUCED, log 27): the largest number of threads whose first token
stands in one stage that feeds its entry. -/
def State.threads (s : State) (c : Nat) (r : Region) (conf : Nat) : Nat :=
  let cfg : Option (Nat → Cfg) :=
    match r.slotOf conf [.current, .ready, .retiring] with
    | some i => some ((s.core c).cfg i)
    | none => (s.confWrites r conf).map (unheldCfg r)
  match cfg with
  | none => 0
  | some f => (entryLanes r f).foldl (fun n p =>
      let v := s.elem c p.1
      max n (firstTokens v (f p.1) p.2 ((v.lane p.2).stage.filter Token.isData).length)) 0

/-- Tokens of the CURRENT context in flight in a region, those that a REORD, a MINS or a REP holds among them. -/
def State.inFlight (s : State) (c : Nat) (r : Region) : Bool :=
  r.elems.any fun e =>
    let v := s.elem c e
    let mine (t : Token) : Bool := t.isData && t.ctx.toNat = r.cur
    (v.bufA ++ v.bufB ++ v.bufC).any mine || v.out.any (fun o => mine o.tok) || v.drains.any mine
      || v.priv.op.window.any mine || v.priv.op.group.any mine || v.priv.op.repTok.any mine || v.priv.op.run.isSome
      || v.lanes.any fun l => !r.crosses e l.1 && l.2.stage.any mine

/-- The configuration with the largest count, the lowest number among equals. The caller counts 0 for the CURRENT one: that a
change never chooses it again is the model's choice (DEDUCED, log 27). -/
def bestConf (count : Nat → Nat) : Nat → Option (Nat × Nat)
  | 0 => none
  | n + 1 =>
    match bestConf count n with
    | none => if count n > 0 then some (n, count n) else none
    | some b => if count n > b.2 then some (n, count n) else some b

/-- The slot that the scheduler may load into: an IDLE one, else the READY one least recently current. -/
def Region.loadSlot (r : Region) : Option Nat :=
  match (List.range 4).find? fun i => (r.slot i).st = .idle with
  | some i => some i
  | none =>
    let ready := (List.range 4).filter fun i => (r.slot i).st = .ready
    match ready.find? fun i => !r.order.contains i with
    | some i => some i
    | none => r.order.find? ready.contains

/-- Entries of the configuration path that a context, or the scheduler, holds: the command in service keeps its own
(R240). -/
def Core.pathEntries (q : Core) (x : Option Nat) : Nat :=
  (q.cfgPath.filter fun k => k.ctx = x).length + if q.loading.any fun l => l.cmd.ctx = x then 1 else 0

/-- The scheduler's load of configuration conf into a slot enters the configuration path, in the entries kept for it
(R240). -/
def State.schedulerLoad (s : State) (c rn : Nat) (r : Region) (conf slot : Nat) : Option State :=
  (s.confAddr r conf).bind fun p =>
    if (s.core c).pathEntries none ≥ 4 then none
    else
      let k : CfgCmd :=
        { id := s.nextId, ctx := none, region := rn, alloc := r.alloc, op := .load slot (BitVec.ofNat 64 p.2) true true }
      let s := s.updRegion c rn fun r => { r with wantConf := some conf }
      some { s.updCore c fun q => { q with cfgPath := q.cfgPath ++ [k] } with nextId := s.nextId + 1 }

/-- The configurations of a region's shape. -/
def State.confCount (s : State) (r : Region) : Nat :=
  match s.alloc? r.alloc with
  | some a => ((a.img.shapes[r.ireg]?).map (·.nconf)).getD 0
  | none => 0

/-- What the scheduler decides for one demand-mode region (R39): a swap to the configuration that it has loaded, or a
choice by the threads that wait, with a swap or a load. -/
def State.decide (s : State) (c rn : Nat) : Option State :=
  match s.region? c rn with
  | none => none
  | some r =>
    if !r.demandMode || r.phase ≠ .placed || r.stopped then none
    else match r.wantConf with
      | some conf =>
        (r.slotOf conf [.ready]).map fun i => (s.updRegion c rn fun r => { r with wantConf := none }).makeCurrent c rn i
      | none =>
        let cur := (r.slot r.cur).conf
        let count (n : Nat) : Nat := s.threads c r n
        let busy := count cur > 0 || s.inFlight c r
        if (List.range 4).any (fun i => (r.slot i).st = .loading) || (busy && !r.quantumUp) then none
        else (bestConf (fun n => if n = cur then 0 else count n) (s.confCount r)).bind fun best =>
          match r.slotOf best.1 [.ready, .retiring] with
          | some i => some (s.makeCurrent c rn i)
          | none => r.loadSlot.bind (s.schedulerLoad c rn r best.1)

/-- REGION_SCHEDULER_DECISION: the regions of a core are taken in ascending number after the one served last (R334). -/
def schedulerDecision (c rn : Nat) (s : State) : Option State :=
  let q := s.core c
  let before := q.regions.filter fun e =>
    if q.schedLast < rn then q.schedLast < e.1 && e.1 < rn else q.schedLast < e.1 || e.1 < rn
  if before.any fun e => (s.decide c e.1).isSome then none
  else (s.decide c rn).map fun t => t.updCore c fun q => { q with schedLast := rn }

/-- QUANTUM_EXPIRY: the CURRENT configuration of a demand-mode region has been current for its quantum. -/
def quantumExpiry (c rn : Nat) (s : State) : Option State :=
  match s.region? c rn with
  | none => none
  | some r =>
    if r.demandMode && !r.quantumUp && !r.stopped then some (s.updRegion c rn fun r => { r with quantumUp := true })
    else none

/-! ## Accumulator commands at an element (R100, R268, R269) -/

/-- The selector of a command. -/
def CfgOp.sel : CfgOp → Word
  | .clr s | .drain s _ | .spill s _ | .fill s _ | .merge s _ => s
  | _ => 0

/-- Bytes per element that a command moves. -/
def CfgOp.size : CfgOp → Nat
  | .drain _ _ => 4
  | _ => 96

/-- The address of element k. -/
def XaCmd.addrOf (x : XaCmd) (k : Nat) : Word := (x.cmd.op.address).getD 0 + BitVec.ofNat 64 (x.cmd.op.size * k)

/-- A record for an access of the accumulator unit that failed (R421; DEDUCED, log 28). -/
def State.xaFault (s : State) (c : Nat) (r : Region) (x : XaCmd) (k : Nat) (e cause : Nat) (info : Nat := 0) :
    State :=
  s.report { s.recordFor c r.alloc (s.genOf c r.ctx) cause 2 with
    place := BitVec.ofNat 8 (r.posOf e), addr := x.addrOf k, info := BitVec.ofNat 64 info }

/-- Lines of a record or word of a command: offset and size. -/
def XaCmd.lines (x : XaCmd) (k : Nat) : List (Nat × Nat) := lineParts (x.addrOf k).toNat (x.cmd.op.size + 1) 0 x.cmd.op.size

/-- The accesses of record or word k of a command at an element enter the machine, line by line and each after the one
before it (R138, R160, R269). -/
def State.askXa (s : State) (c : Nat) (r : Region) (kx : Ctx) (x : XaCmd) (k : Nat) (kind : AccKind) (bs : List Byte)
    (poisoned : Bool) : State :=
  let e := (r.selected x.cmd.op.sel).getD k 0
  (x.lines k).foldl (fun s p => s.enterAt c kx
    { id := 0, client := .xa c e x.cmd.id k p.1, alloc := r.alloc, kind, addr := x.addrOf k + BitVec.ofNat 64 p.1,
      size := p.2, data := (bs.drop p.1).take p.2, chained := true, poisoned, payer := s.payerAt c r.ctx }) s

def State.setXa (s : State) (c : Nat) (x : XaCmd) : State :=
  s.updCore c fun q => { q with xaCmds := q.xaCmds.map fun y => if y.cmd.id = x.cmd.id then x else y }

/-- Does a write wait for one of a command that acted at its element before (R136, R139, R150)? -/
def Core.writeWaits (q : Core) (x : XaCmd) (w : XaWrite) : Bool :=
  q.xaCmds.any fun y => y.cmd.id ≠ x.cmd.id && y.outbox.any fun v => v.2.elem = w.elem && v.2.act < w.act

/-- The writes of a command that are due in the order of k are issued (R269). -/
def flushOutbox (c : Nat) (r : Region) (kx : Ctx) : Nat → State → XaCmd → State × XaCmd
  | 0, s, x => (s, x)
  | n + 1, s, x =>
    match x.outbox.look x.nextK with
    | none => (s, x)
    | some w =>
      if (s.core c).writeWaits x w then (s, x)
      else
        flushOutbox c r kx n (s.askXa c r kx x x.nextK .store w.bytes w.poisoned)
          { x with nextK := x.nextK + 1, outbox := x.outbox.del x.nextK }

/-- The due writes of a command, by its number, are issued. -/
def State.flushXa (s : State) (c id : Nat) : State :=
  match (s.core c).xaCmds.find? fun x => x.cmd.id = id with
  | none => s
  | some x =>
    match (s.core c).regions.look x.cmd.region with
    | none => s
    | some r =>
      match s.ctx? c r.ctx with
      | none => s
      | some kx => let p := flushOutbox c r kx 300 s x; p.1.setXa c p.2

/-- Every due write of a core's commands is issued: those of one can wait for those of another. -/
def State.flushAllXa (s : State) (c : Nat) : State :=
  let ids := (s.core c).xaCmds.map (·.cmd.id)
  (List.replicate ids.length ids).flatten.foldl (fun s id => s.flushXa c id) s

/-- Record k as its lines have come: bytes, poison, the cause of a read that was not performed; none while a line is on
its way. -/
def XaCmd.recordOf (x : XaCmd) (k : Nat) : Option (List Byte × Bool × Option Nat) :=
  let got := x.records.lookD k []
  if (x.lines k).all fun p => (got.look p.1).isSome then
    some ((x.lines k).foldl (fun acc p =>
      match got.look p.1 with
      | some (.bytes bs po) => (acc.1 ++ bs, acc.2.1 || po.isSome, acc.2.2)
      | some (.failed cause _) => (acc.1 ++ List.replicate p.2 0, acc.2.1, acc.2.2.orElse fun _ => some cause)
      | none => acc) ([], false, none))
  else none

/-- What a command does to an accumulator: the accumulator after it, a drained token, and bytes to write, with
whether they go under poison. -/
structure XaAct where
  xa : Xa
  tok : Option Token := none
  out : Option (List Byte × Bool) := none
  guarded : Bool := false
  bad : Bool := false
  cause : Option Nat := none

/-- A drain of an accumulator under another generation acts as R97 and R403 give. -/
def drainAct (a : Xa) (gen : BitVec 12) (strict mem : Bool) (ctx : BitVec 2) (pos core : Nat) : XaAct :=
  let foreign := a.gen ≠ gen
  if foreign && strict then
    { xa := a, tok := if mem then none else some { kind := .error, ctx, pay := errorPay 0x24 pos core },
      out := if mem then some (leBytes 0 4, true) else none }
  else
    let v := a.seenBy gen
    { xa := v.drained, tok := if mem then none else some (drainTok v ctx pos core), guarded := v.guarded,
      out := if mem then some (if v.poison then leBytes 0 4 else leBytes (drainValue v).toNat 4, v.poison) else none }

/-- What a command does at one element (R269, R402, R403, R433). -/
def xaAct (x : XaCmd) (k : Nat) (a : Xa) (gen : BitVec 12) (strict : Bool) (g : Cfg) (cur : BitVec 2) (pos core : Nat) :
    XaAct :=
  let record := (x.recordOf k).getD ([], false, none)
  match x.cmd.op with
  | .clr _ => { xa := a.clear gen g.f26 g.f27 }
  | .drain _ mem => drainAct a gen strict mem.isSome cur pos core
  | .spill _ _ =>
    if a.gen ≠ gen && strict then { xa := a, out := some (List.replicate 96 0, true) }
    else { xa := a, out := some ((a.seenBy gen).record, (a.seenBy gen).poison) }
  | .fill _ _ =>
    match record.2.2 with
    | some cause => { xa := a, cause := some cause }
    | none => { xa := a.fill record.1 record.2.1 gen g.f27, bad := !recordOk record.1 }
  | .merge _ _ =>
    match record.2.2 with
    | some cause => { xa := a, cause := some cause }
    | none => { xa := a.merge record.1 record.2.1 gen, bad := !recordOk record.1 }
  | _ => { xa := a }

/-- The command that acts next at an element: the first that has reached it and is not held for an END there (R268). -/
def Core.nextXa (q : Core) (e : Nat) : Option XaCmd := q.xaCmds.find? fun x => x.armed.contains e

/-- Is the latest state of an element free of undecided updates and of a drain that is due (DEDUCED, log 29)? -/
def Elem.settled (v : Elem) : Bool := v.pend.isEmpty && v.priv.due.isNone

/-- The next record of a command is asked for, in the order of k, when no earlier command holds it back. -/
def State.askRecord (s : State) (c : Nat) (r : Region) (kx : Ctx) (x : XaCmd) : Option State :=
  if (s.core c).xaBlocked x then none
  else some ((s.askXa c r kx x x.asked .load [] false).setXa c { x with asked := x.asked + 1 })

/-- A command acts at element e, the k-th it names. -/
def State.actXa (s : State) (c e k : Nat) (r : Region) (kx : Ctx) (x : XaCmd) : State :=
  let v := s.elem c e
  let g := (s.core c).cfg r.cur e
  let a := xaAct x k v.priv.xa kx.gen kx.strict g (BitVec.ofNat 2 r.cur) (r.posOf e) c
  let drains := match a.tok with
    | some t => if g.drainLanes.isEmpty then v.drains else v.drains ++ [t]
    | none => v.drains
  let s := s.setElem c e { v with priv := { v.priv with xa := a.xa }, drains }
  let s := match a.cause with
    | some cause => s.xaFault c r x k e cause
    | none => s
  let x := { x with
    left := x.left.filter fun p => p.1 ≠ e
    armed := x.armed.filter fun n => n ≠ e
    outbox := match a.out with
      | some o => x.outbox.put k { elem := e, act := s.acts, bytes := o.1, poisoned := o.2 }
      | none => x.outbox
    guardAt := if a.guarded then (match x.guardAt with | some p => some (min p k) | none => some k) else x.guardAt
    guardCount := x.guardCount + if a.guarded then 1 else 0
    badAt := if a.bad then (match x.badAt with
      | some w => some (if w.toNat ≤ (x.addrOf k).toNat then w else x.addrOf k)
      | none => some (x.addrOf k)) else x.badAt
    badCount := x.badCount + if a.bad then 1 else 0 }
  (s.setXa c x).flushAllXa c

/-- XA_COMMAND_ACT: the command asks for a record that it needs, or acts. -/
def xaCommandAct (c e : Nat) (s : State) : Option State :=
  let q := s.core c
  match q.nextXa e with
  | none => none
  | some x =>
    match q.regions.look x.cmd.region, x.left.find? fun p => p.1 = e with
    | some r, some (_, k) =>
      (s.ctx? c r.ctx).bind fun kx =>
        if !(s.elem c e).settled || !r.live then none
        else if x.cmd.op.reads && (x.recordOf k).isNone then
          (if x.asked ≤ k then s.askRecord c r kx x else none)
        else some (s.actXa c e k r kx x)
    | _, _ => none

/-- A line of a command's record has come, or has been written. -/
def State.xaLine (s : State) (c e id k off : Nat) (reads : Bool) (v : Result) : State :=
  match (s.core c).xaCmds.find? fun x => x.cmd.id = id with
  | none => s
  | some x =>
    if reads then s.setXa c { x with records := x.records.put k ((x.records.lookD k []).put off v) }
    else match v, s.region? c x.cmd.region with
      | .failed cause info, some r => s.xaFault c r x k e cause info
      | _, _ => s

/-- Is an access of accumulator command id? -/
def Access.ofXa (c id : Nat) (a : Access) : Bool :=
  match a.client with
  | .xa d _ i _ _ => d = c && i = id
  | _ => false

/-- XA_COMMAND_COMPLETE (R268, R432, R433). -/
def xaCommandComplete (c id : Nat) (s : State) : Option State :=
  match (s.core c).xaCmds.find? fun x => x.cmd.id = id with
  | none => none
  | some x =>
    if !x.left.isEmpty || !x.outbox.isEmpty || s.accesses.any (Access.ofXa c id) then none
    else
      match s.region? c x.cmd.region with
      | none => none
      | some r =>
        let base (cause : Nat) : FaultRec := s.recordFor c r.alloc (s.genOf c r.ctx) cause 2
        let s := s.updCore c fun q => { q with xaCmds := q.xaCmds.filter fun y => y.cmd.id ≠ id }
        let s := match x.guardAt with
          | some k => s.report { base 0x48 with
              place := BitVec.ofNat 8 (r.posOf ((r.selected x.cmd.op.sel).getD k 0)),
              info := BitVec.ofNat 64 x.guardCount }
          | none => s
        let s := match x.badAt with
          | some a => s.report { base 0x49 with addr := a, info := BitVec.ofNat 64 x.badCount }
          | none => s
        some (if x.cmd.evt then s.signal c r.ctx (72 + r.lr) else s)

def execLoaderServe (c : Nat) (s : State) : Host.Outcome State Fault Refusal := attempt (loaderServe c) s
def execConfigLoadComplete (c : Nat) (s : State) : Host.Outcome State Fault Refusal := attempt (configLoadComplete c) s
def execRegionSchedulerDecision (c r : Nat) (s : State) : Host.Outcome State Fault Refusal := attempt (schedulerDecision c r) s
def execQuantumExpiry (c r : Nat) (s : State) : Host.Outcome State Fault Refusal := attempt (quantumExpiry c r) s
def execXaCommandAct (c e : Nat) (s : State) : Host.Outcome State Fault Refusal := attempt (xaCommandAct c e) s
def execXaCommandComplete (c id : Nat) (s : State) : Host.Outcome State Fault Refusal := attempt (xaCommandComplete c id) s

end Sys2Proof.Machine
end

