-- ==== Sys2Proof/Machine/CpEngine.lean ====
section
/-! DEFINITION. Engine and synchronisation instructions (R239 to R275): what each one asks of its engine, its acceptance
(R240, R241), its refusal (R419), and its result. -/

namespace Sys2Proof.Machine

/-! ## Acceptance -/

/-- What becomes of an engine instruction that reaches its unit. -/
inductive Accept where
  /-- accepted and, if it waits, satisfied; with its result -/
  | done (s : State) (v : Word)
  /-- its queue is full, or its condition does not hold -/
  | wait
  /-- over the loader budget: counted, and offered again in the next period (R328) -/
  | deferred
  /-- its access has been issued; the result comes when it is performed -/
  | issued (s : State)
  /-- refused, with the cause and, for a cause of memory, the address (R394, R419) -/
  | refuse (s : State) (cause : Nat) (addr : Word)

/-- The context, block and operands of an engine instruction. -/
structure Cmd where
  c : Nat
  x : Nat
  k : Nat
  ctx : Ctx
  blk : Block
  f : Fields
  a : Word
  b : Word

/-- TVAL of a refusal (R394; DESIGN CHOICE, log 14). -/
def Cmd.tval (h : Cmd) (s : State) (cause : Nat) (addr : Word) : Word :=
  if cause ≤ 0x1E then tvalOf h.k (h.blk.words.getD h.k 0) else if cause < 0x40 then addr else Config.openTval s.acts

/-- Instructions of lower body index act first (R188); those before a waiting instruction follow it (R184; DEDUCED, log 20). -/
def Block.lowerDone (b : Block) (k : Nat) : Bool :=
  (List.range k).all fun j =>
    match b.fields j with
    | some f => !isEngine f || b.done.contains j || b.declined j
    | none => true

def Block.mayAccept (b : Block) (k : Nat) (f : Fields) : Bool :=
  b.fired.contains k && !b.done.contains k && !b.issued.contains k && b.faults.isEmpty
    && (isWaiting f || (b.waitOver && b.lowerDone k))

/-- Are all stores to control-processor memory that earlier blocks of a context issued performed? An engine command acts
after them (R153). -/
def State.recordsWritten (s : State) (c x num : Nat) : Bool :=
  !s.accesses.any fun a => match a.client with
    | .body d y n _ =>
      d = c && y = x && n < num && a.kind.writes && a.got.isNone && a.fault.isNone && match addrForm a.addr with
        | .part _ => true
        | _ => false
    | _ => false

/-- An engine instruction is accepted: its result goes to its target. -/
def State.finishEngine (s : State) (c x k : Nat) (t0 : Target) (v : Word) : State :=
  s.updBlock c x fun b => ({ b with done := k :: b.done, issued := k :: b.issued }).send t0 v

/-- The region of an LR, or the refusal of R419. -/
def Cmd.region (h : Cmd) (s : State) (lr : BitVec 3) : Option (Nat × Region) := (s.core h.c).regionOf h.x lr.toNat

def Cmd.lacks (_ : Cmd) (s : State) : Accept := .refuse s 0x10 0

/-! ## Configuration (R249 to R253) -/

/-- Entries of the configuration path that a context holds: a command keeps its entry until it has been served (R240). -/
def State.pathUsed (s : State) (c x : Nat) : Nat := (s.core c).pathEntries (some x)

/-- A command placed on the configuration path. -/
def State.onPath (s : State) (h : Cmd) (rn : Nat) (op : CfgOp) (tile evt : Bool) : State :=
  let k : CfgCmd := { id := s.nextId, ctx := some h.x, region := rn, alloc := h.ctx.alloc, op, tile, evt }
  { s.updCore h.c fun q => { q with cfgPath := q.cfgPath ++ [k] } with nextId := s.nextId + 1 }

/-- A command of the path: it waits for an entry, and then is checked (R240, R419). -/
def Cmd.onPathWhen (h : Cmd) (s : State) (lr : BitVec 3) (demand : Bool) (check : Nat → Region → Option (Nat × Word))
    (op : Region → CfgOp) (tile evt : Bool) : Accept :=
  if s.pathUsed h.c h.x ≥ 4 then .wait
  else match h.region s lr with
    | none => h.lacks s
    | some (rn, r) =>
      if demand && r.demandMode then .refuse s 0x11 0
      else match check rn r with
        | some (cause, addr) => .refuse s cause addr
        | none => .done (s.onPath h rn (op r) tile evt) 0

/-- The loader budget decides before a command is offered to the path (R328, R329). -/
def Cmd.withBudget (h : Cmd) (s : State) (go : Accept) : Accept :=
  match s.standing h.c h.x 2 (h.blk.deferred.look h.k) with
  | .go => go
  | .defer => .deferred
  | .wait => .wait

/-- CFG.LOAD (R249; the check of its address, DEDUCED, log 76). -/
def doCfgLoad (lr : BitVec 3) (sl : BitVec 2) (full : Bool) (h : Cmd) (s : State) : Accept :=
  h.withBudget s (h.onPathWhen s lr true
    (fun _ _ => (h.ctx.checkAddr {} h.a 4 4).map fun cause => (cause, h.a))
    (fun _ => .load sl.toNat h.a full false) false false)

def doCfgWr (lr : BitVec 3) (h : Cmd) (s : State) : Accept :=
  let w : W32 := h.a.setWidth 32
  h.withBudget s (h.onPathWhen s lr true
    (fun _ r =>
      if cwField w ≥ 48 || !r.hasElem (cwElem w) then some (0x18, 0)
      else if fieldOk (cwField w) (cwValue w) then none else some (0x43, 0))
    (fun _ => .write w) false false)

/-- Is a command of context x that names a slot of region rn unserved? -/
def Core.unserved (q : Core) (x rn slot : Nat) (writes : Bool) : Bool :=
  let names (k : CfgCmd) : Bool :=
    k.ctx = some x && k.region = rn && match k.op with
      | .load n _ _ _ => n = slot
      | .write w => writes && bitsOf w.toNat 30 2 = slot
      | _ => false
  q.cfgPath.any names || match q.loading with
    | some l => names l.cmd
    | none => false

/-- CFG.SWAP: satisfied at once when the slot is CURRENT; otherwise SWAP_TAKES_EFFECT satisfies it (R251, R419). -/
def doCfgSwap (lr : BitVec 3) (sl : BitVec 2) (h : Cmd) (s : State) : Accept :=
  match h.region s lr with
  | none => h.lacks s
  | some (rn, r) =>
    if r.demandMode then .refuse s 0x11 0
    else if r.cur = sl.toNat then .done s (sl.setWidth 64)
    else
      let st := (r.slot sl.toNat).st
      if (st = .idle || st = .retiring) && !(s.core h.c).unserved h.x rn sl.toNat false then .refuse s 0x11 0 else .wait

/-- CFG.RETIRE (R252; DEDUCED, log 77). -/
def doCfgRetire (lr : BitVec 3) (sl : BitVec 2) (h : Cmd) (s : State) : Accept :=
  match h.region s lr with
  | none => h.lacks s
  | some (rn, r) =>
    if r.demandMode then .refuse s 0x11 0
    else match (r.slot sl.toNat).st with
      | .current => .refuse s 0x11 0
      | .idle => .done s 0
      | .ready => .done (s.idleSlot h.c rn sl.toNat) 0
      | .loading | .retiring => .wait

/-- CFG.STAT. PEND counts the commands that wait on the path, without the one in service (R253; DESIGN CHOICE, log 132). -/
def cfgStat (q : Core) (rn : Nat) (r : Region) : Word :=
  let pend := (q.cfgPath.filter fun k => k.region = rn).length
  let confs := ((List.range 4).map fun i => (if (r.slot i).st = .idle then 0 else (r.slot i).conf) * 2 ^ (8 * i + 16)).foldl (· + ·) 0
  BitVec.ofNat 64 (pend * 2 ^ 48 + confs + (if r.demandMode then 2 ^ 15 else 0) + r.cur * 2 ^ 12 + r.slotStates)

def doCfgStat (lr : BitVec 3) (h : Cmd) (s : State) : Accept :=
  match h.region s lr with
  | none => h.lacks s
  | some (rn, r) => .done s (cfgStat (s.core h.c) rn r)

/-! ## Streams (R255 to R260) -/

/-- A port that lies on one of the member's regions (R255). -/
def Cmd.grants (h : Cmd) (s : State) (p : Nat) : Bool :=
  match (s.core h.c).regionAt (portElem p) with
  | some (_, r) => r.ctx = h.x && r.alloc = h.ctx.alloc
  | none => false

/-- STR.BIND (R255, R422; foreign and poisoned records, DEDUCED, log 62). -/
def doStrBind (dir : BitVec 2) (ix : BitVec 4) (lane go base : Bool) (h : Cmd) (s : State) : Accept :=
  let named := dir.toNat * 16 + ix.toNat
  let p := h.ctx.portOf named
  match h.ctx.checkAddr { virt := false } h.a 64 64 with
  | some cause => .refuse s cause h.a
  | none =>
    if !h.grants s p then .refuse s 0x12 0
    else if (s.port h.c p).bindings.length ≥ 4 then .wait
    else
      let o := s.engineRead h.c h.ctx h.a 64
        { s.recordFor h.c h.ctx.alloc h.ctx.gen 0x26 1 with unit := BitVec.ofNat 8 (portEngine p), place := portPlace p, addr := h.a }
      match o.cause, o.poison with
      | some cause, _ => .refuse o.st cause h.a
      | none, some _ => .refuse o.st 0x25 h.a
      | none, none =>
        let q := patternOf o.bytes
        let q := if base then { q with base := h.b } else q
        match h.ctx.bindCause q with
        | some cause => .refuse o.st cause (if cause = 0x13 then h.a else q.base)
        | none =>
          let w := o.st.port h.c p
          let b : Binding :=
            { seq := w.seqNext, lane, named, pat := q, ctx := h.x, alloc := h.ctx.alloc, gen := h.ctx.gen,
              st := if go then .queued else .bound }
          .done (o.st.setPort h.c p { w with bindings := w.bindings ++ [b], seqNext := (w.seqNext + 1) % 2 ^ 24 })
            (handleOf b.seq named lane)

/-- What a handle names on its port: a binding, the status of a DONE one, or nothing any more; none when another
context's (R419). -/
inductive Named where
  | here (p : Nat) (b : Binding)
  | gone (d : DoneStatus)
  | expired
  | foreign

def Cmd.named (h : Cmd) (s : State) (v : Word) : Named :=
  let p := h.ctx.portOf (handlePort v)
  let w := s.port h.c p
  match w.bindings.find? fun b => b.seq = handleSeq v with
  | some b => if b.ctx = h.x then .here p b else .foreign
  | none => match w.dones.find? fun d => d.seq = handleSeq v with
    | some d => if d.ctx = h.x then .gone d else .foreign
    | none => .expired

def doStrGo (dl : Bool) (h : Cmd) (s : State) : Accept :=
  match h.named s h.a with
  | .foreign => .refuse s 0x12 0
  | .gone _ | .expired => .done s 0
  | .here p b =>
    let d : W32 := h.b.setWidth 32
    .done (s.updBinding h.c p b.seq fun b =>
      { b with st := if b.st = .bound then .queued else b.st, deadline := if dl then d else 0 }) 0

def doStrCancel (h : Cmd) (s : State) : Accept :=
  match h.named s h.a with
  | .foreign => .refuse s 0x12 0
  | .gone _ | .expired => .done s 0
  | .here p b => .done (s.endBinding h.c p b.seq 0) 0

/-- The binding status (R258). -/
def DoneStatus.word (d : DoneStatus) : Word :=
  BitVec.ofNat 64 (d.items % 2 ^ 32 * 2 ^ 32 + (if d.failAny then 4 else 0) + (if d.lateAny then 2 else 0)
    + if d.cancelled then 1 else 0)

def doStrWait (h : Cmd) (s : State) : Accept :=
  match h.named s h.a with
  | .foreign => .refuse s 0x12 0
  | .gone d => .done s d.word
  | .expired => .done s 8
  | .here _ _ => .wait

def doStrPush (buf : BitVec 4) (sz : BitVec 2) (rand : Bool) (h : Cmd) (s : State) : Accept :=
  let n := 2 ^ sz.toNat
  match h.ctx.bufs.look buf.toNat with
  | none => .refuse s 0x14 0
  | some v =>
    if rand = v.queue then .refuse s 0x14 0
    else if rand then
      if h.b.toNat % n ≠ 0 || h.b.toNat ≥ v.size then .refuse s 0x14 0
      else .done (s.writeAs h.ctx.gen (v.place h.c h.b.toNat) (leBytes h.a.toNat n)) 0
    else if v.space < n then .wait
    else .done (s.pushBuf h.c h.x buf.toNat h.ctx v (leBytes h.a.toNat n) false) 0

def doStrPop (buf : BitVec 4) (sz : BitVec 2) (rand : Bool) (h : Cmd) (s : State) : Accept :=
  let n := 2 ^ sz.toNat
  match h.ctx.bufs.look buf.toNat with
  | none => .refuse s 0x14 0
  | some v =>
    let r := s.recordFor h.c h.ctx.alloc h.ctx.gen 0x26 4
    let r := { r with unit := BitVec.ofNat 8 h.x }
    if rand = v.queue then .refuse s 0x14 0
    else if rand then
      if h.a.toNat % n ≠ 0 || h.a.toNat ≥ v.size then .refuse s 0x14 0
      else
        let a := bufAddr buf.toNat h.a.toNat
        let o := s.readAs h.ctx.gen h.ctx.strict (v.place h.c h.a.toNat) n { r with addr := a }
        if o.foreign then .refuse o.st 0x24 a else if o.poisoned then .refuse o.st 0x25 a
        else .done o.st (BitVec.ofNat 64 (leNat o.bytes))
    else if v.fill < n then .wait
    else
      let a := bufAddr buf.toNat (v.rptr % v.size)
      let o := s.popBuf h.c h.x buf.toNat h.ctx v n { r with addr := a }
      if o.foreign then .refuse o.st 0x24 a else if o.poison.isSome then .refuse o.st 0x25 a
      else .done o.st (BitVec.ofNat 64 (leNat o.bytes))

/-- STR.STAT of a port (R260). -/
def Port.stat (w : Port) : Word :=
  let low := min w.bindings.length 7
  match w.bindings.find? fun b => b.st = .active with
  | some b => BitVec.ofNat 64 (b.moved % 2 ^ 32 * 2 ^ 32 + b.seq % 2 ^ 24 * 256 + 8 + low)
  | none => match w.dones.getLast? with
    | some d => BitVec.ofNat 64 (d.seq % 2 ^ 24 * 256 + low)
    | none => BitVec.ofNat 64 low

/-- STR.STAT of a buffer allocation (R260). -/
def Buf.stat (v : Buf) : Word :=
  if v.queue then BitVec.ofNat 64 (v.space * 2 ^ 32 + v.fill) else BitVec.ofNat 64 (2 ^ 63 + v.size)

def doStrStat (kind : Bool) (dir : BitVec 2) (ix : BitVec 4) (h : Cmd) (s : State) : Accept :=
  if kind then
    match h.ctx.bufs.look ix.toNat with
    | none => .refuse s 0x14 0
    | some v => .done s v.stat
  else .done s (s.port h.c (h.ctx.portOf (dir.toNat * 16 + ix.toNat))).stat

/-! ## Regions (R261 to R267) -/

/-- RGN.ARM (R25, R261). -/
def doRgnArm (lr sec : BitVec 3) (h : Cmd) (s : State) : Accept :=
  match h.region s lr with
  | none => h.lacks s
  | some (rn, r) =>
    let n := min h.a.toNat 0xFFFFFF
    let old := r.remaining.lookD sec.toNat 0
    let s := s.updRegion h.c rn fun r => { r with remaining := r.remaining.put sec.toNat (min (old + n) 0xFFFFFF) }
    .done (if n = 0 && old = 0 then s.signal h.c h.x (8 * lr.toNat + sec.toNat) else s) 0

def doRgnFreeze (lr : BitVec 3) (h : Cmd) (s : State) : Accept :=
  h.onPathWhen s lr false (fun _ _ => (h.ctx.checkAddr { part := false } h.a 64 64).map fun cause => (cause, h.a))
    (fun _ => .freeze h.a) false false

def doRgnAbort (lr : BitVec 3) (h : Cmd) (s : State) : Accept :=
  h.onPathWhen s lr false (fun _ _ => none) (fun _ => .abort) false false

/-- Local region numbers of a context that are taken: by a region, or by a request in the spawn queue. -/
def State.lrTaken (s : State) (c x a lr : Nat) : Bool :=
  ((s.core c).regionOf x lr).isSome || match s.alloc? a with
    | some k => k.spawnQ.any fun q => q.core = c && q.ctx = x && q.lr = lr
    | none => false

def State.askSpawn (s : State) (a : Nat) (q : SpawnReq) : State := s.updAlloc a fun k => { k with spawnQ := k.spawnQ ++ [q] }

def State.spawnFull (s : State) (a : Nat) : Bool :=
  match s.alloc? a with
  | some k => k.spawnQ.length ≥ 16
  | none => true

def doRgnThaw (lr : BitVec 3) (h : Cmd) (s : State) : Accept :=
  if s.spawnFull h.ctx.alloc then .wait
  else if s.lrTaken h.c h.x h.ctx.alloc lr.toNat then .refuse s 0x10 0
  else match h.ctx.checkAddr { part := false } h.a 64 64 with
    | some cause => .refuse s cause h.a
    | none => .done (s.askSpawn h.ctx.alloc
        { core := h.c, ctx := h.x, region := lr.toNat, lr := lr.toNat, thaw := some h.a, subgraph := 0 }) 0

def doSpawn (lr : BitVec 3) (h : Cmd) (s : State) : Accept :=
  if s.spawnFull h.ctx.alloc then .wait
  else match h.region s lr with
    | none => h.lacks s
    | some _ =>
      let g := bitsOf h.a.toNat 0 16
      match (List.range 8).find? fun i => !s.lrTaken h.c h.x h.ctx.alloc i with
      | none => .refuse s 0x10 0
      | some n =>
        match (s.alloc? h.ctx.alloc).bind fun k => k.img.shapes[g]? with
        | none => .refuse s 0x17 0
        | some sh =>
          if !sh.flags.getLsbD 2 then .refuse s 0x17 0
          else .done (s.askSpawn h.ctx.alloc
            { core := h.c, ctx := h.x, region := lr.toNat, lr := n, thaw := none, subgraph := g }) (BitVec.ofNat 64 n)

/-- RGN.QUIET waits for its two waves (R42, R265). -/
def doRgnQuiet (lr : BitVec 3) (h : Cmd) (s : State) : Accept :=
  match h.region s lr with
  | none => h.lacks s
  | some _ => .wait

/-- RGN.STAT (R266); a free number reads as no region (R446), one that a request in the spawn queue has reserved as
joining. SECZ bits of sections that the CURRENT header does not declare read 0 (DESIGN CHOICE, log 118). -/
def State.regionStat (s : State) (c x a lr : Nat) : Word :=
  match (s.core c).regionOf x lr with
  | none => if s.lrTaken c x a lr then 4 else 0
  | some (_, r) =>
    let st := match r.phase with
      | .placed => 1
      | .joining => 2
      | .freezing _ _ | .aborting => 3
    let t := r.slot r.cur
    let secz := ((List.range t.nsec).map fun i => if r.remaining.lookD i 0 = 0 then 2 ^ i else 0).foldl (· + ·) 0
    BitVec.ofNat 64 (r.imageBound * 2 ^ 48 + t.conf * 2 ^ 40 + r.ireg % 256 * 2 ^ 32 + (r.rows - 1) * 2 ^ 28
      + (r.cols - 1) * 2 ^ 24 + secz * 2 ^ 16 + (if r.spawned then 8 else 0) + st * 2)

/-- RGN.STAT (R266; DEDUCED, log 63). -/
def doRgnStat (lr : BitVec 3) (h : Cmd) (s : State) : Accept := .done s (s.regionStat h.c h.x h.ctx.alloc lr.toNat)

/-! ## Accumulators (R268 to R270) -/

/-- The checks of an accumulator command: its selector, and the address that it writes or reads (R419). -/
def Cmd.xaCheck (h : Cmd) (mem : Option (Nat × Nat)) (r : Region) : Option (Nat × Word) :=
  if !r.selOk h.a then some (0x19, 0)
  else match mem with
    | none => none
    | some (al, n) =>
      match h.ctx.checkAddr { part := false, buf := true } h.b al (n * (r.selected h.a).length) with
      | some cause => some (cause, h.b)
      | none => match addrForm h.b with
        | .buf i _ => match h.ctx.bufs.look i with
          | some v => if v.queue then some (0x14, 0) else none
          | none => none
        | _ => none

def doXaClr (lr : BitVec 3) (tile evt : Bool) (h : Cmd) (s : State) : Accept :=
  h.onPathWhen s lr false (fun _ r => h.xaCheck none r) (fun _ => .clr h.a) tile evt
def doXaDrain (lr : BitVec 3) (tile evt mem : Bool) (h : Cmd) (s : State) : Accept :=
  h.onPathWhen s lr false (fun _ r => h.xaCheck (if mem then some (4, 4) else none) r)
    (fun _ => .drain h.a (if mem then some h.b else none)) tile evt
def doXaSpill (lr : BitVec 3) (tile evt : Bool) (h : Cmd) (s : State) : Accept :=
  h.onPathWhen s lr false (fun _ r => h.xaCheck (some (32, 96)) r) (fun _ => .spill h.a h.b) tile evt
def doXaFill (lr : BitVec 3) (tile evt : Bool) (h : Cmd) (s : State) : Accept :=
  h.onPathWhen s lr false (fun _ r => h.xaCheck (some (32, 96)) r) (fun _ => .fill h.a h.b) tile evt
def doXaMerge (lr : BitVec 3) (tile evt : Bool) (h : Cmd) (s : State) : Accept :=
  h.onPathWhen s lr false (fun _ r => h.xaCheck (some (32, 96)) r) (fun _ => .merge h.a h.b) tile evt

/-- XA.STAT: the accumulator after every block addition that has fired (R100), read as R97 gives; foreign under STRICT, or poisoned, it refuses (R270, R392, R403). -/
def doXaStat (lr : BitVec 3) (h : Cmd) (s : State) : Accept :=
  match h.region s lr with
  | none => h.lacks s
  | some (_, r) =>
    let el := bitsOf h.a.toNat 0 8
    if !r.hasElem el then .refuse s 0x19 0
    else
      let a := (s.latest h.c (r.elemAt el) h.ctx.gen).xa
      if a.gen ≠ h.ctx.gen then (if h.ctx.strict then .refuse s 0x24 h.a else .done s (a.seenBy h.ctx.gen).stat)
      else if a.poison then .refuse s 0x25 h.a
      else .done s a.stat

/-! ## Marks, events, semaphores (R271 to R275) -/

/-- c - A, as a count that has reached A (R272). -/
def reachedCount (c a : W32) : Bool := (c - a).toNat < 2 ^ 31

def doMarkWait (kind : Bool) (h : Cmd) (s : State) : Accept :=
  if 16 ≤ h.ctx.stream.toNat then .refuse s 0x16 0
  else
    let v := s.markView h.c h.ctx.stream.toNat
    let n := if kind then v.slot else v.sym
    if reachedCount n (h.a.setWidth 32) then .done s (n.setWidth 64) else .wait

/-- A release of scope DEVICE waits for the context's earlier accesses to locations in it (R144, R161). -/
def Cmd.released (h : Cmd) (s : State) : Bool :=
  !s.accesses.any fun a => match a.client with
    | .body c x n _ => c = h.c && x = h.x && n < h.blk.num && a.got.isNone && a.fault.isNone && a.touches .device
    | _ => false

def doMarkRaise (kind : Bool) (strm : BitVec 5) (h : Cmd) (s : State) : Accept :=
  if 16 ≤ strm.toNat then .refuse s 0x16 0
  else if !h.released s then .wait
  else .done (s.updTeasel fun t => { t with marks := t.marks ++ [{ stream := strm.toNat, kind, index := h.a.setWidth 16 }] }) 0

def doEvtWait (ev : BitVec 7) (h : Cmd) (s : State) : Accept :=
  let n := h.ctx.events.lookD ev.toNat 0
  if n = 0 then .wait
  else .done (s.updCtx h.c h.x fun k => { k with events := k.events.put ev.toNat (n - 1) }) (BitVec.ofNat 64 (n - 1))

def doEvtSignal (ev : BitVec 7) (h : Cmd) (s : State) : Accept :=
  match (s.alloc? h.ctx.alloc).bind fun k => k.members[h.a.toNat]? with
  | none => .refuse s 0x15 0
  | some m =>
    if ev.toNat < 80 then .refuse s 0x15 0
    else if !h.released s then .wait
    else .done { s with eventMsgs := s.eventMsgs ++ [{ alloc := h.ctx.alloc, core := m.core, ctx := m.ctx, event := ev.toNat }] } 0

/-- SEM.WAIT and SEM.POST: an atomic on the semaphore word (R143, R275, R416). -/
def Cmd.semAccess (h : Cmd) (s : State) (o : AOp) (ord : Ord) (sc : Scope) : Accept :=
  match h.ctx.checkAddr {} h.a 4 4 with
  | some cause => .refuse s cause h.a
  | none =>
    .issued (s.issueAccess h.c h.x h.blk.num h.k h.ctx
      { id := 0, client := .body h.c h.x h.blk.num h.k, alloc := h.ctx.alloc, kind := .atomic o, addr := h.a, size := 4,
        data := leBytes h.b.toNat 8, acq := Ord.isAcq ord, rel := Ord.isRel ord, scope := sc, order := h.k,
        block := h.blk.num, ba := h.blk.addr, engine := true, payer := s.payerAt h.c h.x })

def doSemWait (ord : Ord) (sc : Scope) (h : Cmd) (s : State) : Accept := h.semAccess s .semWait ord sc
def doSemPost (ord : Ord) (sc : Scope) (h : Cmd) (s : State) : Accept := h.semAccess s .semPost ord sc

/-! ## Reaching the unit -/

/-- What an engine instruction asks of its unit. -/
def engineDo (i : Instr) (h : Cmd) (s : State) : Accept :=
  match i with
  | .cfgLoad _ r sl full => doCfgLoad r sl full h s
  | .cfgWr _ r => doCfgWr r h s
  | .cfgSwap _ r sl _ _ _ => doCfgSwap r sl h s
  | .cfgRetire _ r sl => doCfgRetire r sl h s
  | .cfgStat _ r _ => doCfgStat r h s
  | .strBind _ dir ix lane go base _ => doStrBind dir ix lane go base h s
  | .strGo _ dl => doStrGo dl h s
  | .strCancel _ => doStrCancel h s
  | .strWait _ _ => doStrWait h s
  | .strPush _ buf sz rand => doStrPush buf sz rand h s
  | .strPop _ buf sz rand _ => doStrPop buf sz rand h s
  | .strStat _ kind dir ix _ => doStrStat kind dir ix h s
  | .rgnArm _ r sec => doRgnArm r sec h s
  | .rgnFreeze _ r => doRgnFreeze r h s
  | .rgnThaw _ r => doRgnThaw r h s
  | .rgnAbort _ r => doRgnAbort r h s
  | .rgnQuiet _ r _ _ => doRgnQuiet r h s
  | .rgnStat _ r _ => doRgnStat r h s
  | .spawn _ r _ => doSpawn r h s
  | .xaClr _ r tile evt => doXaClr r tile evt h s
  | .xaDrain _ r tile evt mem => doXaDrain r tile evt mem h s
  | .xaSpill _ r tile evt => doXaSpill r tile evt h s
  | .xaFill _ r tile evt => doXaFill r tile evt h s
  | .xaMerge _ r tile evt => doXaMerge r tile evt h s
  | .xaStat _ r _ => doXaStat r h s
  | .markWait _ kind _ => doMarkWait kind h s
  | .markRaise _ kind strm => doMarkRaise kind strm h s
  | .evtWait _ ev _ => doEvtWait ev h s
  | .evtSignal _ ev => doEvtSignal ev h s
  | .semWait _ o sc _ => doSemWait o sc h s
  | .semPost _ o sc _ => doSemPost o sc h s
  | _ => .wait

/-- The outcome recorded: a result sent, a deferral counted once per period, or a refusal that abandons the block on
that cycle (R392, R393). -/
def Cmd.settle (h : Cmd) (s : State) (r : Accept) : Option State :=
  match r with
  | .done t v => some (t.finishEngine h.c h.x h.k h.f.c v)
  | .wait => none
  | .deferred =>
    let m := h.ctx.stream.toNat
    some ((s.updBlock h.c h.x fun b => { b with deferred := b.deferred.put h.k (s.period h.c m) }).countDefer m)
  | .issued t => some (t.updBlock h.c h.x fun b => { b with issued := h.k :: b.issued })
  | .refuse t cause addr =>
    (t.updBlock h.c h.x fun b => b.note h.k cause (h.tval t cause addr)).abandon h.c h.x

/-- An engine instruction that has fired is offered to its unit. -/
def tryEngine (c x k : Nat) (s : State) : Option State :=
  match s.ctx? c x with
  | none => none
  | some q =>
    match q.block with
    | none => none
    | some b =>
      match b.fields k, b.ops.look k with
      | some f, some i =>
        if b.mayAccept k f && (f.op = 0x64 || s.recordsWritten c x b.num) then
          let h : Cmd := { c, x, k, ctx := q, blk := b, f, a := b.slotA.lookD k 0, b := b.slotB.lookD k 0 }
          h.settle s (engineDo i h s)
        else none
      | _, _ => none

/-- Every fired engine instruction offered, the waiting one first, and then the memory instructions that may be
issued (R184, R188). -/
def State.pump (s : State) (c x : Nat) : State :=
  match (s.ctx? c x).bind (·.block) with
  | none => s
  | some b =>
    let ks := (b.ops.map (·.1)).filter fun k => match b.fields k with | some f => isEngine f | none => false
    let first := ks.filter fun k => match b.fields k with | some f => isWaiting f | none => false
    ((first ++ ks).foldl (fun s k => (tryEngine c x k s).getD s) s).settle c x

/-- An engine instruction fires once the slots it takes hold values, and reaches its unit (R181, R239). -/
def fireEngine (p : Pred) (needsA needsB : Bool) (i : Instr) (s : State) : Host.Outcome State Fault Refusal :=
  fireWith p s fun h =>
    if (needsA && h.a.isNone) || (needsB && h.b.isNone) then none
    else some ((s.setCtx h.c h.x { h.ctx with block := some (h.blk.fireAs h.k i) }).pump h.c h.x)

/-- ENGINE_ACCEPT: an instruction that found its queue full is offered again. -/
def engineAccept (c x k : Nat) (s : State) : Option State :=
  match (s.ctx? c x).bind (·.block) with
  | none => none
  | some b =>
    match b.fields k with
    | some f => if isWaiting f then none else (tryEngine c x k s).map fun t => t.pump c x
    | none => none

/-- WAIT_SATISFIED: the waiting instruction of a block is offered again; satisfied or declined, it lets the block's
other engine instructions, stores and atomics go (R184, R241). -/
def waitSatisfied (c x : Nat) (s : State) : Option State :=
  match (s.ctx? c x).bind (·.block) with
  | none => none
  | some b =>
    match (List.range b.words.length).find? fun k => match b.fields k with | some f => isWaiting f | none => false with
    | none => none
    | some k =>
      match tryEngine c x k s with
      | some t => some (t.pump c x)
      | none =>
        if b.waitOver && b.faults.isEmpty then
          let t := s.pump c x
          let issued (s : State) : Nat := match (s.ctx? c x).bind (·.block) with | some b => b.issued.length | none => 0
          if issued t = issued s then none else some t
        else none

/-! ## The swap cycle (R35, R36, R251) -/

/-- A CFG.SWAP of a block that waits for slot `sl` of local region `lr`, with DRAINED and RESET. -/
def Block.swapWaiting (b : Block) : Option (Nat × BitVec 3 × BitVec 2 × Bool × Bool × Target) :=
  b.ops.findSome? fun e =>
    match e.2 with
    | .cfgSwap _ r sl dr rs t0 => if b.fired.contains e.1 && !b.done.contains e.1 then some (e.1, r, sl, dr, rs, t0) else none
    | _ => none

/-- SWAP_TAKES_EFFECT: the region's waiting swap, once the slot is READY and the context's own loads and writes of it
have been served. -/
def swapTakesEffect (c rn : Nat) (s : State) : Option State :=
  match s.region? c rn with
  | none => none
  | some r =>
    match (s.ctx? c r.ctx).bind (·.block) with
    | none => none
    | some b =>
      match b.swapWaiting with
      | none => none
      | some (k, lr, sl, dr, rs, t0) =>
        let n := sl.toNat
        if lr.toNat ≠ r.lr || r.phase ≠ .placed || r.stopped || (r.slot n).st ≠ .ready || !b.faults.isEmpty
            || (s.core c).unserved r.ctx rn n true then none
        else
          let old := r.cur
          let s := s.updRegion c rn fun r =>
            { r with steps := r.steps + 1, drained := if dr || rs then r.drained ++ [(old, rs)] else r.drained }
          let s := s.makeCurrent c rn n
          some ((s.finishEngine c r.ctx k t0 (BitVec.ofNat 64 old)).pump c r.ctx)

/-! ## Quiescence (R42, R265) -/

/-- The regions that channels join to a region, directly or through others; regions by core and number. -/
def State.allocRegions (s : State) (a : Nat) : List (Nat × Nat × Region) :=
  s.cores.flatMap fun q => (q.2.regions.filter fun e => e.2.alloc = a).map fun e => (q.1, e.1, e.2)

def Image.joins (g : Image) (i j : Nat) : Bool := g.chans.any fun k => (k.src = i && k.dst = j) || (k.src = j && k.dst = i)

def spanOf (g : Image) (all : List (Nat × Nat × Region)) : Nat → List (Nat × Nat × Region) → List (Nat × Nat × Region)
  | 0, seen => seen
  | n + 1, seen =>
    let more := all.filter fun t => !(seen.any fun u => u.1 = t.1 && u.2.1 = t.2.1)
      && seen.any fun u => g.joins u.2.2.ireg t.2.2.ireg
    if more.isEmpty then seen else spanOf g all n (seen ++ more)

def State.spanning (s : State) (c rn : Nat) (r : Region) : List (Nat × Nat × Region) :=
  match s.alloc? r.alloc with
  | none => [(c, rn, r)]
  | some a => let all := s.allocRegions r.alloc; spanOf a.img all all.length [(c, rn, r)]

/-- Tokens that ring channels have taken out of a region, or brought into it, at its ports: those with both ends in
the set are not counted (R42). -/
def ringTotals (s : State) (set : List (Nat × Nat × Region)) (t : Nat × Nat × Region) : Nat × Nat :=
  let inside (c p : Nat) : Bool := set.any fun u => u.1 = c && u.2.2.holds (portElem p)
  t.2.2.ports.foldl (fun n p =>
    let w := s.port t.1 p
    match w.tx, w.rx with
    | some x, _ => if inside x.core x.port then n else (n.1, n.2 + w.ringCount)
    | none, some x => if inside x.core x.port then n else (n.1 + w.ringCount, n.2)
    | none, none => n) (0, 0)

/-- The running totals, sent and received, of each region of a set; a link between two regions of the set carries its
tokens inside it. -/
def State.totals (s : State) (set : List (Nat × Nat × Region)) : List (Nat × Nat × Nat × Nat) :=
  set.map fun t =>
    let r := ringTotals s set t
    (t.1, t.2.1, t.2.2.sent + r.1, t.2.2.recv + r.2)

def sumTotals (l : List (Nat × Nat × Nat × Nat)) : Nat × Nat := l.foldl (fun n t => (n.1 + t.2.2.1, n.2 + t.2.2.2)) (0, 0)

/-- QUIESCENCE_WAVE_COMPLETE: the first wave's totals are kept; the second decides. -/
def quiescenceWaveComplete (c x : Nat) (s : State) : Option State :=
  match s.ctx? c x with
  | none => none
  | some k =>
    match k.block with
    | none => none
    | some b =>
      match b.ops.findSome? fun e => match e.2 with
          | .rgnQuiet _ r sp t0 => if b.fired.contains e.1 && !b.done.contains e.1 then some (e.1, r, sp, t0) else none
          | _ => none with
      | none => none
      | some (i, lr, sp, t0) =>
        if !b.faults.isEmpty then none
        else match (s.core c).regionOf x lr.toNat with
        | none => none
        | some (rn, r) =>
          let now := s.totals (if sp then s.spanning c rn r else [(c, rn, r)])
          match k.quiet with
          | none => some (s.updCtx c x fun k => { k with quiet := some now })
          | some before =>
            let p := sumTotals before
            let q := sumTotals now
            let quiet := p.1 = p.2 && q.1 = q.2 && p = q
            let s := s.updCtx c x fun k => { k with quiet := none }
            some ((s.finishEngine c x i t0 (if quiet then 1 else 0)).pump c x)

/-! ## The instructions -/

def execCfgLoad (p : Pred) (r : BitVec 3) (sl : BitVec 2) (full : Bool) (s : State) : Host.Outcome State Fault Refusal :=
  fireEngine p true false (.cfgLoad p r sl full) s
def execCfgWr (p : Pred) (r : BitVec 3) (s : State) : Host.Outcome State Fault Refusal :=
  fireEngine p true false (.cfgWr p r) s
def execCfgSwap (p : Pred) (r : BitVec 3) (sl : BitVec 2) (drained : Bool) (reset : Bool) (t0 : Target) (s : State) :
    Host.Outcome State Fault Refusal :=
  fireEngine p false false (.cfgSwap p r sl drained reset t0) s
def execCfgRetire (p : Pred) (r : BitVec 3) (sl : BitVec 2) (s : State) : Host.Outcome State Fault Refusal :=
  fireEngine p false false (.cfgRetire p r sl) s
def execCfgStat (p : Pred) (r : BitVec 3) (t0 : Target) (s : State) : Host.Outcome State Fault Refusal :=
  fireEngine p false false (.cfgStat p r t0) s
def execStrBind (p : Pred) (dir : BitVec 2) (ix : BitVec 4) (lane : Bool) (go : Bool) (base : Bool) (t0 : Target)
    (s : State) : Host.Outcome State Fault Refusal :=
  fireEngine p true base (.strBind p dir ix lane go base t0) s
def execStrGo (p : Pred) (dl : Bool) (s : State) : Host.Outcome State Fault Refusal :=
  fireEngine p true dl (.strGo p dl) s
def execStrCancel (p : Pred) (s : State) : Host.Outcome State Fault Refusal := fireEngine p true false (.strCancel p) s
def execStrWait (p : Pred) (t0 : Target) (s : State) : Host.Outcome State Fault Refusal :=
  fireEngine p true false (.strWait p t0) s
def execStrPush (p : Pred) (buf : BitVec 4) (sz : BitVec 2) (rand : Bool) (s : State) : Host.Outcome State Fault Refusal :=
  fireEngine p true rand (.strPush p buf sz rand) s
def execStrPop (p : Pred) (buf : BitVec 4) (sz : BitVec 2) (rand : Bool) (t0 : Target) (s : State) :
    Host.Outcome State Fault Refusal :=
  fireEngine p rand false (.strPop p buf sz rand t0) s
def execStrStat (p : Pred) (kind : Bool) (dir : BitVec 2) (ix : BitVec 4) (t0 : Target) (s : State) :
    Host.Outcome State Fault Refusal :=
  fireEngine p false false (.strStat p kind dir ix t0) s
def execRgnArm (p : Pred) (r : BitVec 3) (sec : BitVec 3) (s : State) : Host.Outcome State Fault Refusal :=
  fireEngine p true false (.rgnArm p r sec) s
def execRgnFreeze (p : Pred) (r : BitVec 3) (s : State) : Host.Outcome State Fault Refusal :=
  fireEngine p true false (.rgnFreeze p r) s
def execRgnThaw (p : Pred) (r : BitVec 3) (s : State) : Host.Outcome State Fault Refusal :=
  fireEngine p true false (.rgnThaw p r) s
def execRgnAbort (p : Pred) (r : BitVec 3) (s : State) : Host.Outcome State Fault Refusal :=
  fireEngine p false false (.rgnAbort p r) s
def execRgnQuiet (p : Pred) (r : BitVec 3) (span : Bool) (t0 : Target) (s : State) : Host.Outcome State Fault Refusal :=
  fireEngine p false false (.rgnQuiet p r span t0) s
def execRgnStat (p : Pred) (r : BitVec 3) (t0 : Target) (s : State) : Host.Outcome State Fault Refusal :=
  fireEngine p false false (.rgnStat p r t0) s
def execSpawn (p : Pred) (r : BitVec 3) (t0 : Target) (s : State) : Host.Outcome State Fault Refusal :=
  fireEngine p true false (.spawn p r t0) s
def execXaClr (p : Pred) (r : BitVec 3) (tile : Bool) (evt : Bool) (s : State) : Host.Outcome State Fault Refusal :=
  fireEngine p true false (.xaClr p r tile evt) s
def execXaDrain (p : Pred) (r : BitVec 3) (tile : Bool) (evt : Bool) (mem : Bool) (s : State) :
    Host.Outcome State Fault Refusal :=
  fireEngine p true mem (.xaDrain p r tile evt mem) s
def execXaSpill (p : Pred) (r : BitVec 3) (tile : Bool) (evt : Bool) (s : State) : Host.Outcome State Fault Refusal :=
  fireEngine p true true (.xaSpill p r tile evt) s
def execXaFill (p : Pred) (r : BitVec 3) (tile : Bool) (evt : Bool) (s : State) : Host.Outcome State Fault Refusal :=
  fireEngine p true true (.xaFill p r tile evt) s
def execXaMerge (p : Pred) (r : BitVec 3) (tile : Bool) (evt : Bool) (s : State) : Host.Outcome State Fault Refusal :=
  fireEngine p true true (.xaMerge p r tile evt) s
def execXaStat (p : Pred) (r : BitVec 3) (t0 : Target) (s : State) : Host.Outcome State Fault Refusal :=
  fireEngine p true false (.xaStat p r t0) s
def execMarkWait (p : Pred) (kind : Bool) (t0 : Target) (s : State) : Host.Outcome State Fault Refusal :=
  fireEngine p true false (.markWait p kind t0) s
def execMarkRaise (p : Pred) (kind : Bool) (strm : BitVec 5) (s : State) : Host.Outcome State Fault Refusal :=
  fireEngine p true false (.markRaise p kind strm) s
def execEvtWait (p : Pred) (ev : BitVec 7) (t0 : Target) (s : State) : Host.Outcome State Fault Refusal :=
  fireEngine p false false (.evtWait p ev t0) s
def execEvtSignal (p : Pred) (ev : BitVec 7) (s : State) : Host.Outcome State Fault Refusal :=
  fireEngine p true false (.evtSignal p ev) s
def execSemWait (p : Pred) (o : Ord) (sc : Scope) (t0 : Target) (s : State) : Host.Outcome State Fault Refusal :=
  fireEngine p true true (.semWait p o sc t0) s
def execSemPost (p : Pred) (o : Ord) (sc : Scope) (t0 : Target) (s : State) : Host.Outcome State Fault Refusal :=
  fireEngine p true true (.semPost p o sc t0) s

def execEngineAccept (c x k : Nat) (s : State) : Host.Outcome State Fault Refusal := attempt (engineAccept c x k) s
def execWaitSatisfied (c x : Nat) (s : State) : Host.Outcome State Fault Refusal := attempt (waitSatisfied c x) s
def execSwapTakesEffect (c r : Nat) (s : State) : Host.Outcome State Fault Refusal := attempt (swapTakesEffect c r) s
def execQuiescenceWaveComplete (c x : Nat) (s : State) : Host.Outcome State Fault Refusal :=
  attempt (quiescenceWaveComplete c x) s

end Sys2Proof.Machine
end

