-- ==== Sys2Proof/Machine/Rings.lean ====
section
/-! DEFINITION. Ring channels (R66, R350) and ENDs held at a boundary (R157). -/

namespace Sys2Proof.Machine

/-- A token put into the free slot of a ring; one for a member that has left is dropped. -/
def State.ringPush (s : State) (c x b : Nat) (t : Token) : State :=
  match s.ctx? c x with
  | none => s
  | some k =>
    match k.bufs.look b with
    | none => s
    | some v => s.pushBuf c x b k v (leBytes t.word 8) false

/-- Has the ring a free slot: in the buffer allocation itself or, across a die link, by the sender's count (R350)? -/
def State.ringFree (s : State) (c : Nat) (x : RingTx) : Bool :=
  if dieOf c = dieOf x.core then
    match (s.ctx? x.core x.ctx).bind fun k => k.bufs.look x.buf with
    | none => false
    | some v => v.space ≥ 8
  else x.slots ≠ 0

/-- Does the region at a ring's receiving port accept tokens: has its first configuration become CURRENT (R75)? -/
def State.ringOpen (s : State) (x : RingTx) : Bool :=
  match (s.core x.core).regionAt (portElem x.port) with
  | some (_, r) => (r.slot r.cur).st = .current
  | none => false

/-- Place of a port among the sources of its core (R330). -/
def portKey (p : Nat) : Nat := p % 16 * 8 + p / 16

/-- RING_SEND: the head of lane 0 goes into a free slot of the ring, or onto the die links to it; an END goes only
when the writes before it are performed (R157). A slot holds a token with CTX 0, which the receiving element stamps
anew (R27; DESIGN CHOICE, log 120). -/
def ringSend (c p : Nat) (s : State) : Option State :=
  match dropRound c p s with
  | some t => some t
  | none =>
    let w := s.port c p
    match w.tx, w.out0, (s.core c).regionAt (portElem p) with
    | some x, t :: ts, some (_, r) =>
      let h := w.hold.getD { left := s.leftNow c r }
      if !r.live then none
      else if t.kind = .endTile && !s.holdOver c h then
        (if w.hold.isSome then none else some (s.setPort c p { w with hold := some h }))
      else if !s.ringFree c x || !s.ringOpen x then none
      else
        let near := dieOf c = dieOf x.core
        let s := s.setPort c p
          { w with
            out0 := ts, hold := none, ringCount := w.ringCount + if t.isData then 1 else 0
            tx := some { x with slots := if near then x.slots else x.slots - 1 } }
        let t := { t with ctx := 0 }
        some (if near then s.ringPush x.core x.ctx x.buf t
          else { s with
                 nextId := s.nextId + 1
                 flights := s.flights ++
                   [{ what := .token r.alloc x.core x.ctx x.buf s.nextId t, cls := 0, core := c, src := portKey p,
                      payer := s.payerAt c r.ctx, hops := s.route (dieOf c) (dieOf x.core) }] })
    | _, _, _ => none

/-- What a popped ring slot delivers (R66), and the cause of its record. The ERROR for a slot that cannot be used holds
TAG and SIDE 0 (DESIGN CHOICE, log 82). -/
def ringToken (c p : Nat) (o : PopOut) : Token × Option Nat :=
  if o.foreign then ({ kind := .error, pay := engineError c p 0x24 }, some 0x24)
  else if o.poison.isSome then ({ kind := .error, pay := engineError c p 0x25 }, some 0x25)
  else (tokenOf (leNat o.bytes), none)

/-- RING_DELIVER: the slot at RPTR is popped and its token offered on lane 0 of the receiving port. -/
def ringDeliver (c p : Nat) (s : State) : Option State :=
  let w := s.port c p
  match w.rx with
  | none => none
  | some x =>
    match s.ctx? c x.ctx with
    | none => none
    | some k =>
      match k.bufs.look x.buf with
      | none => none
      | some v =>
        if v.fill < 8 || !s.portSpace c p 0 then none
        else
          let r := { s.recordFor c k.alloc k.gen 0x26 1 with
            unit := BitVec.ofNat 8 (portEngine p), place := portPlace p, addr := bufAddr x.buf (v.rptr % v.size) }
          let o := s.popBuf c x.ctx x.buf k v 8 r
          let t := ringToken c p o
          let s := match t.2 with
            | some cause => o.st.report { r with cause := BitVec.ofNat 8 cause }
            | none => o.st
          let e := portElem p
          let s := s.updElem c e fun v => v.setLane (portLane p 0) { v.lane (portLane p 0) with
            stage := (v.lane (portLane p 0)).stage ++ [t.1] }
          some (s.updPort c p fun w =>
            { w with
              offered := w.offered ++ [(0, none)], ringCount := w.ringCount + if t.1.isData then 1 else 0
              rx := some { x with owed := if dieOf c = dieOf x.core then 0 else x.owed + 1 } })

/-- RING_SLOT_RETURN: eight freed slots start back to a sender on another die (R350). (DEDUCED, log 81.) -/
def ringSlotReturn (c p : Nat) (s : State) : Option State :=
  let w := s.port c p
  match w.rx with
  | none => none
  | some x =>
    if x.owed < 8 then none
    else
      some { s.setPort c p { w with rx := some { x with owed := x.owed - 8 } } with
        slotReturns := s.slotReturns ++
          [{ core := x.core, port := x.port, rxCore := c, ctx := x.ctx, buf := x.buf, units := 1,
             hops := s.route (dieOf c) (dieOf x.core) }] }

/-- Slots that have come back to their sender. -/
def State.slotsBack (s : State) (k : SlotReturn) : State :=
  s.updPort k.core k.port fun w =>
    { w with tx := w.tx.map fun t =>
        if t.core = k.rxCore && t.ctx = k.ctx && t.buf = k.buf then { t with slots := t.slots + 8 * k.units } else t }

/-- A hold that may end, let go. -/
def State.letGo (s : State) (c : Nat) (h : Option Hold) : Option Hold :=
  match h with
  | none => none
  | some h => if h.released || !s.holdOver c h then none else some { h with released := true }

/-- END_RELEASE: the END held at element k (before its outputs, or before a switchbox path or drain chain of it), or at
port k - 256, may go once every write before it is performed or resolved. -/
def endRelease (c k : Nat) (s : State) : Option State :=
  if k < 256 then
    let v := s.elem c k
    match s.letGo c v.hold with
    | some h => some ((s.updElem c k fun v => { v with hold := some h }).flush c k)
    | none =>
      v.lanes.findSome? fun l => (s.letGo c l.2.hold).map fun h =>
        s.updElem c k fun v => v.setLane l.1 { l.2 with hold := some h }
  else
    (s.letGo c (s.port c (k - 256)).hold).map fun h => s.updPort c (k - 256) fun w => { w with hold := some h }

def execRingSend (c p : Nat) (s : State) : Host.Outcome State Fault Refusal := attempt (ringSend c p) s
def execRingDeliver (c p : Nat) (s : State) : Host.Outcome State Fault Refusal := attempt (ringDeliver c p) s
def execRingSlotReturn (c p : Nat) (s : State) : Host.Outcome State Fault Refusal := attempt (ringSlotReturn c p) s
def execEndRelease (c k : Nat) (s : State) : Host.Outcome State Fault Refusal := attempt (endRelease c k) s

end Sys2Proof.Machine
end

