-- ==== Sys2Proof/Machine/Homes.lean ====
section
/-! DEFINITION. What happens at the home of an access: the walks it waits for (R121, R123, R436), the core's memory
arbiter (R328 to R330), performing it (R137, R275, R399, R437), and what its client then receives. -/

namespace Sys2Proof.Machine

/-! ## Whose work an access is -/

/-- The generation of the member whose work an access is (R127). -/
def State.clientGen (s : State) (a : Access) : BitVec 12 :=
  match (s.core a.client.core).member a.alloc with
  | some (_, k) => k.gen
  | none => 0

/-- The agent of an access as a record names it. -/
def State.agentRecord (s : State) (a : Access) : FaultRec :=
  let r (src : Nat) : FaultRec := s.recordFor a.client.core a.alloc (s.clientGen a) 0x26 src
  match a.client with
  | .body _ x _ _ => { r 0 with unit := BitVec.ofNat 8 x }
  | .move c p seq _ | .scale c p seq _ | .ahead c p seq _ =>
    match s.binding? c p seq with
    | some b => s.bindingRecord c p b 0x26
    | none => r 1
  | .loader _ => r 3
  | .xa c e _ _ _ =>
    match (s.core c).regionAt e with
    | some (_, g) => { r 2 with place := BitVec.ofNat 8 (g.posOf e) }
    | none => r 2
  | .piece c u id =>
    let m := ((s.teasel.pieces.find? fun k => k.id = id).map (·.strm)).getD 16
    { cause := 0x26, src := 1, core := BitVec.ofNat 8 c, unit := BitVec.ofNat 8 u, strm := BitVec.ofNat 8 m,
      slot := if m < 16 then (s.stream m).view.slot else 0 }
  | .walk c id =>
    match (s.die (dieOf c)).walks.find? fun w => w.id = id with
    | some w => w.note
    | none => r 0

/-- The record of an error that an access finds, which names its requester (R389). -/
def State.accessRecord (s : State) (a : Access) : FaultRec :=
  let r := s.agentRecord a
  match a.client with
  | .walk _ _ => r
  | _ => if a.payer = .background then { r with addr := a.addr, strm := 16, slot := 0 } else { r with addr := a.addr }

/-! ## What an access came to, given to its client -/

/-- A fault of a block's access: noted in its block or, when that has committed, recorded; an abandoned block's is not
reported (R388, R393). (DEDUCED, log 21.) -/
def State.accessFault (s : State) (c x num idx : Nat) (a : Access) (cause : Nat) (info : Nat := 0) : State :=
  if ((s.ctx? c x).bind (·.block)).any (·.num = num) then s.noteAccess c x num idx cause a.addr
  else if a.quiet then s
  else
    s.report { s.agentRecord a with cause := BitVec.ofNat 8 cause, addr := a.addr, info := a.ba ||| BitVec.ofNat 64 info }

/-- The result of a body access in its 64-bit form (R219, R220, R224, R275). -/
def bodyResult (a : Access) (signExt : Bool) (bs : List Byte) : Word :=
  if signExt then wordOf (signedOf (leNat bs) (8 * a.size)) else BitVec.ofNat 64 (leNat bs)

/-- The block gets what its access came to. -/
def State.bodyEnds (s : State) (c x num idx : Nat) (a : Access) (bs : List Byte) (poison : Option Nat) : State :=
  if poison.isSome then s.accessFault c x num idx a 0x25
  else match (s.ctx? c x).bind (·.block) with
    | none => s
    | some b =>
      if b.num ≠ num then s
      else match b.fields idx, b.ops.look idx with
        | some f, some i =>
          if a.engine then (s.finishEngine c x idx f.c (bodyResult a false bs)).pump c x
          else
            let signExt := ((memOpOf i).map (·.signExt)).getD false
            let sends := a.kind = .load || a.kind.isAtomic
            s.updBlock c x fun b =>
              let b := { b with done := idx :: b.done }
              if sends then b.send f.c (bodyResult a signExt bs) else b
        | _, _ => s

/-- The first fault of a piece, and what its packet will hear of (R439). -/
def Piece.fault (k : Piece) (slot : W32) (failed : Bool) (cause addr : Nat) (info : Nat := 0) : Piece :=
  let k := { k with failed := k.failed || failed, poisoned := k.poisoned || !failed }
  if k.cause = 0 then { k with cause, addr, info, faultSlot := slot } else k

/-- Bytes of a piece's line read: poisoned or unread ones stand as zeros under poison (R398). -/
def Piece.lineRead (k : Piece) (slot : W32) (a : Access) (v : Result) : Piece :=
  let had : List Byte × Option Nat := match k.line with
    | some (.bytes bs po) => (bs, po)
    | _ => ([], none)
  match v with
  | .bytes bs none => { k with line := some (.bytes (had.1 ++ bs) had.2) }
  | .bytes _ (some cause) =>
    { k.fault slot false cause a.addr.toNat with
      line := some (.bytes (had.1 ++ List.replicate a.size 0) (some cause)) }
  | .failed cause info =>
    { k.fault slot true cause a.addr.toNat info with
      line := some (.bytes (had.1 ++ List.replicate a.size 0) (some cause)) }

/-- A line of a piece written, or skipped. -/
def Piece.lineWritten (k : Piece) (slot : W32) (a : Access) (v : Result) : Piece :=
  let k := { k with line := none, off := k.off + a.size }
  match v with
  | .bytes _ _ => { k with moved := k.moved + a.size }
  | .failed cause info => k.fault slot true cause a.addr.toNat info

def State.pieceLine (s : State) (id : Nat) (a : Access) (v : Result) : State :=
  s.updTeasel fun t => { t with pieces := t.pieces.map fun k =>
    let slot := if k.strm < 16 then (s.stream k.strm).view.slot else 0
    if k.id = id then (if a.kind = .load then k.lineRead slot a v else k.lineWritten slot a v) else k }

/-! ## Walks (R121, R123, R436) -/

/-- Does an access of die d wait for the page of a virtual address, of one size or the other? -/
def Access.missesPage (a : Access) (d alloc va : Nat) (big : Bool) : Bool :=
  dieOf a.client.core = d && a.alloc = alloc && match a.missing with
    | some v => if big then v / 2 ^ 29 = va / 2 ^ 29 else v / 65536 = va / 65536
    | none => false

/-- An access gets the end of its walk or of its lookup. A fault ends a block's access there; one that translates a
page ahead ends in any case (R124, R393, R438). -/
def State.placed (s : State) (a : Access) (e : Except Nat (Nat × Attr)) : State :=
  let b := a.put e
  match b.fault, a.client with
  | some cause, .body c x num idx => (s.dropAccess a.id).accessFault c x num idx a cause
  | _, .ahead c p seq page =>
    if b.missing.isNone then (s.dropAccess a.id).pageEnd c p seq page b.pageFound else s.updAccess a.id fun _ => b
  | _, _ => s.updAccess a.id fun _ => b

/-- The walk's end reaches every access that joined it, and the TLB of each one's core. -/
def State.walkEnds (s : State) (d : Nat) (w : Walk) (e : WalkEnd) : State :=
  let s := s.updDie d fun k => { k with walks := k.walks.filter fun v => v.id ≠ w.id }
  let big := match e with | .page _ b _ _ _ => b | .fail _ => false
  let joined := s.accesses.filter fun a => a.missesPage d w.alloc w.va big
  let s := match e with
    | .fail _ => s
    | .page pa big attr rd wr =>
      ((joined.map fun a => a.client.core) ++ [w.core]).foldl (fun s c =>
        if (s.core c).tlb.any (·.hits w.alloc w.va) then s
        else
          s.fillTlb c { alloc := w.alloc, page := if big then w.va / 2 ^ 29 else w.va / 2 ^ 16, big, pa, attr, rd, wr }) s
  joined.foldl (fun s a =>
    let va := (a.missing).getD 0
    s.placed a (match e with
      | .fail cause => .error cause
      | .page pa big attr rd wr => placeOf a.kind (pa + if big then bitsOf va 0 29 else bitsOf va 0 16) attr rd wr)) s

/-- A walk asks for the entry of its level in the table at `base`: an access like any other, which passes the arbiter
of the core that started the walk and pays as its requester does (R123, R327, R330). An entry lies in DRAM or port memory
(R435). -/
def State.askTable (s : State) (d : Nat) (w : Walk) (base : Nat) : State :=
  let a := tableEntry w.level base w.va
  match homeOf a with
  | some (.dram _) | some .portMem =>
    s.enter { id := 0, client := .walk w.core w.id, alloc := w.alloc, kind := .load, addr := BitVec.ofNat 64 a, size := 8,
              place := some (a, .normal), payer := w.payer }
  | _ => s.walkEnds d w (.fail 0x2B)

/-- A walk has read a table entry. -/
def State.tableRead (s : State) (c id : Nat) (v : Result) : State :=
  let d := dieOf c
  match (s.die d).walks.find? fun w => w.id = id with
  | none => s
  | some w =>
    match v with
    | .failed _ _ | .bytes _ (some _) => s.walkEnds d w (.fail 0x2B)
    | .bytes bs none =>
      match walkNext w.level (leNat bs) w.va with
      | .ends e => s.walkEnds d w e
      | .table base =>
        let w := { w with level := w.level + 1 }
        (s.updDie d fun k => { k with walks := k.walks.map fun v => if v.id = id then w else v }).askTable d w base

/-- Is a walk of the page that an access misses under way: the access has joined it? -/
def State.joins (s : State) (d : Nat) (a : Access) : Bool :=
  (s.die d).walks.any fun w => a.missesPage d w.alloc w.va false

/-- WALK: of the requests that miss, the first that has joined no walk: it is looked up again, or starts its walk when
fewer than 64 are outstanding (R123). -/
def walkStep (d id : Nat) (s : State) : Option State :=
  match s.accesses.find? fun a => a.missing.isSome && dieOf a.client.core = d && !s.joins d a with
  | none => none
  | some a =>
    if a.id ≠ id then none
    else match a.missing with
      | none => none
      | some va =>
        let c := a.client.core
        match (s.core c).tlb.find? (·.hits a.alloc va) with
        | some e =>
          some ((s.updCore c fun q => { q with tlb := tlbTouch q.tlb a.alloc va }).placed a
            (placeOf a.kind (e.place va) e.attr e.rd e.wr))
        | none =>
          if (s.die d).walks.length ≥ 64 then none
          else
            let w : Walk := { id, core := c, alloc := a.alloc, va, payer := a.payer, note := s.accessRecord a }
            let s := s.updDie d fun k => { k with walks := k.walks ++ [w] }
            some (s.askTable d w (((s.alloc? a.alloc).map (·.root)).getD 0))

/-! ## The memory arbiter of a core (R328 to R330) -/

/-- Place of a source in a round: the stream engines, each with its ports N, E, S, W and then its pieces, the contexts, the
loader, the accumulator unit, the walker. -/
def sourceKey : Client → Nat
  | .move _ p _ _ | .scale _ p _ _ | .ahead _ p _ _ => portKey p
  | .piece _ u _ => u * 8 + 4
  | .body _ x _ _ => 1000 + x
  | .loader _ => 1004
  | .xa _ _ _ _ _ => 1005
  | .walk _ _ => 1006

/-- Which of the sources at one place an access is of: its binding, or its piece. -/
def sourceId : Client → Nat
  | .move _ _ t _ | .scale _ _ t _ | .ahead _ _ t _ => t
  | .piece _ _ id => id
  | _ => 0

def sameSource (a b : Client) : Bool := a.core = b.core && sourceKey a = sourceKey b && sourceId a = sourceId b

def isDram (pa : Nat) : Bool := match homeOf pa with | some (.dram _) => true | _ => false

/-- Requests that wait at a core's arbiter. (DEDUCED, log 79; which accesses are none, DEDUCED, log 58.) -/
def State.waiting (s : State) (c : Nat) : List Access :=
  s.accesses.filter fun a => a.client.core = c && !a.granted && a.located && a.got.isNone && a.kind ≠ .fence
    && orderFree a s.accesses true && !s.scaleAhead a

/-- Has a request been deferred in a period that is over, and not been granted since? -/
def State.carried (s : State) (a : Access) : Bool :=
  !a.granted && a.deferred.any (· ≠ s.payPeriod a.payer)

/-- DRAM units of the request that an access makes next: an access that crosses lines is a request for each of them, checked,
granted and charged by itself (R327, R330). -/
def Access.nextUnits (a : Access) : Nat := if ((a.parts[a.grants]?).map fun p => isDram p.1).getD false then 1 else 0

/-- How a request stands at the arbiter: only an access to DRAM is checked there, and a request of a payer waits for
those of it that are carried over from an earlier period (R328, R329). -/
def State.arbStanding (s : State) (a : Access) : Standing :=
  if a.payer ≠ .background && !s.carried a
      && s.accesses.any (fun b => b.payer = a.payer && b.client.core = a.client.core && s.carried b) then .wait
  else if a.nextUnits = 0 then .go
  else s.standingOf a.payer 0 a.deferred

/-- What an access sends over die links: a walk's read, a configuration stream's, or data (R348). -/
def flitClass : Client → Nat
  | .walk _ _ => 2
  | .loader _ => 3
  | _ => 1

/-- The die of an access's home; a fence has none but its core's. -/
def Access.homeDie (a : Access) : Nat :=
  match a.kind, a.place.bind fun p => homeOf p.1 with
  | .fence, _ | _, none => dieOf a.client.core
  | _, some h => dieOfHome h

/-- An access or what it came to goes onto the links between its core and its home. -/
def State.sendOver (s : State) (a : Access) (what : Cargo) (d e core : Nat) : State :=
  let hops := s.route d e
  { s.updAccess a.id fun a => { a with crossing := true } with
    flights := s.flights ++
      [{ what, cls := flitClass a.client, core, src := sourceKey a.client, payer := a.payer,
         units := max 1 a.parts.length, hops }] }

/-- A request granted: DRAM use is charged. With its last line an access is granted whole, and goes onto its links when
its home is on another die. -/
def State.grant (s : State) (a : Access) : State :=
  let d := dieOf a.client.core
  let whole : Bool := a.parts.length ≤ a.grants + 1
  let s := (s.chargeTo a.payer 0 a.nextUnits).updAccess a.id fun a =>
    { a with granted := whole, grants := a.grants + 1, deferred := none }
  if !whole || a.homeDie = d then s else s.sendOver a (.request a.id) d a.homeDie a.client.core

/-- A request found over budget is deferred in the period its payer is in, and counted (R328). -/
def State.deferAccess (s : State) (a : Access) : State :=
  { s.updAccess a.id fun b => { b with deferred := some (s.payPeriod a.payer), deferNo := s.nextId } with
    nextId := s.nextId + 1 }.countDeferOf a.payer

/-- What a round has come to: the state, the clients granted, and those whose source a deferral has stopped (R328;
DEDUCED, log 79). -/
structure Round where
  st : State
  granted : List Client := []
  stopped : List Client := []

/-- A request's turn in a round: its source receives no more grants than its quota, and its budget is checked now. -/
def Round.turn (r : Round) (a : Access) : Round :=
  if (r.granted.filter (sameSource a.client)).length ≥ r.st.quotaOf a.payer || r.stopped.any (sameSource a.client) then r
  else match r.st.arbStanding a with
    | .go => { r with st := r.st.grant a, granted := a.client :: r.granted }
    | .defer => { r with st := r.st.deferAccess a, stopped := a.client :: r.stopped }
    | .wait => r

/-- The turns of an access: one for each line that it has still to be granted. -/
def Round.turns (r : Round) (a : Access) : Round :=
  (List.range (max 1 (a.parts.length - a.grants))).foldl (fun r _ =>
    match r.st.accesses.find? fun b => b.id = a.id with
    | some b => if b.granted then r else r.turn b
    | none => r) r

/-- A request put into a list after those whose number is not above its own. -/
def insertOn {α : Type} (key : α → Nat) (a : α) : List α → List α
  | [] => [a]
  | b :: bs => if key a < key b then a :: b :: bs else b :: insertOn key a bs

def sortOn {α : Type} (key : α → Nat) (l : List α) : List α := l.foldl (fun m a => insertOn key a m) []

/-- Each place of a list filled with the first of a pool that belongs to the same stream. -/
def fillPlaces {α : Type} [DecidableEq α] (stream : α → Option Nat) : List α → List α → List α
  | [], _ => []
  | a :: as, pool =>
    match pool.find? fun b => stream b = stream a with
    | some b => b :: fillPlaces stream as (pool.erase b)
    | none => a :: fillPlaces stream as pool

/-- A rank's requests in the order of their sources, where of each stream those carried over stand in the order in which they
were deferred and before its newer ones (R329, R330): the places of a stream are its own, and its requests fill them. -/
def carriedFirst {α : Type} [DecidableEq α] (stream : α → Option Nat) (l carried : List α) : List α :=
  fillPlaces stream l (carried ++ l.filter fun a => !carried.contains a)

/-- The order of a rank's requests in a round. -/
def State.roundOrder (s : State) (l : List Access) : List Access :=
  carriedFirst (fun a => s.payerStream a.payer) (sortOn (fun a => sourceKey a.client) l)
    (sortOn (·.deferNo) (l.filter fun a => a.deferred.isSome))

/-- ARBITRATION_ROUND: the real-time requests while one of them stands within its budget, otherwise the background
class. -/
def arbitrationRound (c : Nat) (s : State) : Option State :=
  let w := s.waiting c
  let real := w.filter fun a => (s.payerStream a.payer).isSome
  let back := w.filter fun a => (s.payerStream a.payer).isNone
  let list := if real.any fun a => s.arbStanding a = .go then s.roundOrder real else s.roundOrder real ++ s.roundOrder back
  if list.all fun a => s.arbStanding a = .wait then none
  else some (list.foldl Round.turns { st := s }).st

/-! ## Performing an access (R137) -/

/-- What performing an access comes to. -/
inductive Performed where
  | waits
  | refused (s : State) (cause info : Nat)
  | ok (s : State) (bytes : List Byte) (poison : Option Nat)

def State.accessRead (s : State) (a : Access) : Performed :=
  let r := s.accessRecord a
  a.parts.foldl (fun acc p =>
    match acc with
    | .waits => .waits
    | .refused t cause info => .refused t cause info
    | .ok t bs po =>
      match t.homeRead (s.genAt a.alloc (s.clientGen a) p.1) (s.strictOf a.alloc) p.2.1 p.1 p.2.2.2 r with
      | .waits => .waits
      | .refused t cause info => .refused t cause info
      | .ok t b q => .ok t (bs ++ b) (po.orElse fun _ => q)) (.ok s [] none)

/-- A write changes nothing when any part of it is refused (R441). -/
def State.accessWrite (s : State) (a : Access) (bs : List Byte) : Performed :=
  a.parts.foldl (fun acc p =>
    match acc with
    | .ok t _ _ =>
      let g := s.genAt a.alloc (s.clientGen a) p.1
      let mine := (bs.drop p.2.2.1).take p.2.2.2
      (match (if a.kind = .clear && p.2.1 = .once then .ok (t.onceClear g p.1 p.2.2.2) [] none
              else if a.poisoned then t.homePoison g p.2.1 p.1 mine else t.homeWrite g p.2.1 p.1 mine) with
      | .waits => .waits
      | .refused _ cause info => .refused s cause info
      | .ok t _ _ => .ok t [] none)
    | e => e) (.ok s [] none)

/-- The value that an atomic leaves at its home (R224, R275): operand a, old value, both of n bits, and the value
compared with for a CAS. -/
def atomicNew (o : AOp) (n : Nat) (old a cmp : Nat) : Nat :=
  match o with
  | .add | .semPost => (old + a) % 2 ^ n
  | .swap => a
  | .and => old &&& a
  | .or => old ||| a
  | .xor => old ^^^ a
  | .min => if signedOf old n ≤ signedOf a n then old else a
  | .max => if signedOf a n ≤ signedOf old n then old else a
  | .minu => min old a
  | .maxu => max old a
  | .cas => if old = cmp then a else old
  | .semWait => (old + 2 ^ n - a) % 2 ^ n

/-- For a SEM.WAIT, whether its condition holds (R275). -/
def Access.semHolds (a : Access) (old : Nat) : Bool :=
  match a.kind with
  | .atomic .semWait => leNat (a.data.take 4) ≤ old
  | _ => true

/-- The value that an atomic writes, or none when it writes nothing (R149, R224, R275). -/
def Access.atomicWrite (a : Access) (o : AOp) (old : Nat) : Option Nat :=
  match o with
  | .cas =>
    if old = leNat (a.data.drop 4) then some (leNat (a.data.take 4)) else none
  | .semWait => if leNat (a.data.take 4) = 0 then none else some (atomicNew .semWait 32 old (leNat (a.data.take 4)) 0)
  | o => some (atomicNew o (8 * a.size) old (leNat (a.data.take a.size)) 0)

def State.performAtomic (s : State) (a : Access) (o : AOp) : Performed :=
  match s.accessRead a with
  | .ok t bs none =>
    let old := leNat bs
    if !a.semHolds old then .waits
    else match a.atomicWrite o old with
      | none => .ok t bs none
      | some v => match t.accessWrite a (leBytes v a.size) with
        | .ok u _ _ => .ok u bs none
        | e => e
  | e => e

/-- A line of a piece read: it acts under no generation, and waits for no presence (R317). -/
def State.pieceRead (s : State) (a : Access) (pa : Nat) : Performed :=
  let c := s.checkLine (pa / 64) (s.accessRecord a)
  .ok c.1 (c.1.bytesAt pa a.size)
    (if (c.1.granule (pa / 64)).poison then some (if c.2 then 0x26 else 0x25) else none)

/-- A line of a piece written (R317, R441). (DEDUCED, log 100.) -/
def State.pieceWrite (s : State) (a : Access) (pa : Nat) (attr : Attr) : Performed :=
  match s.lineWrite attr (a.kind = .clear) pa a.data with
  | .ok t _ _ =>
    .ok (if a.poisoned then t.setGranule (pa / 64) { t.granule (pa / 64) with poison := true } else t) [] none
  | .refused t cause info => .refused t cause info
  | .waits => .waits

def State.perform (s : State) (a : Access) : Performed :=
  match a.client, a.place, a.kind with
  | .piece _ _ _, some (pa, _), .load => s.pieceRead a pa
  | .piece _ _ _, some (pa, attr), _ => s.pieceWrite a pa attr
  | _, _, .load => s.accessRead a
  | _, _, .store | _, _, .clear => s.accessWrite a a.data
  | _, _, .atomic o => s.performAtomic a o
  | _, _, .fence => .ok s [] none

/-- The outcome of an access given to its client. -/
def State.settleAccess (s : State) (a : Access) (v : Result) : State :=
  let s := s.dropAccess a.id
  match a.client with
  | .body c x num idx =>
    match v with
    | .failed cause info => s.accessFault c x num idx a cause info
    | .bytes bs po => s.bodyEnds c x num idx a bs po
  | .move c p seq m =>
    if a.kind = .load then s.readEnd c p seq m a.item ((a.place.map (·.1)).getD 0 / 64) a.addr v
    else match v with
      | .failed cause _ => s.writeEnd c p seq a.item 0 a.addr (some cause)
      | .bytes _ _ => s.writeEnd c p seq a.item a.size a.addr none
  | .scale c p seq blk =>
    if a.kind = .load then s.scaleRead c p seq blk v
    else match v with
      | .failed cause _ => s.writeEnd c p seq a.item 0 a.addr (some cause)
      | .bytes _ _ => s.writeEnd c p seq a.item 0 a.addr none
  | .ahead _ _ _ _ => s
  | .loader c => s.lineRead c v
  | .xa c e id k off => s.xaLine c e id k off (a.kind = .load) v
  | .piece _ _ id => s.pieceLine id a v
  | .walk c id => s.tableRead c id v

/-- An access performed at its home: its client has it at once, or when the response has crossed the links back. -/
def State.answer (s : State) (a : Access) (v : Result) : State :=
  let d := dieOf a.client.core
  if a.homeDie = d then s.settleAccess a v
  else
    (s.updAccess a.id fun a => { a with got := some v }).sendOver a (.response a.id) a.homeDie d
      (if a.homeDie = 4 then Config.cores else a.client.core)

/-- A read that waits at its bank for ONCE words, performed when they have all come (R118, R151). -/
def State.wake (s : State) (a : Access) : State :=
  if !a.parked then s
  else match s.perform a with
    | .ok t bs po =>
      let t := t.updAccess a.id fun a => { a with parked := false, got := some (.bytes bs po) }
      if a.homeDie = dieOf a.client.core then t
      else t.sendOver a (.response a.id) a.homeDie (dieOf a.client.core) a.client.core
    | _ => s

/-- Every read that waits at a bank looked at again, as a write is performed. -/
def State.wakeOnce (s : State) : State := (s.accesses.filter fun a => a.parked).foldl State.wake s

/-- The bank at which a read waits, and how many wait there: each holds up to 32 (R118). -/
def State.bankFull (s : State) (a : Access) : Bool :=
  match a.place with
  | none => false
  | some (pa, _) =>
    (s.accesses.filter fun b => b.parked && b.place.any fun p => onceBank p.1 = onceBank pa).length ≥ 32

/-- A SEM.WAIT at its home, on a semaphore word, whose condition holds. -/
def State.semReady (s : State) (pa : Nat) (b : Access) : Bool :=
  b.kind = .atomic .semWait && (b.place.map (·.1)) = some pa && b.granted && !b.crossing && b.got.isNone
    && match s.accessRead b with
      | .ok _ bs none => b.semHolds (leNat bs)
      | _ => false

/-- A WAIT packet that waits on a semaphore word and whose condition holds. (DEDUCED, log 101.) -/
def State.waitReady (s : State) (pa : Nat) (p : Packet) : Bool :=
  p.st = .started && (p.d.getD 0 0).toNat % 256 = 4 && (p.d.getD 1 0).toNat = pa
    && !(s.granule (pa / 64)).poison && (p.d.getD 2 0).toNat % 2 ^ 32 ≤ s.numAt pa 4

/-- An earlier waiter on the same semaphore word whose condition holds goes first (R275). -/
def State.firstWaiter (s : State) (a : Access) : Bool :=
  match a.place with
  | none => true
  | some (pa, _) =>
    ((s.accesses.takeWhile fun b => b.id ≠ a.id).all fun b => !s.semReady pa b)
      && s.teasel.packets.all fun p => !(p.id < a.id && s.waitReady pa p)

/-- Reads that stand before a FENCE and are still to be performed act as acquires of its scope for what stands behind
it (R148). -/
def State.fenced (s : State) (a : Access) : State :=
  match a.client with
  | .body c x _ _ =>
    { s with accesses := s.accesses.map fun b =>
        if b.ofCtx c x && (b.kind = .load || b.kind.isAtomic) && a.after b.block b.order then
          { b with fenced := (a.block, a.order, a.scope) :: b.fenced } else b }
  | _ => s

/-- A write that goes into the log of its round (R41, R167): every one of a region in DET mode, and of a DET scatter elsewhere
one that lies in a staging buffer. -/
def State.logged (s : State) (a : Access) (c p : Nat) : Option (BitVec 32) :=
  match a.round, a.place with
  | some n, some (pa, _) =>
    if s.detPort c p then some n else (match homeOf pa with | some (.staging _) => some n | _ => none)
  | _, _ => none

/-- Does a log still hold a write of the same bytes by an earlier binding of an access's port (R154)? -/
def State.logHolds (s : State) (a : Access) : Bool :=
  match a.client.binding with
  | none => false
  | some (c, p, seq) =>
    let earlier := ((s.port c p).bindings.takeWhile fun b => b.seq ≠ seq).map (·.seq)
    (s.core c).regions.any fun r => r.2.log.any fun e =>
      e.port = p && earlier.contains e.seq && runsMeet a.runs [(e.place, e.size)]

/-- An access performed at its home. -/
def State.performAt (s : State) (a : Access) : Option State :=
  match a.client.binding.bind fun b => (s.logged a b.1 b.2.1).map fun n => (b, n) with
  | some ((c, p, seq), n) => some ((s.dropAccess a.id).logWrite a c p seq n)
  | none =>
    if s.logHolds a then none else
    match s.perform a with
    | .ok t bs po =>
      let t := if a.kind = .fence then t.fenced a else t
      let t := t.answer a (.bytes bs po)
      some (if a.kind.writes then t.wakeOnce else t)
    | .refused t cause info => some (t.answer a (.failed cause info))
    | .waits =>
      if a.kind ≠ .load || a.parked || s.bankFull a then none
      else some (s.updAccess a.id fun a => { a with parked := true })

/-- ACCESS_PERFORMED: the home performs an access; an access that has faulted is resolved; a result that is back is given
to its client (R137, R438). -/
def accessPerformed (id : Nat) (s : State) : Option State :=
  match s.accesses.find? fun a => a.id = id with
  | none => none
  | some a =>
    match a.fault, a.got with
    | some cause, _ => some (s.settleAccess a (.failed cause))
    | none, some v => if a.crossing then none else some (s.settleAccess a v)
    | none, none =>
      if !(a.kind = .fence || a.located) || !a.granted || a.crossing || !orderFree a s.accesses true
          || (a.kind = .atomic .semWait && !s.firstWaiter a) then none
      else s.performAt a

/-- SEM_RETEST: the home tests the word of a waiting SEM.WAIT again. -/
def semRetest (id : Nat) (s : State) : Option State :=
  match s.accesses.find? fun a => a.id = id with
  | none => none
  | some a => if a.kind = .atomic .semWait then accessPerformed id s else none

def execWalk (d id : Nat) (s : State) : Host.Outcome State Fault Refusal := attempt (walkStep d id) s
def execArbitrationRound (c : Nat) (s : State) : Host.Outcome State Fault Refusal := attempt (arbitrationRound c) s
def execAccessPerformed (id : Nat) (s : State) : Host.Outcome State Fault Refusal := attempt (accessPerformed id) s
def execSemRetest (id : Nat) (s : State) : Host.Outcome State Fault Refusal := attempt (semRetest id) s

end Sys2Proof.Machine
end

