-- ==== Sys2Proof/Machine/Marks.lean ====
section
/-! DEFINITION. Marks (R271, R313, R325, R326, R329, R335) and the delivery of events (R274). -/

namespace Sys2Proof.Machine

/-! ## The mark unit (R271, R313, R317) -/

/-- The members bound to a stream, in order of allocation and member number (R326). -/
def State.boundMembers (s : State) (m : Nat) : List Member :=
  s.allocs.flatMap fun a => if a.2.strm = m then a.2.members else []

/-- What the stream's registers and counts become as the unit applies a mark. -/
def Stream.mark (k : Stream) (kind : Bool) (index : BitVec 16) (members : Nat) : Stream :=
  if kind then
    { k with
      view := { sym := k.view.sym, slot := k.view.slot + 1, kind, index, ldram := k.ldram, llink := k.llink,
                lload := k.lload, latepol := k.latepol, wt := k.wt }
      pend := false, shared := members }
  else { k with view := { k.view with sym := k.view.sym + 1, kind, index } }

/-- MARK_UNIT_APPLY: the next mark, counted and delivered to every core that holds a member of its stream and, a slot
mark, to the copy logic of every compute die. A core's queue of marks keeps this order among streams too (DESIGN CHOICE,
log 121). -/
def markUnitApply (s : State) : Option State :=
  match s.teasel.marks with
  | [] => none
  | k :: ks =>
    let m := k.stream
    let members := s.boundMembers m
    let s := s.updStream m fun v => v.mark k.kind k.index members.length
    let view := (s.stream m).view
    let s := (members.map (·.core)).eraseDups.foldl (fun s c =>
      s.updCore c fun q => { q with markQ := q.markQ ++ [{ stream := m, slotMark := k.kind, view }] }) s
    let s := if k.kind then
        { s with dies := (List.range 4).foldl (fun ds d =>
            ds.put d { s.die d with copies := (s.die d).copies.put m (allowance view) }) s.dies }
      else s
    some (s.updTeasel fun t =>
      { t with
        marks := ks
        packets := t.packets.map fun p => if k.packet = some p.id then { p with st := .finished } else p })

/-! ## A mark at a core (R326, R329, R335) -/

/-- Has the deadline of a binding passed at a slot count? -/
def Binding.pastDue (b : Binding) (slot : W32) : Bool := b.deadline != 0 && (slot - b.deadline).toNat < 2 ^ 31

/-- The bindings at a core that the late policy changes: those of the stream's members that are past their deadlines
and that no mark has changed yet. -/
def State.lateBindings (s : State) (c m : Nat) (slot : W32) : List (Nat × Nat) :=
  (s.core c).ports.flatMap fun w => (w.2.bindings.filter fun b =>
    s.strmOf b.alloc = m && !b.late && b.ended.isNone && b.pastDue slot).map fun b => (w.1, b.seq)

/-- LATEPOL acts on one binding: 1 cuts it, 2 demotes it with its requests not yet granted, at the arbiter or at a die
link. -/
def State.latePolicy (s : State) (c : Nat) (pol : BitVec 2) (w : Nat × Nat) : State :=
  let s := s.updBinding c w.1 w.2 fun b => { b with late := pol != 0 }
  if pol = 1 then s.endBinding c w.1 w.2 0
  else if pol = 2 then
    let s := s.updBinding c w.1 w.2 fun b => { b with demoted := true }
    let held (a : Access) : Bool := a.ofBinding c w.1 w.2 && (!a.granted || s.isHeld a)
    let ids := (s.accesses.filter held).map (·.id)
    { s with
      accesses := s.accesses.map fun a => if held a then { a with payer := .background } else a
      flights := s.flights.map fun f => match f.what with
        | .request id => if ids.contains id then { f with payer := .background } else f
        | _ => f }
  else s

/-- The share of the i-th of n members (R326). -/
def shareOf (l : W32) (n i : Nat) : Share :=
  { limit := (limitOf l).map fun l => l / n + if i < l % n then 1 else 0 }

/-- The shares of every member of a stream at a core, counted from 0. -/
def State.setShares (s : State) (c m : Nat) (v : MarkView) : State :=
  let all := s.boundMembers m
  all.zipIdx.foldl (fun s e =>
    if e.1.core = c then
      s.updCtx c e.1.ctx fun k => { k with budget :=
        { dram := shareOf v.ldram all.length e.2, link := shareOf v.llink all.length e.2,
          load := shareOf v.lload all.length e.2 } }
    else s) s

/-- MARK_APPLY: the late policy of the ending period, the values that the mark carries, the new shares. Requests
deferred before are granted in the new period (R329). -/
def markApply (c : Nat) (s : State) : Option State :=
  let q := s.core c
  match q.markQ with
  | [] => none
  | k :: ks =>
    let old := q.marks.lookD k.stream {}
    let s := s.updCore c fun q => { q with markQ := ks }
    let s := if k.slotMark then
        (s.lateBindings c k.stream k.view.slot).foldl (fun s w => s.latePolicy c old.latepol w) s else s
    let s := s.updCore c fun q => { q with marks := q.marks.put k.stream k.view }
    some (if k.slotMark then s.setShares c k.stream k.view else s)

/-- EVENT_DELIVERY: an event signal reaches its context, if that still is its allocation's (R274). -/
def eventDelivery (n : Nat) (s : State) : Option State :=
  (s.eventMsgs[n]?).map fun e =>
    let t := { s with eventMsgs := s.eventMsgs.eraseIdx n }
    if ((s.ctx? e.core e.ctx).map (·.alloc)) = some e.alloc then t.signal e.core e.ctx e.event else t

def execMarkUnitApply (s : State) : Host.Outcome State Fault Refusal := attempt markUnitApply s
def execMarkApply (c : Nat) (s : State) : Host.Outcome State Fault Refusal := attempt (markApply c) s
def execEventDelivery (n : Nat) (s : State) : Host.Outcome State Fault Refusal := attempt (eventDelivery n) s

end Sys2Proof.Machine
end

