-- ==== Sys2Proof/Machine/Moa.lean ====
section
/-! DEFINITION. The .moa file as Teasel reads it (R198 to R203): its tables, the checks of R445, the relocated bytes of
code and cpdata, and the configuration words of TREEH (R356). -/

namespace Sys2Proof.Machine

/-! ## Reading virtual memory through an allocation's tables -/

/-- n bytes at a virtual address, line by line, as they stand; none where a line cannot be read or is poisoned. A line in
a staging page is read as it stands, whatever its tag: R127 names no generation for Teasel's reads of a file.
(DESIGN CHOICE, log 122.) -/
def State.readVirt (s : State) (root va : Nat) : Nat → Nat → State × Option (List Byte)
  | 0, _ => (s, some [])
  | k + 1, n =>
    if n = 0 then (s, some [])
    else
      let m := min n (64 - va % 64)
      let r := { teaselRecord 0x26 with addr := BitVec.ofNat 64 va }
      let p := s.walk root (va % 2 ^ 48) r
      match p.2 with
      | .fail _ => (p.1, none)
      | .page pa big _ rd _ =>
        if !rd then (p.1, none)
        else
          let a := pa + if big then bitsOf va 0 29 else bitsOf va 0 16
          let c := p.1.checkLine (a / 64) r
          if (c.1.granule (a / 64)).poison then (c.1, none)
          else
            let q := c.1.readVirt root (va + m) k (n - m)
            (q.1, q.2.map fun bs => c.1.bytesAt a m ++ bs)

def State.readFile (s : State) (root va n : Nat) : State × Option (List Byte) := s.readVirt root va (n + 1) n

/-! ## Tables of the file -/

def nsectOf (f : List Byte) : Nat := fieldAt f 0x06 2
def nregionOf (f : List Byte) : Nat := fieldAt f 0x24 2
def nbufOf (f : List Byte) : Nat := fieldAt f 0x26 1
def nchanOf (f : List Byte) : Nat := fieldAt f 0x3A 2

def sectAt (f : List Byte) (i : Nat) : Sect :=
  let o := fieldAt f 0x20 4 + 32 * i
  { type := fieldAt f o 4, fileOff := fieldAt f (o + 8) 8, size := fieldAt f (o + 16) 8, addr := fieldAt f (o + 24) 8 }

def shapeAt (f : List Byte) (i : Nat) : Shape :=
  let o := fieldAt f 0x28 4 + 32 * i
  { rows := fieldAt f (o + 4) 1 + 1, cols := fieldAt f (o + 5) 1 + 1, flags := BitVec.ofNat 8 (fieldAt f (o + 6) 1),
    nconf := fieldAt f (o + 7) 1 + 1, init := fieldAt f (o + 8) 8, conftab := fieldAt f (o + 16) 8 }

def chanAt (f : List Byte) (i : Nat) : Chan :=
  let o := fieldAt f 0x2C 4 + 8 * i
  { src := fieldAt f o 1, srcPort := fieldAt f (o + 1) 1, dst := fieldAt f (o + 2) 1, dstPort := fieldAt f (o + 3) 1,
    logSize := fieldAt f (o + 4) 1 }

def relocAt (f : List Byte) (o : Nat) : Reloc :=
  { offset := fieldAt f o 8, sect := fieldAt f (o + 8) 2, type := fieldAt f (o + 10) 2, addend := fieldAt f (o + 16) 8 }

/-- Relocations of the file's relocation sections. -/
def relocsOf (f : List Byte) (ss : List Sect) : List Reloc :=
  ss.flatMap fun t => if t.type = 5 then (List.range (t.size / 24)).map fun i => relocAt f (t.fileOff + 24 * i) else []

/-- Bytes that the header and its tables need, and then those of the sections: the extent of the file. -/
def tablesEnd (f : List Byte) : Nat :=
  max (max 0x80 (fieldAt f 0x20 4 + 32 * nsectOf f)) (max (fieldAt f 0x28 4 + 32 * nregionOf f) (fieldAt f 0x2C 4 + 8 * nchanOf f))
def sectsEnd (f : List Byte) : Nat :=
  ((List.range (nsectOf f)).map fun i => (sectAt f i).fileOff + (sectAt f i).size).foldl max (tablesEnd f)

/-! ## TREEH (R356) -/

/-- Configuration words with FIELD 10, 11 or 12 among the words of a config section, each with its segment offset: neither
the words of a region header nor those of the CONFTAB tables are configuration words. -/
def treeWords (inTable : Nat → Bool) : Nat → List (Nat × W32) → List W32
  | _, [] => []
  | k + 1, _ :: ws => treeWords inTable k ws
  | 0, (o, w) :: ws =>
    if inTable o then treeWords inTable 0 ws
    else if isCtl w 0 then treeWords inTable (cwValue w) ws
    else if cwField w = 10 || cwField w = 11 || cwField w = 12 then w :: treeWords inTable 0 ws
    else treeWords inTable 0 ws

def Shape.tables (h : Shape) (o : Nat) : Bool := h.conftab ≤ o && o < h.conftab + 8 * h.nconf

/-- The tree's words in image order: the config sections as the section table lists them, each word once.
(DEDUCED, log 87.) -/
def treeOf (f : List Byte) (ss : List Sect) (shapes : List Shape) : List Byte :=
  (ss.filter fun t => t.type = 4).flatMap fun t =>
    let ws := wordsOf (t.size / 4) ((f.drop t.fileOff).take t.size)
    let at4 := (List.range ws.length).map fun i => t.addr + 4 * i
    (treeWords (fun o => shapes.any (·.tables o)) 0 (at4.zip ws)).flatMap fun w => leBytes w.toNat 4

/-! ## The image and its checks (R198, R199, R445) -/

def imageOf (f : List Byte) : Image :=
  let ss := (List.range (nsectOf f)).map (sectAt f)
  let shapes := (List.range (nregionOf f)).map (shapeAt f)
  let res := fieldAt f 0x38 2
  { feat0 := BitVec.ofNat 64 (fieldAt f 0x08 8), feat1 := BitVec.ofNat 64 (fieldAt f 0x10 8), entry := fieldAt f 0x18 4,
    cpmem := fieldAt f 0x1C 4,
    bufs := (List.range (nbufOf f)).map fun i => let w := fieldAt f (0x40 + 4 * i) 4; (bitsOf w 0 5, bitsOf w 5 1 = 1),
    affin := if fieldAt f 0x27 1 = 0xFF then none else some (fieldAt f 0x27 1),
    segSize := fieldAt f 0x30 8, sects := ss, relocs := relocsOf f ss, shapes,
    chans := (List.range (nchanOf f)).map (chanAt f), tree := treeOf f ss shapes,
    spawnRows := bitsOf res 8 4 + 1, spawnCols := bitsOf res 12 4 + 1, spawnAreas := bitsOf res 0 8, bytes := f }

def Sect.meets (a b : Sect) : Bool := a.addr < b.addr + b.size && b.addr < a.addr + a.size

/-- Two sections of one space overlap (R199). -/
def overlapping : List Sect → Bool
  | [] => false
  | a :: as => as.any a.meets || overlapping as

def oppositePorts (k : Chan) : Bool := (k.srcPort / 64 + 2) % 4 = k.dstPort / 64

/-- QUEUE buffer allocations of a member, by number. -/
def Image.queues (g : Image) : List Nat := (List.range g.bufs.length).filter fun i => (g.bufs.getD i (0, false)).2

/-- Is the file an image (R445, check 6)? Reserved bits of its header, buffer entries and region entries are not looked at
(R198; DESIGN CHOICE, log 129). -/
def Image.wellFormed (g : Image) (f : List Byte) : Bool :=
  let part := g.sects.filter fun t => t.type = 1 || t.type = 2
  let seg := g.sects.filter fun t => t.type = 3 || t.type = 4
  fieldAt f 0 4 = 0x3241_4F4D && fieldAt f 4 2 = 1 && nbufOf f ≤ 16
    && g.bufs.all (fun b => 9 ≤ b.1 && b.1 ≤ 20)
    && g.cpmem % 4096 = 0 && g.cpmem ≤ 65536
    && g.sects.any (fun t => t.type = 1 && t.addr ≤ g.entry && g.entry < t.addr + t.size)
    && g.relocs.all (fun r => 1 ≤ r.type && r.type ≤ 5)
    && g.shapes.all (fun h => h.init < g.segSize && h.conftab + 8 * h.nconf ≤ g.segSize)
    && part.all (fun t => t.addr + t.size ≤ g.cpmem) && seg.all (fun t => t.addr + t.size ≤ g.segSize)
    && g.sects.all (fun t => t.type ≠ 2 || t.addr % 64 = 0)
    && !overlapping part && !overlapping seg
    && g.chans.all fun k => k.src < g.shapes.length && k.dst < g.shapes.length
        && (if k.logSize = 0 then oppositePorts k else 9 ≤ k.logSize && k.logSize ≤ 16)

/-- The file at a virtual address: its image, or none when it is malformed or cannot be read. (DEDUCED, log 88.) -/
def State.readImageFile (s : State) (root va : Nat) : State × Option Image :=
  let h := s.readFile root va 0x80
  match h.2 with
  | none => (h.1, none)
  | some f =>
    if fieldAt f 0 4 ≠ 0x3241_4F4D || fieldAt f 4 2 ≠ 1 then (h.1, none)
    else
      let t := h.1.readFile root va (tablesEnd f)
      match t.2 with
      | none => (t.1, none)
      | some f =>
        let p := t.1.readFile root va (sectsEnd f)
        match p.2 with
        | none => (p.1, none)
        | some f =>
          let g := imageOf f
          (p.1, if g.wellFormed f then some g else none)

/-! ## Relocation (R202, R203) -/

/-- piece(v, k) of R192. -/
def pieceOf (v k : Nat) : Nat := bitsOf v (14 * k) 14

/-- Bytes of a section with one relocation applied. Of a field at or past the section's end R202 says nothing: its bytes follow
the section's last (DESIGN CHOICE, log 123). -/
def relocate (segbase : Nat) (bs : List Byte) (r : Reloc) : List Byte :=
  let v := (segbase + r.addend) % 2 ^ 64
  let put (n w : Nat) : List Byte := bs.take r.offset ++ (leBytes w n) ++ bs.drop (r.offset + n)
  if r.type = 1 then put 8 v
  else
    let w := leNat ((bs.drop r.offset).take 4)
    put 4 (w / 2 ^ 23 * 2 ^ 23 + pieceOf v (r.type - 2) * 2 ^ 9 + w % 2 ^ 9)

/-- A section of code or cpdata as it goes into a partition. SECT of a relocation is a section type of R199 (DEDUCED, log 40). -/
def Image.sectBytes (g : Image) (segbase : Nat) (t : Sect) : List Byte :=
  (g.relocs.filter fun r => r.sect = t.type).foldl (relocate segbase) ((g.bytes.drop t.fileOff).take t.size)

end Sys2Proof.Machine
end

