-- ==== Sys2Proof/Machine/Place.lean ====
section
/-! DEFINITION. Placement (R19 to R22, R322 to R326, R376): where Teasel finds room for regions, members and areas, and
what it puts there. -/

namespace Sys2Proof.Machine

/-! ## Room on a core -/

/-- The lowest multiple of `step` at which `size` bytes fit below `limit` beside what is used. -/
def fitAt (used : List (Nat × Nat)) (limit step size : Nat) : Option Nat :=
  ((List.range (limit / step)).map (· * step)).find? fun b =>
    b + size ≤ limit && used.all fun u => b + size ≤ u.1 || u.1 + u.2 ≤ b

/-- Room for a partition (R116). -/
def Core.partRoom (q : Core) (size : Nat) : Option Nat :=
  fitAt (q.ctxs.map fun k => (k.2.pbase, k.2.psize)) 65536 4096 size

/-- Room for buffer allocations, in image order, each aligned to its size (R113). -/
def fitBufs : List (Nat × Bool) → List (Nat × Nat) → Option (List (Nat × Nat × Bool))
  | [], _ => some []
  | (l, isQueue) :: bs, used =>
    match fitAt used 0x10_0000 (2 ^ l) (2 ^ l) with
    | none => none
    | some b => (fitBufs bs ((b, 2 ^ l) :: used)).map fun r => (b, 2 ^ l, isQueue) :: r

def Core.bufRoom (q : Core) (bufs : List (Nat × Bool)) : Option (List (Nat × Nat × Bool)) :=
  fitBufs bufs (q.ctxs.flatMap fun k => k.2.bufs.map fun b => (b.2.base, b.2.size))

/-- A core's features include an image's (R322); FEAT1 of every core is 0. -/
def State.hasFeatures (s : State) (c : Nat) (f0 f1 : Word) : Bool := f0 &&& ~~~(s.featOf c) = 0 && f1 = 0

/-- The lowest free number below n in a table. -/
def freeNo {α : Type} (m : SMap α) (n : Nat) : Option Nat := (List.range n).find? fun i => (m.look i).isNone

/-- Is a core available to placement (R461)? -/
def State.available (s : State) (c : Nat) : Bool := !(s.link (4 + dieOf c)).down

/-! ## Rectangles -/

/-- A rectangle on a core. -/
structure Rect where
  core : Nat
  row : Nat
  col : Nat
  rows : Nat
  cols : Nat
deriving DecidableEq, Repr

def Rect.meets (a b : Rect) : Bool :=
  a.core = b.core && a.row < b.row + b.rows && b.row < a.row + a.rows && a.col < b.col + b.cols && b.col < a.col + a.cols

def Region.rect (r : Region) (c : Nat) : Rect := { core := c, row := r.row0, col := r.col0, rows := r.rows, cols := r.cols }

def Area.rect (w : Area) : Rect := { core := w.core, row := w.row, col := w.col, rows := w.rows, cols := w.cols }
def Rect.area (r : Rect) (used : Option Nat) : Area :=
  { core := r.core, row := r.row, col := r.col, rows := r.rows, cols := r.cols, used }

/-- What is taken on a core: regions, and areas reserved for SPAWN. -/
def State.taken (s : State) (c : Nat) : List Rect :=
  ((s.core c).regions.map fun r => r.2.rect c)
    ++ s.allocs.flatMap fun a => (a.2.areas.filter fun w => w.core = c).map Area.rect

/-- Origins of rectangles of a shape on a grid, in ascending element index. -/
def origins (rows cols : Nat) : List (Nat × Nat) :=
  if rows > 16 || cols > 16 then []
  else (List.range (17 - rows)).flatMap fun i => (List.range (17 - cols)).map fun j => (i, j)

def Rect.onEdge (r : Rect) (d : Nat) : Bool :=
  if d = 0 then r.row = 0 else if d = 1 then r.col + r.cols = 16 else if d = 2 then r.row + r.rows = 16 else r.col = 0

/-- Sides of region i that the channel table names for ring channels. -/
def Image.ringSides (g : Image) (i : Nat) : List Nat :=
  g.chans.flatMap fun k =>
    if k.logSize = 0 then []
    else (if k.src = i then [k.srcPort / 64] else []) ++ if k.dst = i then [k.dstPort / 64] else []

/-- Do two rectangles abut, b at side d of a, with the ports facing each other (R322)? -/
def faces (a b : Rect) (d ia ib : Nat) : Bool :=
  a.core = b.core &&
    (if d = 0 then b.row + b.rows = a.row && b.col + ib = a.col + ia
     else if d = 1 then b.col = a.col + a.cols && b.row + ib = a.row + ia
     else if d = 2 then b.row = a.row + a.rows && b.col + ib = a.col + ia
     else b.col + b.cols = a.col && b.row + ib = a.row + ia)

/-- Every link channel between region i in rectangle r and regions already placed is met. -/
def Image.linksMet (g : Image) (i : Nat) (r : Rect) (placed : List (Nat × Rect)) : Bool :=
  g.chans.all fun k =>
    if k.logSize ≠ 0 then true
    else if k.src = i then
      (match placed.find? fun p => p.1 = k.dst with
       | some p => faces r p.2 (k.srcPort / 64) (k.srcPort % 16) (k.dstPort % 16)
       | none => true)
    else if k.dst = i then
      (match placed.find? fun p => p.1 = k.src with
       | some p => faces p.2 r (k.srcPort / 64) (k.srcPort % 16) (k.dstPort % 16)
       | none => true)
    else true

/-! ## The plan of a LAUNCH -/

/-- Regions placed so far, by index; cores with a member, in order; areas. -/
structure Plan where
  regions : List (Nat × Rect) := []
  cores : List Nat := []
  areas : List Rect := []
deriving DecidableEq, Repr

def Plan.rects (p : Plan) : List Rect := p.regions.map (·.2) ++ p.areas

/-- Cores in the order that the search takes them. -/
def coreOrder (start : Nat) : List Nat := (List.range Config.cores).map fun i => (start + i) % Config.cores

/-- Room for one more region of the allocation on a core, as to its member. -/
def State.memberRoom (s : State) (g : Image) (p : Plan) (c : Nat) : Bool :=
  let q := s.core c
  let mine := (p.regions.filter fun r => r.2.core = c).length
  q.regions.length + mine < 16 &&
    if p.cores.contains c then mine < 8
    else (freeNo q.ctxs 4).isSome && (q.partRoom g.cpmem).isSome && (q.bufRoom g.bufs).isSome

/-- The first free rectangle on a core that a test accepts. -/
def State.freeRect (s : State) (p : Plan) (c rows cols : Nat) (ok : Rect → Bool) : Option Rect :=
  ((origins rows cols).map fun o => ({ core := c, row := o.1, col := o.2, rows, cols } : Rect)).find? fun r =>
    ok r && !(s.taken c ++ p.rects).any r.meets

/-- Regions that channels join to a region, in the image. -/
def Image.span (g : Image) : Nat → List Nat → List Nat
  | 0, l => l
  | n + 1, l =>
    let more := (List.range g.shapes.length).filter fun j => !l.contains j && l.any fun i => g.joins i j
    if more.isEmpty then l else g.span n (l ++ more)

def Image.isDet (g : Image) (i : Nat) : Bool := ((g.shapes[i]?).map fun h => h.flags.getLsbD 0).getD false

/-- The die that region i must lie on: that of its DET spanning region's first one when DET across dies is not
accepted (R448), or AFFIN. -/
def State.dieFor (s : State) (g : Image) (p : Plan) (i : Nat) : Option Nat :=
  let peers := g.span g.shapes.length [i]
  if g.isDet i && !s.dev.feature 4 then
    match p.regions.find? fun r => peers.contains r.1 && g.isDet r.1 with
    | some r => some (dieOf r.2.core)
    | none => g.affin
  else g.affin

def State.planRegion (s : State) (g : Image) (start : Nat) (p : Plan) (i : Nat) : Option Plan :=
  match g.shapes[i]? with
  | none => none
  | some h =>
    let die := s.dieFor g p i
    (coreOrder start).findSome? fun c =>
      if (die.all fun d => dieOf c = d) && s.available c && s.hasFeatures c g.feat0 g.feat1 && s.memberRoom g p c then
        (s.freeRect p c h.rows h.cols fun r => (g.ringSides i).all r.onEdge && g.linksMet i r p.regions).map fun r =>
          { p with regions := p.regions ++ [(i, r)], cores := if p.cores.contains c then p.cores else p.cores ++ [c] }
      else none

/-- A reserved area lies on a core of one of the members (R43; DEDUCED, log 36). -/
def State.planArea (s : State) (g : Image) (p : Plan) : Option Plan :=
  (coreOrder 0).findSome? fun c =>
    if p.cores.contains c then
      (s.freeRect p c g.spawnRows g.spawnCols fun _ => true).map fun r => { p with areas := p.areas ++ [r] }
    else none

def planAll {α : Type} (f : Plan → α → Option Plan) : List α → Plan → Option Plan
  | [], p => some p
  | x :: xs, p => (f p x).bind (planAll f xs)

/-- Where every region and area of an image goes, if there is room (R322). -/
def State.plan (s : State) (g : Image) (start : Nat) : Option Plan :=
  let is := (List.range g.shapes.length).filter fun i => !((g.shapes[i]?).map fun h => h.flags.getLsbD 2).getD false
  (planAll (s.planRegion g start) is {}).bind
    (planAll (fun p _ => s.planArea g p) (List.range g.spawnAreas))

/-! ## Generations (R117, R126, R132) -/

/-- The counter's next value that is neither 0 nor live; none when it is exhausted and a sweep is due. -/
def nextGen (live : List (BitVec 12)) : Nat → Nat → Option Nat
  | 0, _ => none
  | n + 1, g => if g > 0xFFF then none else if g = 0 || live.contains (BitVec.ofNat 12 g) then nextGen live n (g + 1) else some g

/-- The next generation of a core, or none when a sweep comes first (R126, R132; DEDUCED, log 8). -/
def Core.drawGen (q : Core) : Option Nat := nextGen q.live 0x1001 q.genNext

/-- The staging generations in use on a die. -/
def State.stagingLive (s : State) (d : Nat) : List (BitVec 12) :=
  s.allocs.filterMap fun a => if a.2.st = .ended then none else a.2.sgens[d]?

def State.drawStaging (s : State) (d : Nat) : Option Nat := nextGen (s.stagingLive d) 0x1001 (s.die d).sgenNext

/-- The sweeps that a placement on some cores waits for, asked of Campion (R132). -/
def State.askSweeps (s : State) (cores : List Nat) (staging : Bool) : State :=
  let s := cores.foldl (fun s c =>
    if (s.core c).drawGen.isNone then s.updCore c fun q => { q with sweepDue := true } else s) s
  if staging then
    (List.range 4).foldl (fun s d =>
      if (s.drawStaging d).isNone then s.updDie d fun k => { k with sweepDue := true } else s) s
  else s

def State.gensReady (s : State) (cores : List Nat) (staging : Bool) : Bool :=
  cores.all (fun c => (s.core c).drawGen.isSome && !(s.core c).sweepDue)
    && (!staging || (List.range 4).all fun d => (s.drawStaging d).isSome && !(s.die d).sweepDue)

/-! ## Ring channels (R66, R350, R376) -/

/-- The edge port that a channel entry means: its index counts from the region's origin (R376). -/
def Region.portAt (r : Region) (b : Nat) : Nat :=
  let d := b / 64
  d * 16 + (if d % 2 = 0 then r.col0 + b % 16 else r.row0 + b % 16)

/-- The region of an allocation with an index in the image's region table: core, number, region. -/
def State.regionNo (s : State) (a i : Nat) : Option (Nat × Nat × Region) :=
  (s.allocRegions a).find? fun t => t.2.2.ireg = i

/-- The core of the member that holds region i or, while that one waits for a SPAWN, a region joined to it. -/
def State.memberCore (s : State) (a : Nat) (g : Image) (i : Nat) : Option Nat :=
  match s.regionNo a i with
  | some t => some t.1
  | none => (List.range g.shapes.length).findSome? fun j => if g.joins i j then (s.regionNo a j).map (·.1) else none

/-- The buffer allocation of the ring of channel entry n. -/
def State.ringBuf (s : State) (a : Nat) (g : Image) (n : Nat) : Option Nat :=
  match g.chans[n]? with
  | none => none
  | some k =>
    let home := s.memberCore a g k.dst
    let before := (g.chans.take n).filter fun j => j.logSize ≠ 0 && s.memberCore a g j.dst = home
    g.queues[before.length]?

/-- Tokens on the die links to a ring. -/
def State.ringTokens (s : State) (c x b : Nat) : Nat :=
  let is (f : Flight) : Bool := match f.what with
    | .token _ d y e _ _ => d = c && y = x && e = b
    | .request _ | .response _ => false
  (s.flights.filter is).length
    + (s.links.flatMap fun l => l.2.buffers.flatMap fun q => q.2.filter is).length

/-- The ends of ring channel n of an allocation put at their ports, when both regions are placed. -/
def State.joinRing (s : State) (a : Nat) (g : Image) (n : Nat) : State :=
  match g.chans[n]? with
  | none => s
  | some k =>
    if k.logSize = 0 then s
    else match s.regionNo a k.src, s.regionNo a k.dst, s.ringBuf a g n with
      | some (c, _, r), some (d, _, t), some b =>
        let p := r.portAt k.srcPort
        let q := t.portAt k.dstPort
        if (s.port c p).tx.isSome && (s.port d q).rx.isSome then s
        else
          let fill := (((s.ctx? d t.ctx).bind fun k => k.bufs.look b).map fun v => v.fill / 8).getD 0
          let slots := 2 ^ k.logSize / 8 - fill - s.ringTokens d t.ctx b
          let s := s.updPort c p fun w => { w with tx := some { core := d, port := q, ctx := t.ctx, buf := b, slots } }
          s.updPort d q fun w => { w with rx := some { core := c, port := p, ctx := t.ctx, buf := b } }
      | _, _, _ => s

def State.joinRings (s : State) (a : Nat) (g : Image) : State :=
  (List.range g.chans.length).foldl (fun s n => s.joinRing a g n) s

/-! ## Putting a LAUNCH in place (R22, R75, R116, R323, R326) -/

/-- The share of a member placed between two slot marks (R326). -/
def placedShares (v : MarkView) (n : Nat) : Shares :=
  let f (l : W32) : Share := { limit := (limitOf l).map fun l => l / (n + 1) }
  { dram := f v.ldram, link := f v.llink, load := f v.lload }

/-- A core that gets its first member of a stream is given the stream's marks (R326). -/
def State.giveMarks (s : State) (c m : Nat) : State :=
  if m ≥ 16 || (s.core c).ctxs.any (fun k => k.2.stream.toNat = m) then s
  else s.updCore c fun q => { q with marks := q.marks.put m (s.stream m).view, markQ := q.markQ.filter fun k => k.stream ≠ m }

def State.sharesFor (s : State) (m : Nat) : Shares :=
  if m < 16 then placedShares (s.stream m).view (s.stream m).shared else {}

/-- The registers of R22: every other one is zero. -/
def firstRegs (gen : BitVec 12) (member members : Nat) (args : Word) (psize : Nat) : SMap Reg :=
  (List.range 32).map fun j =>
    (j, { val := if j = 1 then BitVec.ofNat 64 member else if j = 2 then BitVec.ofNat 64 members else if j = 3 then args
                 else if j = 31 then partAddr psize else 0, tag := gen })

def bufTable (bs : List (Nat × Nat × Bool)) : SMap Buf :=
  bs.zipIdx.map fun e => (e.2, { base := e.1.1, size := e.1.2.1, queue := e.1.2.2 })

/-- Blocks, data and pattern records written into a partition (R116, R203); bytes that relocations put behind a section end with
the partition (DESIGN CHOICE, log 123). -/
def State.writePartition (s : State) (c base : Nat) (gen : BitVec 12) (g : Image) (segbase : Nat) : State :=
  g.sects.foldl (fun s t =>
    if t.type = 1 || t.type = 2 then s.writeAs gen (cpAddr c (base + t.addr)) ((g.sectBytes segbase t).take (g.cpmem - t.addr))
    else s) s

/-- A member on a core. -/
def State.placeMember (s : State) (a : Nat) (al : Alloc) (n members c : Nat) : State :=
  let q := s.core c
  match freeNo q.ctxs 4, q.drawGen, q.partRoom al.img.cpmem, q.bufRoom al.img.bufs with
  | some x, some gen, some base, some bufs =>
    let g := BitVec.ofNat 12 gen
    let s := (s.giveMarks c al.strm).updCore c fun q => { q with genNext := gen + 1, oldRegs := q.oldRegs.del x }
    let k : Ctx :=
      { alloc := a, member := n, run := .stopped, regs := firstRegs g n members al.args al.img.cpmem,
        next := partAddr al.img.entry, strict := al.strict, gen := g, stream := BitVec.ofNat 5 al.strm,
        seed0 := al.seed0, seed1 := al.seed1, pbase := base, psize := al.img.cpmem, bufs := bufTable bufs,
        budget := s.sharesFor al.strm }
    let s := (s.setCtx c x k).writePartition c base g al.img al.segbase
    s.updAlloc a fun w => { w with members := w.members ++ [{ core := c, ctx := x }] }
  | _, _, _, _ => s

/-- The context of an allocation on a core. -/
def State.memberCtx (s : State) (a c : Nat) : Nat := (((s.core c).member a).map (·.1)).getD 0

/-- Ports of a region that become free for it. -/
def State.clearPorts (s : State) (c : Nat) (r : Region) : State :=
  r.ports.foldl (fun s p => s.updPort c p Port.vacated) s

/-- The configuration store with every field of every slot of a region's elements 0 (R71). -/
def Core.clearedConfig (q : Core) (r : Region) : SMap (BitVec 16) := q.config.filter fun k => !r.elems.contains (k.1 / 64 % 256)

/-- A region on its rectangle, waiting for its INIT load. -/
def State.placeRegion (s : State) (a : Nat) (al : Alloc) (i : Nat) (t : Rect) (lr : Nat) (spawned : Bool) : State :=
  match freeNo (s.core t.core).regions 16, al.img.shapes[i]? with
  | some rn, some h =>
    let r : Region :=
      { alloc := a, ctx := s.memberCtx a t.core, lr, ireg := i, row0 := t.row, col0 := t.col, rows := t.rows, cols := t.cols,
        phase := .joining, spawned, det := h.flags.getLsbD 0 }
    let s := (s.updCore t.core fun q => { q with regions := q.regions.put rn r, config := q.clearedConfig r }).clearPorts t.core r
    let cmd : CfgCmd :=
      { id := s.nextId, ctx := none, region := rn, alloc := a, op := .init (BitVec.ofNat 64 (al.segbase + h.init)) }
    { s.updCore t.core fun q => { q with cfgPath := q.cfgPath ++ [cmd] } with nextId := s.nextId + 1 }
  | _, _ => s

/-- The lowest local region number that a member does not use. -/
def State.nextLr (s : State) (a c : Nat) : Nat :=
  ((List.range 8).find? fun i => !(s.core c).regions.any fun r => r.2.alloc = a && r.2.lr = i).getD 0

/-- A placement that has succeeded: generations are stamped, members, regions and areas take their places, channels
are joined and the INIT streams are sent. -/
def State.install (s : State) (a : Nat) (p : Plan) : State :=
  match s.alloc? a with
  | none => s
  | some al =>
    let sg := (List.range 4).map fun d => (s.drawStaging d).getD 0
    let s := sg.zipIdx.foldl (fun s e => s.updDie e.2 fun k => { k with sgenNext := e.1 + 1 }) s
    let s := s.updAlloc a fun w =>
      { w with sgens := sg.map (BitVec.ofNat 12), count := p.cores.length, inits := p.regions.length,
               areas := p.areas.map fun t => t.area none }
    let s := p.cores.zipIdx.foldl (fun s e => s.placeMember a al e.2 p.cores.length e.1) s
    let s := p.regions.foldl (fun s e => s.placeRegion a al e.1 e.2 (s.nextLr a e.2.core) false) s
    (s.joinRings a al.img).startAlloc a

end Sys2Proof.Machine
end

