-- ==== Sys2Proof/Machine/Rounds.lean ====
section
/-! DEFINITION. The round logs of DET regions (R41, R167): when a round is published, and its writes applied. -/

namespace Sys2Proof.Machine

/-- The port lanes that a region's CURRENT configuration drives, but for those that a ring channel takes: nothing is
written through these. -/
def State.drivenLanes (s : State) (c : Nat) (r : Region) : List (Nat × Nat) :=
  r.elems.flatMap fun e =>
    (((s.core c).cfg r.cur e).drivers.flatMap (·.2)).filterMap fun l =>
      match laneEnd e l with
      | .port p n => if (s.port c p).tx.isSome then none else some (p, n)
      | .elem _ _ => none

/-- The lanes whose ROUNDs publish a region's log: all that it drives in DET mode, else those of its DET scatters (R167). -/
def State.logLanes (s : State) (c : Nat) (r : Region) : List (Nat × Nat) :=
  if r.det then s.drivenLanes c r else (s.drivenLanes c r).filter fun l => (s.port c l.1).detScatter

/-- Nothing moves in a set of regions: the totals of R42 agree, no output waits, and no run of a counter that sends
tokens is under way. (DEDUCED, log 90.) -/
def State.atRest (s : State) (set : List (Nat × Nat × Region)) : Bool :=
  let t := sumTotals (s.totals set)
  t.1 = t.2 && set.all fun u => u.2.2.elems.all fun e =>
    let v := s.elem u.1 e
    v.out.isEmpty && v.drains.isEmpty && (v.priv.op.run.isNone || ((s.core u.1).cfg u.2.2.cur e).node ≠ 0)

/-- An allocation whose contexts have halted and whose regions are quiet publishes what its logs still hold (R21). -/
def State.lastLogs (s : State) (a : Nat) : Bool :=
  (s.alloc? a).any (fun k => k.st = .ending && !k.aborting) && s.atRest (s.allocRegions a)

/-- Has a region published round n of its log: has the ROUND that closes it passed every port that the region
drives, and has every write of it reached its log? -/
def State.published (s : State) (c : Nat) (r : Region) (n : Nat) : Bool :=
  ((s.logLanes c r).all fun l => (s.port c l.1).rounds.lookD l.2 0 > n)
    && !s.accesses.any fun a => a.fault.isNone && (r.ports.any fun p => a.ofPort c p) && match a.round with
      | some k => k.toNat ≤ n
      | none => false

/-- Does a region have a round log: one in DET mode, or one with a scatter whose record carries the DET flag (R167)? -/
def State.logs (s : State) (c : Nat) (r : Region) : Bool :=
  r.det || !r.log.isEmpty || r.ports.any fun p => (s.port c p).detScatter

/-- The QUEUE buffer that an entry pushes into (R115). -/
def State.entryQueue (s : State) (c : Nat) (r : Region) (e : LogEntry) : Option (Nat × Ctx × Buf) :=
  match s.ctx? c r.ctx, addrForm e.va with
  | some k, .buf i _ => (k.bufs.look i).bind fun v => if v.queue then some (i, k, v) else none
  | _, _ => none

/-- One entry of a log applied at its home. -/
def State.applyEntry (s : State) (c : Nat) (r : Region) (e : LogEntry) : State :=
  let g := s.genAt r.alloc (s.genOf c r.ctx) e.place
  let rc := { s.recordFor c r.alloc (s.genOf c r.ctx) 0x26 1 with
    unit := BitVec.ofNat 8 (portEngine e.port), place := portPlace e.port, addr := e.va }
  let v := match e.op with
    | none => e.value.toNat
    | some o => atomicNew o (8 * e.size) (leNat ((s.readAs g false e.place e.size rc).bytes)) e.value.toNat 0
  match s.entryQueue c r e with
  | some (i, k, q) => (s.pushBuf c r.ctx i k q (leBytes v e.size) e.poisoned).writeEnd c e.port e.seq e.item e.size e.va none
  | none =>
  match (if e.clear && e.attr = .once then .ok (s.onceClear g e.place e.size) [] none
         else if e.poisoned then s.homePoison g e.attr e.place (leBytes v e.size)
         else s.homeWrite g e.attr e.place (leBytes v e.size)) with
  | .ok u _ _ => u.wakeOnce.writeEnd c e.port e.seq e.item e.size e.va none
  | .refused u cause _ => u.writeEnd c e.port e.seq e.item 0 e.va (some cause)
  | .waits => s

/-- Round n of one region's log applied: entries by element, and within one in issue order. -/
def State.applyRound (s : State) (c rn n : Nat) : State :=
  match s.region? c rn with
  | none => s
  | some r =>
    let now := r.log.filter fun e => e.round.toNat = n % 2 ^ 32
    let s := (r.elems.flatMap fun el => now.filter fun e => e.elem = el).foldl (fun s e => s.applyEntry c r e) s
    s.updRegion c rn fun r =>
      { r with applied := n + 1, rounds := max r.rounds (n + 1), log := r.log.filter fun e => e.round.toNat ≠ n % 2 ^ 32 }

/-- DET_ROUND_APPLY: the next round of a spanning region whose every log has been published. -/
def detRoundApply (a : Nat) (s : State) : Option State :=
  let all := (s.allocRegions a).filter fun t => s.logs t.1 t.2.2
  match all.findSome? fun t =>
      let span := (s.spanning t.1 t.2.1 t.2.2).filter fun u => s.logs u.1 u.2.2
      let n := t.2.2.applied
      let driven := span.any fun u => !(s.logLanes u.1 u.2.2).isEmpty
      let last := s.lastLogs a && span.any fun u => !u.2.2.log.isEmpty
      if last || (driven && span.all fun u => s.published u.1 u.2.2 n) then some (span, n) else none with
  | none => none
  | some (span, n) =>
    some ((all.filter fun t => span.any fun u => u.1 = t.1 && u.2.1 = t.2.1).foldl (fun s t => s.applyRound t.1 t.2.1 n) s)

def execDetRoundApply (a : Nat) (s : State) : Host.Outcome State Fault Refusal := attempt (detRoundApply a) s

end Sys2Proof.Machine
end

