-- ==== Sys2Proof/Machine/Frozen.lean ====
section
/-! DEFINITION. Freezes, thaws and aborts (R44 to R47, R262 to R264, R404 to R411, R442), and the spawn queue (R43, R263,
R267). -/

namespace Sys2Proof.Machine

/-! ## What may be withdrawn -/

/-- A read at its home that waits for ONCE words (R442). -/
def State.waitsOnce (s : State) (a : Access) : Bool :=
  a.kind = .load && a.attrIs .once && a.granted && !a.crossing && a.got.isNone && match s.perform a with
    | .waits => true
    | _ => false

/-- An access that has not been issued when a freeze or an abort comes: not granted, deferred at a die link (R449), or a
read that waits on an empty ONCE word (R442). -/
def State.unissued (s : State) (a : Access) : Bool := !a.granted || s.isHeld a || s.waitsOnce a

/-- Accesses of the bindings on a region's ports. -/
def State.regionAccesses (s : State) (c : Nat) (r : Region) : List Access :=
  s.accesses.filter fun a => r.ports.any fun p => a.ofPort c p

/-- The walks that the loader and accumulator commands of a region still have to end. -/
def Core.loadingFor (q : Core) (rn : Nat) : Bool :=
  match q.loading with
  | some l => l.cmd.region = rn
  | none => false

/-! ## Contexts at a block boundary (R44) -/

/-- Does a block wait: for a condition of R32, for the next period (R449), or for a ONCE word (R442)? -/
def State.blockWaits (s : State) (c x : Nat) (b : Block) : Bool :=
  !b.deferred.isEmpty
    || b.ops.any (fun e => !b.done.contains e.1 && match b.fields e.1 with | some f => isWaiting f | none => false)
    || s.accesses.any fun a => ofBlock c x b.num a && (s.isHeld a || s.waitsOnce a)

/-- A context of an allocation that freezes is brought to a block boundary: a waiting block is abandoned uncommitted and
becomes the restart block, and its reads that wait are withdrawn. None when it stands at one, or runs a block that
does not wait. -/
def State.settleCtx (s : State) (c x : Nat) : Option State :=
  match s.ctx? c x with
  | none => none
  | some k =>
    match k.block with
    | none => none
    | some b =>
      if !b.faults.isEmpty || !s.blockWaits c x b then none
      else if (waitSatisfied c x s).isSome || (s.core c).regions.any fun r => r.2.ctx = x && (swapTakesEffect c r.1 s).isSome
      then none
      else
        let s := (s.withdrawAll fun a => a.ofCtx c x && s.unissued a).muteBlock c x b.num
        some ((s.dropWaits (Access.ofCtx c x)).setCtx c x { k with block := none, next := b.addr, quiet := none })

/-- Has a context come to rest: no block in flight and no access of its own still to be performed? -/
def State.ctxAtRest (s : State) (c x : Nat) : Bool :=
  match s.ctx? c x with
  | none => true
  | some k => k.block.isNone && !s.accesses.any (Access.ofCtx c x)

/-! ## The freeze wave (R44, R262) -/

/-- A packet's FREEZE is under way for an allocation: its contexts are stopping. -/
def State.packetFreeze (s : State) (a : Nat) : Bool :=
  match s.alloc? a with
  | none => false
  | some k => k.st = .running && k.members.any fun m => ((s.ctx? m.core m.ctx).map (·.freezing)).getD false

/-- Accumulator commands that still wait for their tile are dropped as commands of a region that is no more (R262).
(DEDUCED, log 64.) -/
def State.dropHeldXa (s : State) (c rn : Nat) : State :=
  let s := ((s.core c).xaCmds.filter fun k => k.cmd.region = rn).foldl (fun s k => s.report (s.loaderRecord c k.cmd 0x10)) s
  (s.updCore c fun q => { q with xaCmds := q.xaCmds.filter fun k => k.cmd.region ≠ rn }).dropOrphans c

/-- Is an accumulator command of a region under way: does it act at elements, or wait for its last accesses? -/
def State.xaUnderWay (s : State) (c rn : Nat) : Bool :=
  (s.core c).xaCmds.any fun x =>
    x.cmd.region = rn && (!x.armed.isEmpty || x.left.isEmpty || s.accesses.any (Access.ofXa c x.cmd.id))

/-- FREEZE_WAVE: once no slot is LOADING, every command accepted before has been served and no accumulator command is
under way, the region's elements stop. Under a packet's FREEZE the region's context first comes to rest. -/
def freezeWave (c rn : Nat) (s : State) : Option State :=
  match s.region? c rn with
  | none => none
  | some r =>
    let q := s.core c
    let packet := s.packetFreeze r.alloc
    let stop : Option State :=
      if q.loadingFor rn || s.xaUnderWay c rn then none
      else some ((s.dropHeldXa c rn).updRegion c rn fun r =>
        { r with stopped := true, phase := match r.phase with | .freezing a p => .freezing a p | _ => .freezing 0 true })
    match r.phase with
    | .freezing _ false => if r.stopped then none else stop
    | .freezing _ true | .placed =>
      if r.stopped || !packet then none
      else match s.settleCtx c r.ctx with
        | some t => some t
        | none =>
          if !s.ctxAtRest c r.ctx || q.cfgPath.any fun k => k.region = rn then none else stop
    | .joining | .aborting => none

/-! ## Images written (R45, R262, R404, R407) -/

/-- A region's bindings as an image captures them: what they had not issued is taken out of the machine, and their
translations go (R407). -/
def State.capture (s : State) (c : Nat) (r : Region) : State × FrozenRegion :=
  (s.withdrawAll fun a => r.ports.any fun p => a.ofPort c p,
   { s.frozenRegion c r with accesses := (s.regionAccesses c r).filter fun a => !a.translates })

/-- Every issued access of the region's bindings has been performed. -/
def State.quietPorts (s : State) (c : Nat) (r : Region) : Bool := (s.regionAccesses c r).all s.unissued

/-- The record of a line of an image that cannot be written. -/
def State.imageRecord (s : State) (c a : Nat) (src : Nat) : FaultRec := s.recordFor c a 0 0x26 src

/-- A RGN.FREEZE's image written, and its region given back. -/
def State.writeRegion (s : State) (c rn : Nat) (r : Region) (addr : Word) : State :=
  let bytes := s.regionImage c r
  let p := s.capture c r
  let s : State := p.1.writeImage c r.alloc (bitsOf addr.toNat 0 48) bytes (s.imageRecord c r.alloc 7) (bytes.length + 1)
  let f : Frozen := { bytes, members := [{ core := c, regions := [p.2] }] }
  let s := { s with frozen := s.frozen ++ [f] }
  (((s.freeRegion c rn).freeArea r.alloc c rn).signal c r.ctx (64 + r.lr))

/-- Completes the packets of one type that have started for an allocation. -/
def State.finishPackets (s : State) (a ty : Nat) : State :=
  s.updTeasel fun t => { t with packets := t.packets.map fun p =>
    let d := (p.d.getD 0 0).toNat
    if p.st = .started && d % 256 = ty && bitsOf d 24 8 = a then { p with st := .finished } else p }

/-- FREEZE packets that have started for an allocation. -/
def State.freezePackets (s : State) (a : Nat) : List Packet :=
  s.teasel.packets.filter fun p =>
    let d := (p.d.getD 0 0).toNat
    p.st = .started && d % 256 = 8 && bitsOf d 24 8 = a

/-- Does a flit carry a token of an allocation? -/
def Flight.tokenOf (a : Nat) (f : Flight) : Bool :=
  match f.what with
  | .token b _ _ _ _ _ => b = a
  | _ => false

/-- Has every part of an allocation under a packet's FREEZE stopped? -/
def State.allStopped (s : State) (a : Nat) (al : Alloc) : Bool :=
  (s.allocRegions a).all (fun t => t.2.2.stopped && s.quietPorts t.1 t.2.2
      && (match t.2.2.phase with | .freezing _ packet => packet | _ => false))
    && al.members.all (fun m => s.ctxAtRest m.core m.ctx
        && !(s.eventMsgs.any fun e => e.alloc = a)
        && !((s.core m.core).cfgPath.any fun k => k.ctx = some m.ctx))
    && !(s.flights.any (Flight.tokenOf a))
    && !(s.links.any fun l => l.2.buffers.any fun q => q.2.any (Flight.tokenOf a))

/-- The image area of an allocation written: its members leave their cores, and it is FROZEN. (DEDUCED, log 97.) -/
def State.freezeArea (s : State) (a : Nat) : Option State :=
  match s.alloc? a with
  | none => none
  | some al =>
    match al.members.findSome? fun m => s.settleCtx m.core m.ctx with
    | some t => some t
    | none =>
      if !s.packetFreeze a || !s.allStopped a al then none
      else
        let s := al.members.foldl State.checkMember s
        let bytes := s.areaBytes a al
        let frozen : Frozen :=
          { area := some a, bytes,
            members := al.members.map fun m =>
              let f := s.frozenMember m
              { f with regions := ((s.core m.core).regionsOf a).map fun e => (s.capture m.core e.2).2 } }
        let s := (s.allocRegions a).foldl (fun s t => (s.capture t.1 t.2.2).1) s
        let c := ((al.members.head?).map (·.core)).getD 0
        let s := (s.freezePackets a).foldl (fun s p =>
          s.writeImage c a (bitsOf (p.d.getD 1 0).toNat 0 48) bytes (s.imageRecord c a 7) (bytes.length + 1)) s
        let s := { s with frozen := (s.frozen.filter fun (f : Frozen) => f.area ≠ some a) ++ [frozen] }
        let s := { s with slotReturns := s.slotReturns.filter fun k => ((s.ctx? k.rxCore k.ctx).map (fun x : Ctx => x.alloc)) ≠ some a }
        let s := (s.freeMembers a).updAlloc a fun k => { k with st := .frozen, members := [], areas := [] }
        some (s.finishPackets a 8)

/-- FREEZE_IMAGE_WRITTEN. -/
def freezeImageWritten (c rn : Nat) (s : State) : Option State :=
  match s.region? c rn with
  | none => none
  | some r =>
    if !r.stopped then none
    else match r.phase with
      | .freezing addr false => if s.quietPorts c r then some (s.writeRegion c rn r addr) else none
      | .freezing _ true => s.freezeArea r.alloc
      | _ => none

/-! ## Where a frozen member goes (R46, R322, R408, R409) -/

/-- Sides of a frozen region that hold bindings or ends of ring channels. -/
def FrozenRegion.sides (f : FrozenRegion) (g : Image) : List Nat :=
  g.ringSides f.region.ireg ++ (f.ports.filter fun p => !p.2.bindings.isEmpty).map fun p => p.1 / 16

/-- A frozen region is placed where its sides allow and, joined by a link channel to one already placed, at the same
offset from it as in the image. -/
def FrozenRegion.fits (f : FrozenRegion) (g : Image) (placed : List (FrozenRegion × Rect)) (r : Rect) : Bool :=
  (f.sides g).all r.onEdge && placed.all fun p =>
    !(g.chans.any fun k => k.logSize = 0 && ((k.src = f.region.ireg && k.dst = p.1.region.ireg)
        || (k.dst = f.region.ireg && k.src = p.1.region.ireg)))
      || (r.row + p.1.region.row0 = p.2.row + f.region.row0 && r.col + p.1.region.col0 = p.2.col + f.region.col0)

/-- Rectangles for a list of frozen regions on one core. -/
def State.fitFrozen (s : State) (g : Image) (p : Plan) (c : Nat) :
    List FrozenRegion → List (FrozenRegion × Rect) → Option (List (FrozenRegion × Rect))
  | [], placed => some placed
  | f :: fs, placed =>
    let q : Plan := { p with areas := p.areas ++ placed.map (·.2) }
    match s.freeRect q c f.region.rows f.region.cols (f.fits g placed) with
    | none => none
    | some r => s.fitFrozen g p c fs (placed ++ [(f, r)])

/-- A frozen member with the rectangles of its regions on its new core. -/
structure ThawPlan where
  member : FrozenMember := {}
  core : Nat := 0
  regions : List (FrozenRegion × Rect) := []

/-- Has a core the features of every region of a frozen member (R408)? -/
def FrozenMember.runsOn (f : FrozenMember) (s : State) (c : Nat) : Bool := f.regions.all fun r => s.hasFeatures c r.feat0 r.feat1

/-- The first core that takes a frozen member whole, on the die that each of its regions must lie on (R408, R448). -/
def State.planMember (s : State) (g : Image) (start : Nat) (p : Plan) (f : FrozenMember) : Option ThawPlan :=
  (coreOrder start).findSome? fun c =>
    let q := s.core c
    if (g.affin.all fun d => dieOf c = d) && (f.regions.all fun r => (s.dieFor g p r.region.ireg).all fun d => dieOf c = d)
        && s.available c && f.runsOn s c && !p.cores.contains c
        && (freeNo q.ctxs 4).isSome && (q.partRoom f.ctx.psize).isSome && (q.bufRoom g.bufs).isSome
        && q.regions.length + f.regions.length ≤ 16 then
      (s.fitFrozen g p c f.regions []).map fun rs => { member := f, core := c, regions := rs }
    else none

/-- Cores for all frozen members, and what they take. -/
def State.planThaw (s : State) (g : Image) (start : Nat) : List FrozenMember → Plan → Option (List ThawPlan × Plan)
  | [], p => some ([], p)
  | f :: fs, p =>
    match s.planMember g start p f with
    | none => none
    | some t =>
      (s.planThaw g start fs { p with
        cores := p.cores ++ [t.core], regions := p.regions ++ t.regions.map fun e => (e.1.region.ireg, e.2) }).map fun r =>
        (t :: r.1, r.2)

/-- Where the members of a frozen allocation go, and the areas that stay reserved for SPAWN. -/
def State.planFrozen (s : State) (g : Image) (start : Nat) (fs : List FrozenMember) : Option (List ThawPlan × List Rect) :=
  (s.planThaw g start fs {}).bind fun r =>
    let spawned := (fs.flatMap fun f => f.regions.filter fun e => e.region.spawned).length
    (planAll (fun p _ => s.planArea g p) (List.range (g.spawnAreas - spawned)) r.2).map fun p =>
      (r.1, p.areas)

/-! ## Putting a frozen member back (R46, R409, R410) -/

/-- Where a port of a frozen region lies after the move. -/
def movedPort (r : Region) (t : Rect) (p : Nat) : Nat :=
  let d := p / 16
  if d % 2 = 0 then d * 16 + (p % 16 + t.col - r.col0) else d * 16 + (p % 16 + t.row - r.row0)

/-- The member's port map after a thaw: every name of a port of a restored region leads to its new place. -/
def Ctx.movePorts (k : Ctx) (rs : List (FrozenRegion × Rect)) : SMap Nat :=
  (List.range 64).foldl (fun m n =>
    let cur := k.portOf n
    match rs.find? fun e => e.1.region.ports.contains cur with
    | some e => m.put n (movedPort e.1.region e.2 cur)
    | none => m) k.portMap

/-- Granules present in an image written back under the new generation, each with its poison bit. -/
def State.putGranules (s : State) (gen : BitVec 12) (a : Nat) (l : List (List Byte × Bool × Bool)) : State :=
  l.zipIdx.foldl (fun s e =>
    if e.1.2.1 then
      let s := s.writeAs gen (a + 64 * e.2) e.1.1
      let g := (a + 64 * e.2) / 64
      if e.1.2.2 then s.setGranule g { s.granule g with poison := true } else s
    else s) s

/-- A frozen region put on its rectangle: it joins when its content is installed. A spawned one keeps its area. -/
def State.reserveThaw (s : State) (a c x : Nat) (e : FrozenRegion × Rect) (lr : Nat) (keepArea : Bool) : State :=
  match freeNo (s.core c).regions 16 with
  | none => s
  | some rn =>
    let r : Region :=
      { e.1.region with alloc := a, ctx := x, lr, row0 := e.2.row, col0 := e.2.col, phase := .joining, stopped := false }
    let s := (s.updCore c fun q => { q with regions := q.regions.put rn r, installs := q.installs.put rn e.1, config := q.clearedConfig r }).clearPorts c r
    if r.spawned && keepArea then s.updAlloc a fun k => { k with areas := k.areas ++ [e.2.area (some rn)] } else s

def EReg.restamp (r : EReg) (old new : BitVec 12) : EReg := if r.tag = old then { r with tag := new } else { tag := new }

/-- A pending update under its new generation. -/
def Upd.restamp (u : Upd) (old new : BitVec 12) : Upd := { u.seenBy old with gen := new }

/-- An accumulator as a thaw reinstalls it: as a fill does, with KLEN from the CURRENT slot's F27 (R105). -/
def Xa.restamp (a : Xa) (old new : BitVec 12) (f27 : BitVec 16) : Xa :=
  let a := a.seenBy old
  { a with gen := new, klen := f27, guarded := a.guarded || !guardOk a.v }

/-- An element as it returns under its new generation (R46, R410). -/
def Elem.restamp (v : Elem) (old new : BitVec 12) (f27 : BitVec 16) : Elem :=
  { v with priv := { v.priv with own := v.priv.own.restamp old new, ctr := v.priv.ctr.restamp old new,
                                 xa := v.priv.xa.restamp old new f27 }
           pend := v.pend.map fun u => u.restamp old new }

/-- A member's context, partition and buffers on its new core; it issues no block until every region is back. -/
def State.thawMember (s : State) (a : Nat) (al : Alloc) (t : ThawPlan) : State :=
  let c := t.core
  let q := s.core c
  let f := t.member
  match freeNo q.ctxs 4, q.drawGen, q.partRoom f.ctx.psize, q.bufRoom al.img.bufs with
  | some x, some gen, some base, some bufs =>
    let g := BitVec.ofNat 12 gen
    let s := (s.giveMarks c al.strm).updCore c fun q => { q with genNext := gen + 1, oldRegs := q.oldRegs.del x }
    let tab := (bufTable bufs).map fun b =>
      let o := f.ctx.bufs.lookD b.1 b.2
      (b.1, { b.2 with wptr := o.wptr, rptr := o.rptr })
    let k : Ctx :=
      { f.ctx with
        regs := (List.range 32).map fun j =>
          let r := f.ctx.reg j
          (j, { val := r.readAs f.ctx.gen, tag := g, poison := r.tag = f.ctx.gen && r.poison })
        gen := g, block := none, pbase := base, bufs := tab, portMap := f.ctx.movePorts t.regions
        budget := s.sharesFor al.strm, freezing := true, quiet := none }
    let s := (s.setCtx c x k).putGranules g (cpAddr c base) f.partition
    let s := (f.bufData.zip tab).foldl (fun s e => s.putGranules g (sbufAddr c e.2.2.base) e.1) s
    let s := s.updAlloc a fun w => { w with members := w.members ++ [{ core := c, ctx := x }] }
    t.regions.foldl (fun s e => s.reserveThaw a c x e e.1.region.lr true) s
  | _, _, _, _ => s

/-! ## THAW_INSTALL -/

/-- A binding as it returns: its SEQ and its name stay, its generation is the new one, and nothing is translated. -/
def Binding.restore (b : Binding) (x : Nat) (gen : BitVec 12) : Binding :=
  { b with ctx := x, gen, translated := [], found := none }

/-- A port as it returns: new bindings are numbered from above the highest restored SEQ, and earlier statuses go. -/
def Port.restore (w old : Port) (x : Nat) (gen : BitVec 12) : Port :=
  let top := old.bindings.foldl (fun n b => max n (b.seq + 1)) 0
  { old with bindings := old.bindings.map fun b => b.restore x gen
             seqNext := (if old.bindings.isEmpty then w.seqNext else top) % 2 ^ 24
             dones := [], tx := none, rx := none, hold := none }

/-- An access of a captured binding, to be issued again: it is translated anew, and pays as the member now does. -/
def Access.reissue (a : Access) (c : Nat) (payer : Payer) (port : Nat → Nat) : Access :=
  { a with
    client := match a.client with
      | .move _ p seq m => .move c (port p) seq m
      | .scale _ p seq blk => .scale c (port p) seq blk
      | k => k
    payer := if a.payer = .background then .background else payer
    place := none, tail := none, fault := none, granted := false, deferred := none, crossing := false, parked := false }

def State.reissueAll (s : State) (c x : Nat) (port : Nat → Nat) (l : List Access) : State :=
  match s.ctx? c x with
  | some k => l.foldl (fun s a => s.enterAt c k (a.reissue c (s.payerAt c x) port)) s
  | none => s

/-- The content of a frozen region put into the region r at number rn of core c. -/
def State.putRegion (s : State) (c rn : Nat) (r : Region) (f : FrozenRegion) (old gen : BitVec 12) : State :=
  let t := r.rect c
  let port (p : Nat) : Nat := movedPort f.region t p
  let elemOf (e : Nat) : Nat := r.elemAt (f.region.posOf e)
  let s := f.elems.foldl (fun s e =>
    let f27 : BitVec 16 := f.config.lookD (cfgKey r.cur (f.region.elemAt e.1) 27) 0
    s.setElem c (r.elemAt e.1) (e.2.restamp old gen f27)) s
  let s := f.ports.foldl (fun s p => s.updPort c (port p.1) fun w => w.restore p.2 r.ctx gen) s
  let s := s.updCore c fun q =>
    { q with config := f.config.foldl (fun m k =>
        m.put (cfgKey (k.1 / 64 / 256) (elemOf (k.1 / 64 % 256)) (k.1 % 64)) k.2) q.config
             installs := q.installs.del rn }
  let s := s.reissueAll c r.ctx port f.accesses
  let root := ((s.alloc? r.alloc).map (·.root)).getD 0
  let entry (e : LogEntry) : LogEntry :=
    let p := (s.peekPlace root (bitsOf e.va.toNat 0 48)).getD (e.place, e.attr)
    { e with elem := elemOf e.elem, port := port e.port, place := p.1, attr := p.2 }
  s.setRegion c rn { r with phase := .placed, log := r.log.map entry }

/-- Every region of a thawed allocation is back: its contexts go on, and the THAW completes (R46). -/
def State.thawDone (s : State) (a : Nat) : State :=
  match s.alloc? a with
  | none => s
  | some al =>
    let left := s.cores.any fun q => q.2.installs.any fun e => (q.2.regions.look e.1).any fun r => r.alloc = a
    if al.st ≠ .frozen || al.members.isEmpty || left then s
    else
      let s := al.members.foldl (fun s m => s.updCtx m.core m.ctx fun k => { k with freezing := false }) s
      ((s.updAlloc a fun k => { k with st := .running }).finishPackets a 9).endIfHalted a

/-- Requests of the spawn queue follow their members. -/
def SpawnReq.follow (q : SpawnReq) (ts : List ThawPlan) (ms : List Member) : SpawnReq :=
  match (ts.zip ms).find? fun e => e.1.member.core = q.core with
  | some e => { q with core := e.2.core, ctx := e.2.ctx }
  | none => q

/-- A packet's THAW that has found its places. Every translation of the allocation is discarded (R125). -/
def State.thaw (s : State) (a : Nat) (ts : List ThawPlan) (areas : List Rect) : State :=
  match s.alloc? a with
  | none => s
  | some al =>
    let s := s.dropTranslations a
    let s := ts.foldl (fun s t => s.thawMember a al t) s
    let s := s.updAlloc a fun k =>
      { k with areas := k.areas ++ areas.map fun r => r.area none
               spawnQ := k.spawnQ.map fun q => q.follow ts k.members }
    (s.joinRings a al.img).thawDone a

/-- THAW_INSTALL. A region thawed by RGN.THAW signals its event; one of a packet's THAW does not.
(DEDUCED, log 91.) -/
def thawInstall (a c rn : Nat) (s : State) : Option State :=
  match s.region? c rn, (s.core c).installs.look rn with
  | some r, some f =>
    if r.alloc ≠ a || r.phase ≠ .joining then none
    else
      let s := s.putRegion c rn r f f.gen (s.genOf c r.ctx)
      let s := match s.alloc? a with
        | some al => s.joinRings a al.img
        | none => s
      some (if ((s.alloc? a).map (·.st)) = some .frozen then s.thawDone a else s.signal c r.ctx (64 + r.lr))
  | _, _ => none

/-! ## Aborts (R47, R264, R411, R442, R449) -/

/-- What the bindings of a region have not issued is withdrawn. -/
def State.withdrawRegion (s : State) (c : Nat) (r : Region) : State :=
  let gone (a : Access) : Bool := s.unissued a && r.ports.any fun p => a.ofPort c p
  (s.accesses.filter gone).foldl (fun s a =>
    match a.client.binding with
    | some (_, p, seq) => s.updItems c p seq fun b => b.withdraw a
    | none => s) (s.withdrawAll gone)

/-- Every binding on the region's ports ends with the cause of an abort. -/
def State.abortBindings (s : State) (c : Nat) (r : Region) : State :=
  r.ports.foldl (fun s p => (s.port c p).bindings.foldl (fun s b => s.endBinding c p b.seq 0x7B) s) s

/-- Does the loader still read or install a stream of the region? -/
def State.stillLoads (s : State) (c rn : Nat) : Bool :=
  (s.core c).loadingFor rn && ((loaderServe c s).isSome || (configLoadComplete c s).isSome
    || s.accesses.any fun a => a.client = .loader c && !s.unissued a)

/-- ABORT_COMPLETE: the region's bindings end; when their last items are recorded, the region is given back.
(DEDUCED, log 109.) -/
def abortComplete (a c rn : Nat) (s : State) : Option State :=
  match s.region? c rn with
  | none => none
  | some r =>
    if r.alloc ≠ a || r.phase ≠ .aborting then none
    else
      let ends := r.ports.any fun p => (s.port c p).bindings.any fun b => b.ended.isNone
      let holds := (s.regionAccesses c r).any s.unissued
      if !r.stopped || ends || holds then
        some (((s.withdrawRegion c r).abortBindings c r).updRegion c rn fun r => { r with stopped := true })
      else if s.stillLoads c rn
          || s.accesses.any (fun a => !s.unissued a && (s.core c).xaCmds.any fun x => x.cmd.region = rn && a.ofXa c x.cmd.id)
          || r.ports.any fun p => !(s.port c p).bindings.isEmpty then none
      else some ((((s.dropHeldXa c rn).freeRegion c rn).freeArea a c rn).signal c r.ctx (64 + r.lr))

/-! ## The spawn queue (R43, R263, R267, R408) -/

/-- Is a set of regions quiet: have as many tokens come as gone (R42)? -/
def State.isQuiet (s : State) (set : List (Nat × Nat × Region)) : Bool :=
  let t := sumTotals (s.totals set)
  t.1 = t.2

/-- A spawned region whose context has executed HALT and that is quiet: its area goes back, and with it the ports and what
bindings stand on them (R43, R324; DESIGN CHOICE, log 124). -/
def State.leavingSpawn (s : State) (a : Nat) : Option (Nat × Nat × Region) :=
  (s.allocRegions a).find? fun t =>
    t.2.2.spawned && t.2.2.phase = .placed && s.isQuiet [t]
      && ((s.ctx? t.1 t.2.2.ctx).map (·.run)) = some .halted

/-- The rectangle that a spawned region takes within an area of the requester's core. -/
def State.spawnRect (s : State) (a : Nat) (al : Alloc) (c sub : Nat) (h : Shape) : Option (Area × Rect) :=
  let placed := (s.allocRegions a).map fun t => (t.2.2.ireg, t.2.2.rect t.1)
  al.areas.findSome? fun w =>
    if w.core ≠ c || w.used.isSome then none
    else (((origins h.rows h.cols).map fun o => ({ core := c, row := o.1, col := o.2, rows := h.rows, cols := h.cols } : Rect)).find?
      fun r => w.row ≤ r.row && r.row + r.rows ≤ w.row + w.rows && w.col ≤ r.col && r.col + r.cols ≤ w.col + w.cols
        && (al.img.ringSides sub).all r.onEdge && al.img.linksMet sub r placed).map fun r => (w, r)

/-- A SPAWN served: its region takes an area and waits for its INIT load. -/
def State.serveSpawn (s : State) (a : Nat) (al : Alloc) (q : SpawnReq) : Option State :=
  match al.img.shapes[q.subgraph]?, freeNo (s.core q.core).regions 16 with
  | some h, some rn =>
    (s.spawnRect a al q.core q.subgraph h).map fun t =>
      let s := s.placeRegion a al q.subgraph t.2 q.lr true
      let s := s.updAlloc a fun k => { k with areas := k.areas.map fun w => if w = t.1 then { w with used := some rn } else w }
      s.joinRings a al.img
  | _, _ => none

/-- A RGN.THAW refused: a record, the event, and a free number; no trap (R408). -/
def State.refuseThaw (s : State) (a : Nat) (q : SpawnReq) (addr : Word) (cause : Nat) : State :=
  let r := { s.recordFor q.core a (s.genOf q.core q.ctx) cause 6 with addr }
  (s.report r).signal q.core q.ctx (64 + q.lr)

/-- The region image at an address, or the cause of its refusal. An image that a freeze of this machine wrote and nothing
has changed since returns whole; any other is read from its bytes (R46, R405, R408; DESIGN CHOICE, log 17). -/
def State.imageAt (s : State) (q : SpawnReq) (a : Nat) (addr : Word) : State × Except Nat FrozenRegion :=
  let rc := { s.recordFor q.core a (s.genOf q.core q.ctx) 0x26 6 with addr }
  let va := bitsOf addr.toNat 0 48
  let head := s.readImage q.core a va 64 rc 2
  match head.cause <|> head.poison with
  | some cause => (head.st, .error cause)
  | none =>
    let n := fieldAt head.bytes 8 4
    if !imageOk head.bytes then (head.st, .error 0x79)
    else
      let all := head.st.readImage q.core a va n rc (n / 64 + 2)
      match all.cause <|> all.poison with
      | some cause => (all.st, .error cause)
      | none =>
        let own := s.frozen.findSome? fun f =>
          if f.area.isNone && f.bytes = all.bytes then (f.members.head?).bind (·.regions.head?) else none
        let k := (s.ctx? q.core q.ctx).getD {}
        (all.st, .ok (own.getD (regionOf s.acts k q.ctx a (s.genOf q.core q.ctx) all.bytes)))

/-- A RGN.THAW served: refused, or placed on the first free rectangle that its sides and links allow.
(DEDUCED, log 99.) -/
def State.serveThaw (s : State) (a : Nat) (al : Alloc) (q : SpawnReq) (addr : Word) : State × Option State :=
  let t := s.imageAt q a addr
  match t.2 with
  | .error cause => (t.1, some (t.1.refuseThaw a q addr cause))
  | .ok f =>
    if !t.1.hasFeatures q.core f.feat0 f.feat1 then (t.1, some (t.1.refuseThaw a q addr 0x7A))
    else
      let s := t.1
      let placed := (s.allocRegions a).map fun t => (t.2.2.ireg, t.2.2.rect t.1)
      if (freeNo (s.core q.core).regions 16).isNone then (s, none)
      else match s.freeRect {} q.core f.region.rows f.region.cols fun r =>
          (f.sides al.img).all r.onEdge && al.img.linksMet f.region.ireg r placed with
        | none => (s, none)
        | some r =>
          let s := s.updCtx q.core q.ctx fun k => { k with portMap := k.movePorts [(f, r)] }
          (s, some (s.reserveThaw a q.core q.ctx (f, r) q.lr false))

/-- SPAWN_QUEUE_SERVICE: areas that have been left return to the reserve; the oldest request is served. -/
def spawnQueueService (a : Nat) (s : State) : Option State :=
  match s.leavingSpawn a with
  | some t => some ((s.freeRegion t.1 t.2.1).freeArea a t.1 t.2.1)
  | none =>
    match s.alloc? a with
    | none => none
    | some al =>
      match al.spawnQ with
      | [] => none
      | q :: _ =>
        if al.st ≠ .running || s.packetFreeze a then none
        else
          let done (s : State) : State := s.updAlloc a fun k => { k with spawnQ := k.spawnQ.drop 1 }
          match q.thaw with
          | none => (s.serveSpawn a al q).map done
          | some addr => ((s.serveThaw a al q addr).2).map done

def execFreezeWave (c r : Nat) (s : State) : Host.Outcome State Fault Refusal := attempt (freezeWave c r) s
def execFreezeImageWritten (c r : Nat) (s : State) : Host.Outcome State Fault Refusal := attempt (freezeImageWritten c r) s
def execThawInstall (a c r : Nat) (s : State) : Host.Outcome State Fault Refusal := attempt (thawInstall a c r) s
def execAbortComplete (a c r : Nat) (s : State) : Host.Outcome State Fault Refusal := attempt (abortComplete a c r) s
def execSpawnQueueService (a : Nat) (s : State) : Host.Outcome State Fault Refusal := attempt (spawnQueueService a) s

end Sys2Proof.Machine
end

