-- ==== Sys2Proof/Machine/Upkeep.lean ====
section
/-! DEFINITION. Campion's upkeep: sweeps (R132), scrubbing and soft errors (R398, R462), fault records (R389, R390), and
the service path (R135). -/

namespace Sys2Proof.Machine

/-! ## Sweeps (R132, R133) -/

/-- Granules of a range of tagged memory whose tag is not live become zero under tag 0. -/
def State.sweepRange (s : State) (lo hi : Nat) (live : List (BitVec 12)) : State :=
  let dead (a : Nat) : Bool := lo ≤ a && a < hi && !live.contains (s.granule (a / 64)).tag
  { s with
    mem := s.mem.filter fun e => !dead e.1
    gran := s.gran.filter fun g => !dead (g.1 * 64) }

def EReg.sweep (r : EReg) (live : List (BitVec 12)) : EReg := if live.contains r.tag then r else {}
def Reg.sweep (r : Reg) (live : List (BitVec 12)) : Reg := if live.contains r.tag then r else {}
def Upd.sweep (u : Upd) (live : List (BitVec 12)) : Upd := if live.contains u.gen then u else { u.zeroed with gen := 0 }

/-- A swept accumulator is emptied, which keeps its latched fields (R95, R132). -/
def Xa.sweep (a : Xa) (live : List (BitVec 12)) : Xa := if live.contains a.gen then a else { a.empty with gen := 0 }

def Elem.sweep (v : Elem) (live : List (BitVec 12)) : Elem :=
  { v with priv := { v.priv with own := v.priv.own.sweep live, ctr := v.priv.ctr.sweep live, xa := v.priv.xa.sweep live }
           pend := v.pend.map fun u => u.sweep live }

def Ctx.sweep (k : Ctx) (live : List (BitVec 12)) : Ctx := { k with regs := k.regs.mapVal fun _ r => r.sweep live }

/-- SWEEP: a core's counter has given out 0xFFF and a member is to be placed. -/
def sweep (c : Nat) (s : State) : Option State :=
  let q := s.core c
  if !q.sweepDue then none
  else
    let live := q.live
    let s := s.sweepRange (sbufAddr c 0) (sbufAddr c 0x10_0000) live
    let s := s.sweepRange (cpAddr c 0) (cpAddr c 0x1_0000) live
    some (s.updCore c fun q =>
      { q with
        elems := q.elems.mapVal fun _ v => v.sweep live
        ctxs := q.ctxs.mapVal fun _ k => k.sweep live
        oldRegs := [], genNext := 1, sweepDue := false })

/-- STAGING_SWEEP: the same for a die's staging buffer; every LAUNCH waits for it. -/
def stagingSweep (d : Nat) (s : State) : Option State :=
  if !(s.die d).sweepDue then none
  else
    let live := s.allocs.filterMap fun a => if a.2.st = .ended then none else a.2.sgens[d]?
    some ((s.sweepRange (stagingBase + d * 0x80_0000) (stagingBase + (d + 1) * 0x80_0000) live).updDie d fun k =>
      { k with sgenNext := 1, sweepDue := false })

/-! ## Scrubbing and soft errors (R462) -/

/-- PATROL_SCRUB: the home reads the line and rewrites it as corrected; an error that cannot be corrected is found by
this read (R398). -/
def patrolScrub (line : Nat) (s : State) : Option State :=
  if s.dev.campionUp then some (s.checkLine line { cause := 0x26, src := 4 }).1 else none

/-- The fields of a record about an element. -/
def State.elementRecord (s : State) (c e cause : Nat) : FaultRec :=
  match (s.core c).regionAt e with
  | some (_, r) =>
    { s.recordFor c r.alloc (s.genOf c r.ctx) cause 2 with place := BitVec.ofNat 8 (r.posOf e) }
  | none => { cause := BitVec.ofNat 8 cause, src := 2, core := BitVec.ofNat 8 c, place := BitVec.ofNat 8 e }

/-- SOFT_ERROR_DETECT: an uncorrectable error or a parity error at a place. The error of a line is found by the next
read of its home (R398). (DEDUCED, log 83.) (DEDUCED, log 84.) -/
def softErrorDetect (place : ErrorPlace) (s : State) : Option State :=
  match place with
  | .line g => some (s.setGranule g { s.granule g with bad := true })
  | .register c x j =>
    (s.ctx? c x).map fun k =>
      (s.setCtx c x { k with regs := k.regs.put j { k.reg j with poison := true } }).report
        { s.recordFor c k.alloc k.gen 0x87 0 with unit := BitVec.ofNat 8 x }
  | .element c e ctr =>
    some ((s.updElem c e fun v =>
      { v with priv := if ctr then { v.priv with ctr := { v.priv.ctr with poison := true } }
                       else { v.priv with own := { v.priv.own with poison := true } } }).report (s.elementRecord c e 0x87))
  | .accumulator c e =>
    some ((s.updElem c e fun v => { v with priv := { v.priv with xa := { v.priv.xa with poison := true } } }).report
      (s.elementRecord c e 0x87))
  | .config c slot e =>
    let s := s.report { s.elementRecord c e 0x85 with info := BitVec.ofNat 64 (slot % 4 * 16) }
    match (s.core c).regionAt e with
    | none => some s
    | some (rn, r) =>
      let t := r.slot slot
      some (s.setRegion c rn (r.setSlot slot { t with eccElems := t.eccElems ++ [e] }))
  | .lane c e k =>
    let l := (s.elem c e).lane k
    match l.stage.getLast?, (s.core c).regionAt e with
    | some t, some (_, r) =>
      let t := { t with kind := .error, pay := errorPay 0x86 (r.posOf e) c }
      some ((s.updElem c e fun v => v.setLane k { l with stage := l.stage.dropLast ++ [t] }).report (s.elementRecord c e 0x86))
    | _, _ => none
  | .pulse c e => if (s.elem c e).pulses.isEmpty then none else some (s.report (s.elementRecord c e 0x86))

/-! ## Fault records (R389, R390) -/

/-- DONE of a queue is set; IRQ_N follows at once or within the queue's tolerance (R337, R347). -/
def State.setDone (s : State) (q : Nat) : State :=
  let late := s.tolerance q ≠ 0
  (s.updQueue q fun k => { k with done := true, irqDue := if k.done then k.irqDue else late }).updIrq

def FaultRec.bytes (r : FaultRec) (seq : BitVec 16) (ovf : Bool) : List Byte :=
  [r.cause, r.src, r.core, r.unit, r.place, r.alloc, r.strm,
    BitVec.ofNat 8 ((if r.fatal then 1 else 0) + (if ovf then 2 else 0) + if r.item then 4 else 0)]
    ++ leBytes r.addr.toNat 8 ++ leBytes r.info.toNat 8 ++ leBytes r.slot.toNat 4 ++ leBytes r.gen.toNat 2
    ++ leBytes seq.toNat 2

/-- Is the fault ring enabled (R390)? -/
def Dev.ringOn (d : Dev) : Bool :=
  4 ≤ d.log2n.toNat && d.log2n.toNat ≤ 12 && d.offset.toNat % (32 * 2 ^ d.log2n.toNat) = 0
    && d.offset.toNat + 32 * 2 ^ d.log2n.toNat ≤ 0x100_0000

/-- FAULT_RECORD_WRITE: the oldest record that Campion has received is numbered, and written or dropped. -/
def faultRecordWrite (s : State) : Option State :=
  match s.faultQ with
  | [] => none
  | r :: rs =>
    if !s.dev.campionUp then none else
    let d := s.dev
    let s := { s with faultQ := rs }
    if !d.ringOn || (d.tail - d.head).toNat = 2 ^ d.log2n.toNat then
      some (s.updDev fun d =>
        { d with seq := d.seq + 1, ovf := true, lost := BitVec.ofNat 16 (min (d.lost.toNat + 1) 0xFFFF) })
    else
      let a := portBase + d.offset.toNat + 32 * (d.tail.toNat % 2 ^ d.log2n.toNat)
      let s := s.writeRaw a (r.bytes d.seq d.ovf)
      let s := s.updDev fun d => { d with seq := d.seq + 1, ovf := false, tail := d.tail + 1 }
      some (if d.qsel.toNat < 20 then s.setDone d.qsel.toNat else s)

/-! ## The service path (R135) -/

/-- Value and tag as the service path answers them. -/
def tagged (v n : Nat) (tag : BitVec 12) : List Byte := leBytes v n ++ leBytes tag.toNat 2

/-- The g register of a context, or of one that has left. (DEDUCED, log 86.) -/
def Core.anyReg (q : Core) (x j : Nat) : Reg :=
  match q.ctxs.look x with
  | some k => k.reg j
  | none => (q.oldRegs.lookD x []).lookD j {}

def Core.setAnyReg (q : Core) (x j : Nat) (r : Reg) : Core :=
  match q.ctxs.look x with
  | some k => { q with ctxs := q.ctxs.put x { k with regs := k.regs.put j r } }
  | none => { q with oldRegs := q.oldRegs.put x ((q.oldRegs.lookD x []).put j r) }

/-- A physical core put among others by its key. -/
def putKeyed (key : Nat → Nat) (p : Nat) : List Nat → List Nat
  | [] => [p]
  | q :: qs => if key p < key q then p :: q :: qs else q :: putKeyed key p qs

/-- The physical cores of a die in the order of its test map: the first 40 of the 44 are enabled, as the logical cores of
the die in order of index (R8; DESIGN CHOICE, log 113). -/
def physicalOrder (d : Nat) : List Nat := (List.range 44).foldl (fun l p => putKeyed (Config.testKey d) p l) []

/-- The physical core of a logical one, on its die. -/
def physicalCore (c : Nat) : Nat := (physicalOrder (dieOf c)).getD (c % Config.coresPerDie) 0

/-- SERVICE_ACCESS: one read or write, in its place among the accesses of its granule. A granule is replaced whole, and a
read that waits for ONCE words of it finds them (R118). What a
pending update holds is read and written in the form that an image gives it (DESIGN CHOICE, log 32). (DESIGN CHOICE, log 85.) -/
def serviceAccess (o : ServiceOp) (s : State) : Option State :=
  if !s.dev.campionUp then none else
  match o with
  | .readGranule g =>
    let s := (s.checkLine g { cause := 0x26, src := 4 }).1
    let k := s.granule g
    some { s with serviceOut := s.bytesAt (g * 64) 64 ++ leBytes k.tag.toNat 2 ++ leBytes (if k.poison then 1 else 0) 1
                    ++ leBytes k.presence.toNat 1 }
  | .writeGranule g data tag poison presence =>
    let bs := (data ++ List.replicate 64 0).take 64
    some { s.setGranule g { tag, poison, presence } with mem := Memory.writeN s.mem (g * 64) bs, serviceOut := [] }.wakeOnce
  | .readReg c x j =>
    let r := (s.core c).anyReg x j
    some { s with serviceOut := tagged r.val.toNat 8 r.tag }
  | .writeReg c x j v tag => some { s.updCore c (·.setAnyReg x j { val := v, tag, poison := false }) with serviceOut := [] }
  | .readElem c e ctr =>
    let r := if ctr then (s.elem c e).priv.ctr else (s.elem c e).priv.own
    some { s with serviceOut := tagged r.val.toNat 4 r.tag }
  | .writeElem c e ctr v tag =>
    some { s.updElem c e fun w =>
             { w with priv := if ctr then { w.priv with ctr := { val := v, tag } } else { w.priv with own := { val := v, tag } } }
           with serviceOut := [] }
  | .readPending c e i =>
    some { s with serviceOut := match (s.elem c e).pend[i]? with
                    | some u => u.bytes ++ leBytes u.gen.toNat 2
                    | none => leBytes 0 10 }
  | .writePending c e i data tag =>
    some { s.updElem c e fun w =>
             { w with pend := match w.pend[i]? with
                        | some u => w.pend.set i ((Upd.ofBytes data u.b tag).getD { u.zeroed with gen := tag })
                        | none => w.pend }
           with serviceOut := [] }
  | .readPhysical c => some { s with serviceOut := leBytes (physicalCore c) 2 }
  | .readAcc c e => some { s with serviceOut := (s.elem c e).priv.xa.record }
  | .writeAcc c e rec0 =>
    some { s.updElem c e fun w => { w with priv := { w.priv with xa := recordXa rec0 } } with serviceOut := [] }
  | .readConfig c slot e f =>
    some { s with serviceOut := leBytes ((s.core c).config.lookD (cfgKey slot e f) 0).toNat 2 }
  | .writeConfig c slot e f v =>
    some { s.updCore c fun q => { q with config := if v = 0 then q.config.del (cfgKey slot e f) else q.config.put (cfgKey slot e f) v }
           with serviceOut := [] }

def execSweep (c : Nat) (s : State) : Host.Outcome State Fault Refusal := attempt (sweep c) s
def execStagingSweep (d : Nat) (s : State) : Host.Outcome State Fault Refusal := attempt (stagingSweep d) s
def execPatrolScrub (line : Nat) (s : State) : Host.Outcome State Fault Refusal := attempt (patrolScrub line) s
def execSoftErrorDetect (place : ErrorPlace) (s : State) : Host.Outcome State Fault Refusal := attempt (softErrorDetect place) s
def execFaultRecordWrite (s : State) : Host.Outcome State Fault Refusal := attempt faultRecordWrite s
def execServiceAccess (o : ServiceOp) (s : State) : Host.Outcome State Fault Refusal := attempt (serviceAccess o) s

end Sys2Proof.Machine
end

