-- ==== Sys2Proof/Machine/Teasel.lean ====
section
/-! DEFINITION. Teasel (R164, R310, R311, R314 to R323, R336, R337, R404, R408, R411, R439, R443 to R448): the strip that
reads packets, what every packet does, placement, the pieces of a COPY, and completion. -/

namespace Sys2Proof.Machine

/-! ## Packets -/

def Packet.arg (p : Packet) (i : Nat) : Word := p.d.getD i 0
def Packet.d0 (p : Packet) : Nat := (p.arg 0).toNat
def Packet.type (p : Packet) : Nat := p.d0 % 256
def Packet.strm (p : Packet) : Nat := bitsOf p.d0 16 5
def Packet.alloc (p : Packet) : Nat := bitsOf p.d0 24 8
def Packet.irq (p : Packet) : Bool := bitsOf p.d0 8 1 = 1

def State.packet? (s : State) (id : Nat) : Option Packet := s.teasel.packets.find? fun p => p.id = id
def State.updPacket (s : State) (id : Nat) (f : Packet → Packet) : State :=
  s.updTeasel fun t => { t with packets := t.packets.map fun p => if p.id = id then f p else p }

/-- INDIRECT packets that a packet stands in. -/
def State.ancestors (s : State) : Nat → Packet → List Nat
  | 0, _ => []
  | n + 1, p =>
    match p.parent with
    | none => []
    | some i => i :: (match s.packet? i with | some q => s.ancestors n q | none => [])

/-- Has every earlier packet of the queue completed, but for those that this one stands in (R164)? -/
def State.earlierDone (s : State) (p : Packet) : Bool :=
  let up := s.ancestors 4 p
  s.teasel.packets.all fun k => !(k.queue = p.queue && k.id < p.id && !up.contains k.id)

/-! ## Row 0: choosing a queue and reading a line (R311, R318 to R320, R443, R444, R447) -/

def Queue.readable (q : Queue) : Bool :=
  q.size ≠ 0 && !q.misplaced && !q.overrun && q.noticed && q.head != q.tail

/-- The INDIRECT whose buffer the queue reads from. -/
def State.openIndirect (s : State) (q : Nat) : Option Packet :=
  (s.teasel.packets.filter fun p => p.queue = q && p.type = 12 && p.st = .started && p.left ≠ 0).getLast?

def State.canRead (s : State) (q : Nat) : Bool :=
  let k := s.queue q
  k.cur.isNone && !k.waiting && ((s.openIndirect q).isSome || k.readable)

/-- The queue that row 0 chooses, and whether it is a background queue's turn. -/
def State.chooseQueue (s : State) : Option (Nat × Bool) :=
  let t := s.teasel
  let stream := (List.range 16).find? s.canRead
  let back := (List.range' 16 4).find? s.canRead
  match stream, back with
  | none, none => none
  | none, some b => some (b, false)
  | some q, none => some (q, false)
  | some q, some b =>
    if t.streamRun ≥ 16 then
      some (((((List.range 4).map fun i => 16 + (t.lastBg - 16 + 1 + i) % 4).find? s.canRead).getD b), true)
    else some (q, false)

/-- Packets in the strip: those that a queue holds without waiting (R319, R320). -/
def State.inStrip (s : State) : Nat := ((List.range 20).filter fun q => (s.queue q).cur.isSome).length

/-- A line read by Teasel as it stands. -/
def State.readLine (s : State) (addr : Nat) : State × List Word :=
  let t := (s.checkLine (addr / 64) { teaselRecord 0x26 with addr := BitVec.ofNat 64 addr }).1
  let bs := t.bytesAt addr 64
  (t, (List.range 8).map fun i => BitVec.ofNat 64 (leNat ((bs.drop (8 * i)).take 8)))

/-- A packet enters the strip; one of a reserved type is refused by row 1 (R445). -/
def State.enterStrip (s : State) (q addr : Nat) (parent : Option Nat) : State :=
  let t := s.readLine addr
  let p : Packet := { id := t.1.nextId, queue := q, d := t.2, addr, parent }
  let s := ({ t.1 with nextId := t.1.nextId + 1 }.updTeasel fun w => { w with packets := w.packets ++ [p] }).updQueue q
    fun k => { k with cur := some p.id }
  if p.type > 0x0C then s.refusePacket p.id 0x62 0 else s

/-- PACKET_READ. -/
def packetRead (s : State) : Option State :=
  if s.dev.boot ≠ .ready || s.inStrip ≥ 4 then none
  else match s.chooseQueue with
    | none => none
    | some (q, turn) =>
      let back := (List.range' 16 4).any s.canRead
      let s := s.updTeasel fun t =>
        { t with
          streamRun := if q < 16 && back then t.streamRun + 1 else 0
          lastBg := if turn then q else t.lastBg }
      match s.openIndirect q with
      | some p =>
        let addr := (p.arg 1).toNat + 64 * ((p.arg 2).toNat % 2 ^ 13 - p.left)
        let s := s.updPacket p.id fun p => { p with left := p.left - 1, pieces := p.pieces + 1 }
        some (s.enterStrip q addr (some p.id))
      | none =>
        let k := s.queue q
        let addr := portBase + k.base.toNat + 64 * (k.head.toNat % k.size)
        some ((s.updQueue q fun k => { k with head := k.head + 1 }).enterStrip q addr none)

/-! ## Row 1: the checks of R445 -/

/-- Bits of d0[31:16] that a type's ARGS name, and of d1 to d6, none where they are ignored (R315).
(DEDUCED, log 93.) -/
def namedBits (ty : Nat) : Nat × Option (List Nat) :=
  let f := 2 ^ 64 - 1
  let l := 2 ^ 32 - 1
  match ty with
  | 1 => (0xFF3F, some [f, f, f, f, f, f])
  | 2 => (0x003F, some [0xFFFF, 0, 0, 0, 0, 0])
  | 3 | 4 => (0, some [f, l, 0, 0, 0, 0])
  | 5 => (0x001F, some [f, f, l, f, 1, 0])
  | 7 => (0x001F, some [l, l, l, 0x3F, 0, 0])
  | 8 => (0xFF00, some [f, f, 0, 0, 0, 0])
  | 9 => (0xFF00, some [f, 0xFF, 0, 0, 0, 0])
  | 10 => (0xFF00, none)
  | 11 => (0, some [f, f, f, f, f, 0])
  | 12 => (0, some [f, 0x1FFF, 0, 0, 0, 0])
  | _ => (0, none)

def Packet.reservedClear (p : Packet) : Bool :=
  let n := namedBits p.type
  let zero (v mask : Nat) : Bool := v &&& mask = v
  bitsOf p.d0 9 7 = 0 && zero (bitsOf p.d0 16 16) n.1
    && match n.2 with
      | none => true
      | some l => l.zipIdx.all fun m => zero (p.arg (m.2 + 1)).toNat m.1

/-- The range of R111 that a physical address lies in, register pages aside. -/
def rangeOf (a : Nat) : Option Nat :=
  match homeOf a with
  | some (.dram _) => some 0
  | some (.staging _) => some 1
  | some .portMem => some 2
  | _ => none

def semOk (a : Word) : Bool := a.toNat % 4 = 0 && (rangeOf a.toNat).isSome

/-- A range of bytes within one range of R111 (R439). -/
def oneRange (a n : Nat) : Bool := n = 0 || ((rangeOf a).isSome && rangeOf a = rangeOf (a + n - 1))

/-- Check 3 of R445 (STRM of a COPY: DEDUCED, log 108). -/
def Packet.argsOk (p : Packet) (depth : Nat) : Bool :=
  let a1 := (p.arg 1).toNat
  let n := (p.arg 3).toNat
  (p.arg 7 = 0 || semOk (p.arg 7))
    && match p.type with
      | 1 => p.strm ≤ 16 && a1 % 512 = 0
      | 2 => p.strm ≤ 15
      | 3 | 4 => semOk (p.arg 1)
      | 5 => oneRange a1 n && oneRange (p.arg 2).toNat n
      | 7 => p.strm ≤ 15 && bitsOf (p.arg 4).toNat 4 2 ≠ 3
      | 8 => a1 % 64 = 0
      | 9 => a1 % 64 = 0 && (p.arg 2).toNat ≤ 159
      | 11 => homeOf a1 = some .portMem
      | 12 => a1 % 64 = 0 && 1 ≤ (p.arg 2).toNat && (p.arg 2).toNat ≤ 4096 && depth < 2
      | _ => true

def Packet.overlaps (p : Packet) : Bool :=
  let a := (p.arg 1).toNat
  let b := (p.arg 2).toNat
  let n := (p.arg 3).toNat
  p.type = 5 && n ≠ 0 && a < b + n && b < a + n

/-- The state that a packet needs its allocation in (R445, check 5). -/
def State.allocOk (s : State) (p : Packet) : Bool :=
  let st := (s.alloc? p.alloc).map (·.st)
  match p.type with
  | 1 => st = none || st = some .ended
  | 8 => st = some .running
  | 9 => st = some .frozen
  | 10 => st ≠ none && st ≠ some .ended
  | _ => true

/-- Checks 1 to 5, in their order: the cause of a refusal. -/
def State.packetCheck (s : State) (p : Packet) : Option Nat :=
  if !p.reservedClear then some 0x62
  else if (p.type = 12 && !s.dev.feature 1) || (p.type = 11 && !s.dev.feature 2) then some 0x69
  else if !p.argsOk (s.ancestors 4 p).length then some 0x63
  else if p.overlaps then some 0x64
  else if !s.allocOk p then some 0x65
  else none

/-! ## Rows 2 and 3: what a packet does as it starts -/

/-- A packet leaves the strip started, and holds its queue or not. (DEDUCED, log 95.) -/
def State.started (s : State) (p : Packet) (holds : Bool) : State :=
  (s.updPacket p.id fun k => { k with st := .started }).updQueue p.queue fun k =>
    { k with cur := none, infl := k.infl + 1, waiting := holds }

def State.finished (s : State) (id : Nat) : State := s.updPacket id fun k => { k with st := .finished }

/-- What starting a packet comes to. -/
inductive Taken where
  | ok (s : State)
  | refused (s : State) (cause info : Nat)

/-- One row of Teasel's table: the packet of this type in the strip of queue q is checked and started, or refused. -/
def packetRow (ty q : Nat) (act : State → Packet → Taken) (s : State) : Option State :=
  match (s.queue q).cur.bind s.packet? with
  | none => none
  | some p =>
    if p.st ≠ .read || p.type ≠ ty then none
    else match s.packetCheck p with
      | some cause => some (s.refusePacket p.id cause 0)
      | none =>
        match act s p with
        | .ok t => some t
        | .refused t cause info => some (t.refusePacket p.id cause info)

/-- NOP. -/
def takeNop (s : State) (p : Packet) : Taken := .ok ((s.started p false).finished p.id)

/-- Does some core of the device, when empty, hold a member of an image (R445, check 7)? -/
def State.everFits (s : State) (g : Image) : Bool :=
  (List.range Config.cores).any (fun c => s.hasFeatures c g.feat0 g.feat1) && (fitBufs g.bufs []).isSome

/-- LAUNCH: the file is checked; the allocation is made and waits for its placement. -/
def takeLaunch (s : State) (p : Packet) : Taken :=
  let root := (p.arg 1).toNat
  let r := s.readImageFile root (bitsOf (p.arg 3).toNat 0 48)
  match r.2 with
  | none => .refused r.1 0x67 0
  | some g =>
    if !r.1.everFits g then .refused r.1 0x68 0
    else
      let a : Alloc :=
        { st := .placing, strm := p.strm, strict := bitsOf p.d0 21 1 = 1, root, segbase := (p.arg 2).toNat, moa := p.arg 3,
          args := p.arg 4, seed0 := p.arg 5, seed1 := p.arg 6, img := g, launch := some p.id }
      .ok (((r.1.setAlloc p.alloc a).started p true).updTeasel fun t => { t with placing := t.placing ++ [p.id] })

/-- MARK. -/
def takeMark (s : State) (p : Packet) : Taken :=
  .ok ((s.started p false).updTeasel fun t => { t with marks := t.marks ++
    [{ stream := p.strm, kind := bitsOf p.d0 21 1 = 1, index := (p.arg 1).setWidth 16, packet := some p.id }] })

/-- SIGNAL, WAIT and FENCE: what they do comes with their completion. -/
def takeSignal (s : State) (p : Packet) : Taken := .ok (s.started p false)
def takeHolding (s : State) (p : Packet) : Taken := .ok (s.started p true)

/-- Pieces of a COPY: up to 4 KiB, cut where either range passes a 4 KiB boundary. -/
def cutPieces : Nat → Nat → Nat → Nat → List (Nat × Nat × Nat)
  | 0, _, _, _ => []
  | fuel + 1, a, b, n =>
    if n = 0 then []
    else
      let k := min n (min (4096 - a % 4096) (4096 - b % 4096))
      (a, b, k) :: cutPieces fuel (a + k) (b + k) (n - k)

/-- The die whose stream engines move a piece: die 0 when both ends are in port memory (DESIGN CHOICE, log 37). -/
def pieceDie (a b : Nat) : Nat :=
  let die (x : Nat) : Nat := match homeOf x with | some h => dieOfHome h | none => 0
  if die b = 4 then (if die a = 4 then 0 else die a) else die b

/-- A piece given to the stream engine of its die whose turn it is (R317). -/
def State.handPiece (s : State) (p : Packet) (e : Nat × Nat × Nat) : State :=
  let d := pieceDie e.1 e.2.1
  let n := (Config.copyEngine d + (s.die d).copyNext) % (16 * Config.coresPerDie)
  let k : Piece :=
    { id := s.nextId, packet := p.id, core := d * Config.coresPerDie + n / 16, unit := n % 16, src := e.1,
      dst := e.2.1, len := e.2.2, clear := (p.arg 5).getLsbD 0, strm := p.strm }
  ({ s with nextId := s.nextId + 1 }.updDie d fun w => { w with copyNext := (w.copyNext + 1) % (16 * Config.coresPerDie) }).updTeasel fun t =>
    { t with pieces := t.pieces ++ [k] }

/-- COPY. -/
def takeCopy (s : State) (p : Packet) : Taken :=
  let n := (p.arg 3).toNat
  let cut := cutPieces (n / 2048 + 3) (p.arg 1).toNat (p.arg 2).toNat n
  let s := cut.foldl (fun s e => s.handPiece p e) s
  .ok ((s.started p false).updPacket p.id fun k => { k with pieces := cut.length })

/-- BUDGET: the values stand in the stream's registers. -/
def takeBudget (s : State) (p : Packet) : Taken :=
  let w (i : Nat) : W32 := (p.arg i).setWidth 32
  let s := s.updStream p.strm fun k =>
    { k with
      ldram := w 1, llink := w 2, lload := w 3, latepol := (p.arg 4).extractLsb' 4 2, wt := (p.arg 4).extractLsb' 0 4
      pend := true }
  .ok ((s.started p false).finished p.id)

/-- FREEZE: refused when the area is smaller than its bound; otherwise every context and region begins to stop. -/
def takeFreeze (s : State) (p : Packet) : Taken :=
  match s.alloc? p.alloc with
  | none => .refused s 0x65 0
  | some al =>
    if (p.arg 2).toNat < s.areaBound p.alloc al then .refused s 0x78 0
    else
      let s := al.members.foldl (fun s m => s.updCtx m.core m.ctx fun k => { k with freezing := true }) s
      let s := (s.allocRegions p.alloc).foldl (fun s t => s.updRegion t.1 t.2.1 fun r =>
        { r with phase := if r.phase = .placed then .freezing (p.arg 1) true else r.phase }) s
      .ok (s.started p false)

/-- The image area that a THAW names, or the cause of its refusal. An area that a freeze of this machine wrote and nothing
has changed since returns whole; any other is read from its bytes (R46, R404, R408; DESIGN CHOICE, log 17). -/
def State.areaAt (s : State) (a : Nat) (al : Alloc) (addr : Word) : State × Except Nat Frozen :=
  let rc := { teaselRecord 0x26 with alloc := BitVec.ofNat 8 a, addr }
  let va := bitsOf addr.toNat 0 48
  let head := s.readImage 0 a va 64 rc 2
  match head.cause <|> head.poison with
  | some cause => (head.st, .error cause)
  | none =>
    let n := fieldAt head.bytes 8 8
    if fieldAt head.bytes 0 8 ≠ 0x4146_5A52_325A_4C47 || n < 0x40 then (head.st, .error 0x79)
    else
      let all := head.st.readImage 0 a va n rc (n / 64 + 2)
      match all.cause <|> all.poison with
      | some cause => (all.st, .error cause)
      | none =>
        if !areaOk all.bytes then (all.st, .error 0x79)
        else (all.st, .ok ((s.frozen.find? fun f => f.area = some a && f.bytes = all.bytes).getD (areaOf s.acts a al all.bytes)))

/-- The content that a THAW is to place. -/
def State.keepFrozen (s : State) (a : Nat) (f : Frozen) : State :=
  { s with frozen := (s.frozen.filter fun (g : Frozen) => g.area ≠ some a) ++ [f] }

/-- THAW: the area and every member are checked; the packet waits for its placement (R408). (DEDUCED, log 98.) -/
def takeThaw (s : State) (p : Packet) : Taken :=
  match s.alloc? p.alloc with
  | none => .refused s 0x79 0
  | some al =>
    let r := s.areaAt p.alloc al (p.arg 1)
    match r.2 with
    | .error cause => .refused r.1 cause 0
    | .ok f =>
      match f.members.find? fun m => !(List.range Config.cores).any fun c => m.runsOn s c with
      | some m => .refused r.1 0x7A m.ctx.member
      | none =>
        .ok (((r.1.keepFrozen p.alloc f).started p true).updTeasel fun t => { t with placing := t.placing ++ [p.id] })

/-- A LAUNCH or THAW leaves the placement logic, and its queue goes on. -/
def State.unplace (s : State) (id : Nat) : State :=
  match s.packet? id with
  | none => s.updTeasel fun t => { t with placing := t.placing.filter fun i => i ≠ id }
  | some p =>
    (s.updTeasel fun t => { t with placing := t.placing.filter fun i => i ≠ id }).updQueue p.queue fun k =>
      { k with waiting := false }

/-- Records of the unfinished items of a frozen binding (R411). -/
def State.abortFrozen (s : State) (core : Nat) (r : FrozenRegion) (p : Nat) (b : Binding) : State :=
  let opened := b.items.map (·.no)
  let later := (List.range (b.itemTotal - b.itemNo)).map fun i => b.itemNo + i
  (opened ++ later).foldl (fun s no =>
    let e := s.recordFor core r.region.alloc r.gen 0x7B 1
    s.report { e with
      unit := BitVec.ofNat 8 (portEngine p), place := portPlace p, item := true
      strm := if b.background then 16 else e.strm, slot := if b.background then 0 else e.slot
      info := BitVec.ofNat 64 (no % 2 ^ 32 * 2 ^ 32 + b.handle.toNat) }) s

/-- An ABORT of a FROZEN allocation reports its items and touches no core; of one being thawed, its regions are put
back and aborted there. -/
def State.abortArea (s : State) (a : Nat) (al : Alloc) : State :=
  if al.members.isEmpty then
    let fs := s.frozen.filter fun f => f.area = some a
    let s := fs.foldl (fun s f => f.members.foldl (fun s m => m.regions.foldl (fun s r =>
      r.ports.foldl (fun s w => w.2.bindings.foldl (fun s b => s.abortFrozen m.core r w.1 b) s) s) s) s) s
    { s with frozen := s.frozen.filter fun f => f.area ≠ some a }.abortAlloc a
  else
    let s := (s.allocRegions a).foldl (fun s t => (thawInstall a t.1 t.2.1 s).getD s) s
    s.abortAlloc a

/-- Any live allocation aborted. -/
def State.abortLive (s : State) (a : Nat) : State :=
  match s.alloc? a with
  | none => s
  | some al => if al.st = .frozen then s.abortArea a al else s.abortAlloc a

/-- ABORT: it completes when the allocation is ENDED; an allocation that is ENDING already ends as it does.
(DEDUCED, log 94.) -/
def takeAbort (s : State) (p : Packet) : Taken :=
  match s.alloc? p.alloc with
  | none => .refused s 0x65 0
  | some al =>
    let held := s.teasel.placing.filter fun i => (s.packet? i).any fun k => k.alloc = p.alloc
    let s := s.started p false
    .ok (if al.st = .ending then s
      else
        (held.foldl State.unplace s).abortLive p.alloc)

/-- The report of R358 up to its signature. -/
def State.attestBody (s : State) (nonce : List Word) : List Byte :=
  leBytes 0x5453_4554_5441 8 ++ leBytes 0x8E40 8 ++ nonce.flatMap (fun w => leBytes w.toNat 8) ++ leBytes 0 16
    ++ manifestHeader s.dev ++ (List.range 256).flatMap (manifestEntry s)

/-- ATTEST (R358, R465). (DEDUCED, log 110.) -/
def takeAttest (s : State) (p : Packet) : Taken :=
  let body := s.attestBody [p.arg 2, p.arg 3, p.arg 4, p.arg 5]
  let works := Config.fusesReadable && Config.signerWorks s.acts
  let sig := if works then leBytes (Config.mldsaSign identitySeed (hashBytes body 64)) 3309 else List.replicate 3309 0
  let a := (p.arg 1).toNat
  let s := s.writeRaw a ((body ++ sig ++ List.replicate 19 0).take (portEnd - a))
  let s := if works then s else s.report { cause := 0x8A, src := 9 }
  .ok ((s.started p false).finished p.id)

/-- INDIRECT: the buffer's packets take its place in the queue. (DEDUCED, log 102.) -/
def takeIndirect (s : State) (p : Packet) : Taken :=
  .ok ((s.started p false).updPacket p.id fun k => { k with left := (p.arg 2).toNat % 2 ^ 13 })

/-! ## Placement (R322, R323) -/

/-- Sweeps that Campion has still to be asked for. -/
def State.sweepsUnasked (s : State) (cores : List Nat) (staging : Bool) : Bool :=
  cores.any (fun c => (s.core c).drawGen.isNone && !(s.core c).sweepDue)
    || (staging && (List.range 4).any fun d => (s.drawStaging d).isNone && !(s.die d).sweepDue)

/-- What trying a packet comes to: it does not fit now, it has found its cores and waits for their sweeps, or it acts. -/
inductive Try where
  | unfit
  | sweeping
  | acts (s : State)

/-- A placement that has found its cores waits for the sweeps it needs, and then takes effect. -/
def State.whenSwept (s : State) (cores : List Nat) (staging : Bool) (go : State → State) : Try :=
  if s.gensReady cores staging then .acts (go s)
  else if s.sweepsUnasked cores staging then .acts (s.askSweeps cores staging) else .sweeping

/-- One attempt to place the packet. -/
def State.tryPlace (s : State) (id : Nat) : Try :=
  match s.packet? id with
  | none => .acts (s.unplace id)
  | some p =>
    match s.alloc? p.alloc with
    | none => .acts ((s.unplace id).finished id)
    | some al =>
      if p.type = 1 then
        if al.st ≠ .placing then .acts (s.unplace id)
        else match s.plan al.img 0 with
          | none => .unfit
          | some w => s.whenSwept w.cores true fun s => (s.unplace id).install p.alloc w
      else if al.st ≠ .frozen then .acts ((s.unplace id).finished id)
      else if !al.members.isEmpty then .acts (s.unplace id)
      else match s.frozen.find? fun f => f.area = some p.alloc with
        | none => .unfit
        | some f =>
          match s.planFrozen al.img (p.arg 2).toNat f.members with
          | none => .unfit
          | some w =>
            s.whenSwept (w.1.map (·.core)) false fun s =>
              let s := { s with frozen := s.frozen.filter fun f => f.area ≠ some p.alloc }
              (s.unplace id).thaw p.alloc w.1 w.2

/-- The packets handed over are taken one at a time in their order: one that does not fit is tried again later, and one that
waits for a sweep keeps its turn (R322, R323). -/
def State.placeFirst (s : State) : List Nat → Option State
  | [] => none
  | id :: ids =>
    match s.tryPlace id with
    | .unfit => s.placeFirst ids
    | .sweeping => none
    | .acts t => some t

/-- PLACEMENT. (DEDUCED, log 96.) -/
def placement (s : State) : Option State := s.placeFirst s.teasel.placing

/-! ## Pieces of a COPY (R317, R327 to R329, R398, R399, R439, R461) -/

/-- Can a die reach another (R461)? -/
def State.reaches (s : State) (d e : Nat) : Bool := (s.route d e).all fun h => !(s.link h.1).down

/-- The outcome of a piece given to its packet. -/
def State.pieceDone (s : State) (k : Piece) : State :=
  let st : Nat := if k.failed then 2 else if k.poisoned then 3 else 0
  let s := s.updTeasel fun t => { t with pieces := t.pieces.filter fun j => j.id ≠ k.id }
  let d4 := ((s.packet? k.packet).map fun p => p.arg 4).getD 0
  let s := if st ≠ 0 && d4 = 0 then
      s.report
        { cause := BitVec.ofNat 8 k.cause, src := 1, core := BitVec.ofNat 8 k.core, unit := BitVec.ofNat 8 k.unit,
          strm := BitVec.ofNat 8 k.strm, item := true, addr := BitVec.ofNat 64 k.addr, info := BitVec.ofNat 64 k.info,
          slot := k.faultSlot }
    else s
  s.updPacket k.packet fun p =>
    let worse := st = 2 || (st = 3 && p.status ≠ 2)
    let first := st ≠ 0 && (p.cause = 0 || k.src < p.causeAt)
    { p with
      pieces := p.pieces - 1, bytes := p.bytes + k.moved
      status := if worse then BitVec.ofNat 8 st else p.status
      cause := if first then BitVec.ofNat 8 k.cause else p.cause, causeAt := if first then k.src else p.causeAt }

/-- Can the engine of a piece reach an address, and both its ends (R461)? -/
def State.pieceWay (s : State) (k : Piece) (pa : Nat) : Bool :=
  (homeOf pa).all fun h => s.reaches (dieOf k.core) (dieOfHome h)
def State.pieceReaches (s : State) (k : Piece) : Bool := s.pieceWay k k.src && s.pieceWay k k.dst

/-- An access of a piece: at the standing of its packet's stream, checked against the copy allowance of its die; it acts under
no generation, and so for no allocation (256). A staging page is ONCE as the last walk to meet it found (DEDUCED, log 35). -/
def State.pieceAccess (s : State) (k : Piece) (kind : AccKind) (pa n : Nat) (data : List Byte) (poisoned : Bool) : Access :=
  let attr : Attr := if rangeOf pa = some 1 && s.oncePages.contains (pa / 65536) then .once else .normal
  { id := 0, client := .piece k.core k.unit k.id, alloc := 256, kind, addr := BitVec.ofNat 64 pa, size := n, data, poisoned,
    place := some (pa, attr), payer := if k.strm < 16 then .copies (dieOf k.core) k.strm else .background }

/-- COPY_PIECE: the next access of a piece. It reads what goes into the next line of its destination, and then writes it.
An access behind a link that is down is not performed, with the link's fault: what cannot be read is written as zeros under
poison, and what cannot be written is skipped (R398, R439, R461). (DESIGN CHOICE, log 92.) -/
def copyPiece (id : Nat) (s : State) : Option State :=
  match s.teasel.pieces.find? fun k => k.id = id with
  | none => none
  | some k =>
    if s.accesses.any fun a => a.client = .piece k.core k.unit id then none
    else if k.len ≤ k.off then some (s.pieceDone k)
    else
      let dst := k.dst + k.off
      let n := min (k.len - k.off) (64 - dst % 64)
      let had : List Byte × Option Nat := match k.line with
        | some (.bytes bs po) => (bs, po)
        | _ => ([], none)
      let src := k.src + k.off + had.1.length
      let a := if had.1.length < n then s.pieceAccess k .load src (min (n - had.1.length) (64 - src % 64)) [] false
        else s.pieceAccess k (if k.clear then .clear else .store) dst n had.1 had.2.isSome
      some (if s.pieceWay k (if a.kind = .load then src else dst) then s.enter a else s.pieceLine id a (.failed 0x84))

/-! ## Completion (R21, R164, R275, R314, R315, R337) -/

/-- An atomic of Teasel on a semaphore word: it acts under no generation, and poison stops it. -/
def State.semAdd (s : State) (pa : Nat) (v : Nat) : State :=
  let c := s.checkLine (pa / 64) { teaselRecord 0x26 with addr := BitVec.ofNat 64 pa }
  if (c.1.granule (pa / 64)).poison then c.1
  else c.1.writeRaw pa (leBytes ((c.1.numAt pa 4 + v) % 2 ^ 32) 4)

/-- Teasel stops polling while every queue is idle and no mark is pending (R336). (DEDUCED, log 107.) -/
def State.maySleep (s : State) : State :=
  if s.allIdle && s.teasel.marks.isEmpty then s.updTeasel fun t => { t with asleep := true } else s

/-- A packet has completed: its queue and the INDIRECT it stands in count it, its completion word is posted, and DONE
is set; a refused one posts and sets nothing. -/
def State.completed (s : State) (p : Packet) : State :=
  let s := s.updQueue p.queue fun k => if k.cur = some p.id then { k with cur := none } else { k with infl := k.infl - 1 }
  let s := s.updTeasel fun t =>
    { t with packets := (t.packets.filter fun k => k.id ≠ p.id).map fun k =>
        if p.parent = some k.id then { k with pieces := k.pieces - 1 } else k }
  let s := if p.refused then s
    else
      let s := if p.arg 7 = 0 then s else s.semAdd (p.arg 7).toNat 1
      if p.irq then s.setDone p.queue else s
  s.acceptFeatures.maySleep

/-- The condition of a WAIT packet holds, and no earlier waiter on its word goes first. -/
def State.waitHolds (s : State) (p : Packet) : Bool :=
  let pa := (p.arg 1).toNat
  s.waitReady pa p
    && (s.accesses.all fun a => !(a.id < p.id && s.semReady pa a))
    && s.teasel.packets.all fun k => !(k.id < p.id && s.waitReady pa k)

def State.unhold (s : State) (q : Nat) : State := s.updQueue q fun k => { k with waiting := false }

/-- May an allocation that is ENDING become ENDED (R21, R411)? (DEDUCED, log 89.) -/
def State.endingOver (s : State) (a : Nat) (al : Alloc) : Bool :=
  let rs := s.allocRegions a
  al.st = .ending &&
    if al.aborting then rs.isEmpty && s.accesses.all fun w => w.alloc ≠ a || w.translates || s.unissued w
    else
      s.atRest rs && (s.accesses.all fun w => w.alloc ≠ a || w.translates)
        && rs.all fun t =>
          let q := s.core t.1
          t.2.2.phase = .placed && t.2.2.log.isEmpty && (t.2.2.slots.all fun e => e.2.st ≠ .retiring)
            && (t.2.2.ports.all fun p => (s.port t.1 p).bindings.isEmpty)
            && !q.loadingFor t.2.1 && !(q.cfgPath.any fun k => k.region = t.2.1)
            && !s.xaUnderWay t.1 t.2.1

/-- An allocation becomes ENDED: its LAUNCH completes, and every FREEZE, THAW and ABORT of it. -/
def State.allocEnds (s : State) (a : Nat) : State :=
  let launch := (s.alloc? a).bind (·.launch)
  let mine := s.teasel.placing.filter fun i => (s.packet? i).any fun k => k.alloc = a
  let s := [8, 9, 10].foldl (fun s ty => s.finishPackets a ty) ((mine.foldl State.unplace s).endAlloc a)
  match launch with
  | some id => s.finished id
  | none => s

/-- The record of a COPY at d4. -/
def State.copyRecord (s : State) (p : Packet) : State :=
  if p.arg 4 = 0 then s
  else
    let slot := if p.strm < 16 then (s.stream p.strm).view.slot.toNat else 0
    let a := (p.arg 4).toNat
    if (rangeOf a).isNone then s
    else s.writeRaw a (leBytes 0 4 ++ [p.status, p.cause] ++ leBytes 0 2 ++ leBytes p.bytes 4 ++ leBytes slot 4)

/-- PACKET_COMPLETE. -/
def packetComplete (id : Nat) (s : State) : Option State :=
  match s.packet? id with
  | none => none
  | some p =>
    match p.st with
    | .read => none
    | .finished => some (s.completed p)
    | .started =>
      match p.type with
      | 1 =>
        match s.alloc? p.alloc with
        | none => none
        | some al => if s.endingOver p.alloc al then some ((s.allocEnds p.alloc).completed p) else none
      | 3 => if s.earlierDone p then some ((s.semAdd (p.arg 1).toNat ((p.arg 2).toNat % 2 ^ 32)).completed p) else none
      | 4 =>
        let v := (p.arg 2).toNat % 2 ^ 32
        if v = 0 then some ((s.unhold p.queue).completed p)
        else if s.waitHolds p then some (((s.semAdd (p.arg 1).toNat (2 ^ 32 - v)).unhold p.queue).completed p) else none
      | 5 => if p.pieces = 0 then some ((s.copyRecord p).completed p) else none
      | 6 => if s.earlierDone p then some ((s.unhold p.queue).completed p) else none
      | 8 => if (s.allocRegions p.alloc).isEmpty then s.freezeArea p.alloc else none
      | 12 => if p.left = 0 && p.pieces = 0 then some (s.completed p) else none
      | _ => none

/-- TEASEL_WAKE: the tolerance of a pending TAIL write has run out, and every pending queue is served (R336). -/
def teaselWake (q : Nat) (s : State) : Option State :=
  if (s.queue q).noticed then none
  else
    some ({ s with queues := s.queues.mapVal fun _ k => { k with noticed := true } }.updTeasel fun t => { t with asleep := false })

/-- IRQ_TOLERANCE_EXPIRY: one assertion serves every completion that is due (R337). -/
def irqToleranceExpiry (q : Nat) (s : State) : Option State :=
  if !(s.queue q).irqDue then none
  else some ({ s with queues := s.queues.mapVal fun _ k => { k with irqDue := false } }.updIrq)

def execPacketRead (s : State) : Host.Outcome State Fault Refusal := attempt packetRead s
def execTeaselWake (q : Nat) (s : State) : Host.Outcome State Fault Refusal := attempt (teaselWake q) s
def execIrqToleranceExpiry (q : Nat) (s : State) : Host.Outcome State Fault Refusal := attempt (irqToleranceExpiry q) s
def execPacketComplete (id : Nat) (s : State) : Host.Outcome State Fault Refusal := attempt (packetComplete id) s
def execPlacement (s : State) : Host.Outcome State Fault Refusal := attempt placement s
def execCopyPiece (id : Nat) (s : State) : Host.Outcome State Fault Refusal := attempt (copyPiece id) s
def execNop (q : Nat) (s : State) : Host.Outcome State Fault Refusal := attempt (packetRow 0 q takeNop) s
def execLaunch (q : Nat) (s : State) : Host.Outcome State Fault Refusal := attempt (packetRow 1 q takeLaunch) s
def execMark (q : Nat) (s : State) : Host.Outcome State Fault Refusal := attempt (packetRow 2 q takeMark) s
def execSignal (q : Nat) (s : State) : Host.Outcome State Fault Refusal := attempt (packetRow 3 q takeSignal) s
def execWait (q : Nat) (s : State) : Host.Outcome State Fault Refusal := attempt (packetRow 4 q takeHolding) s
def execCopy (q : Nat) (s : State) : Host.Outcome State Fault Refusal := attempt (packetRow 5 q takeCopy) s
def execFencePacket (q : Nat) (s : State) : Host.Outcome State Fault Refusal := attempt (packetRow 6 q takeHolding) s
def execBudget (q : Nat) (s : State) : Host.Outcome State Fault Refusal := attempt (packetRow 7 q takeBudget) s
def execFreeze (q : Nat) (s : State) : Host.Outcome State Fault Refusal := attempt (packetRow 8 q takeFreeze) s
def execThaw (q : Nat) (s : State) : Host.Outcome State Fault Refusal := attempt (packetRow 9 q takeThaw) s
def execAbort (q : Nat) (s : State) : Host.Outcome State Fault Refusal := attempt (packetRow 10 q takeAbort) s
def execAttest (q : Nat) (s : State) : Host.Outcome State Fault Refusal := attempt (packetRow 11 q takeAttest) s
def execIndirect (q : Nat) (s : State) : Host.Outcome State Fault Refusal := attempt (packetRow 12 q takeIndirect) s

end Sys2Proof.Machine
end

