-- ==== Sys2Proof/WellFormed.lean ====
section
/-! DEFINITION. Which instruction terms are well formed: the targets of a body word have the form of R177 and its
control and status register is one R171 lists; a step without a word names parts the device has (R8, R9, R20,
R310, R460). -/

namespace Sys2Proof

/-- A target has [6:5] = 0, and slot 00 has index 0 (R177). -/
def targetOk (t : Target) : Bool :=
  t.extractLsb' 5 2 == 0 && (t.extractLsb' 7 2 != 0 || t.extractLsb' 0 5 == 0)

/-- A host burst has 32 or 64 bytes (R341), and its command names a place in the window (R343). -/
def HostCmd.ok (h : HostCmd) : Bool :=
  h.channel < 2 && (match h.lead with | .activate r => r < 0x20000 | .stay | .precharge => true) && h.col < 1024 && match h.group with
    | none => h.bank < 16
    | some g => g < 4 && h.bank < 4

/-- The bank number of a command: in bank-group mode, group * 4 + bank address (R341). -/
def HostCmd.bankNo (h : HostCmd) : Nat :=
  match h.group with
  | none => h.bank
  | some g => g * 4 + h.bank

def HostCmd.bytes (h : HostCmd) : Nat := if h.bl32 then 64 else 32

def wellFormed : Instr → Bool
  | .read _ _ t0 t1 => targetOk t0 && targetOk t1
  | .write _ _ => true
  | .movi _ _ t0 => targetOk t0
  | .appi _ _ t0 => targetOk t0
  | .mov _ t0 t1 => targetOk t0 && targetOk t1
  | .sel t0 t1 => targetOk t0 && targetOk t1
  | .nullw _ _ => true
  | .nulls _ _ => true
  | .add _ _ t0 t1 => targetOk t0 && targetOk t1
  | .sub _ _ t0 t1 => targetOk t0 && targetOk t1
  | .mul _ _ t0 t1 => targetOk t0 && targetOk t1
  | .mulh _ _ t0 t1 => targetOk t0 && targetOk t1
  | .mulhu _ _ t0 t1 => targetOk t0 && targetOk t1
  | .div _ _ t0 t1 => targetOk t0 && targetOk t1
  | .divu _ _ t0 t1 => targetOk t0 && targetOk t1
  | .rem _ _ t0 t1 => targetOk t0 && targetOk t1
  | .remu _ _ t0 t1 => targetOk t0 && targetOk t1
  | .min _ _ t0 t1 => targetOk t0 && targetOk t1
  | .max _ _ t0 t1 => targetOk t0 && targetOk t1
  | .minu _ _ t0 t1 => targetOk t0 && targetOk t1
  | .maxu _ _ t0 t1 => targetOk t0 && targetOk t1
  | .and _ _ t0 t1 => targetOk t0 && targetOk t1
  | .or _ _ t0 t1 => targetOk t0 && targetOk t1
  | .xor _ _ t0 t1 => targetOk t0 && targetOk t1
  | .andn _ _ t0 t1 => targetOk t0 && targetOk t1
  | .orn _ _ t0 t1 => targetOk t0 && targetOk t1
  | .shl _ _ t0 t1 => targetOk t0 && targetOk t1
  | .shr _ _ t0 t1 => targetOk t0 && targetOk t1
  | .sra _ _ t0 t1 => targetOk t0 && targetOk t1
  | .rol _ _ t0 t1 => targetOk t0 && targetOk t1
  | .ror _ _ t0 t1 => targetOk t0 && targetOk t1
  | .bfx _ _ t0 t1 => targetOk t0 && targetOk t1
  | .clz _ _ t0 t1 => targetOk t0 && targetOk t1
  | .ctz _ _ t0 t1 => targetOk t0 && targetOk t1
  | .popc _ _ t0 t1 => targetOk t0 && targetOk t1
  | .brev _ _ t0 t1 => targetOk t0 && targetOk t1
  | .bswap _ _ t0 t1 => targetOk t0 && targetOk t1
  | .neg _ _ t0 t1 => targetOk t0 && targetOk t1
  | .not _ _ t0 t1 => targetOk t0 && targetOk t1
  | .sext8 _ _ t0 t1 => targetOk t0 && targetOk t1
  | .sext16 _ _ t0 t1 => targetOk t0 && targetOk t1
  | .sext32 _ _ t0 t1 => targetOk t0 && targetOk t1
  | .zext8 _ _ t0 t1 => targetOk t0 && targetOk t1
  | .zext16 _ _ t0 t1 => targetOk t0 && targetOk t1
  | .zext32 _ _ t0 t1 => targetOk t0 && targetOk t1
  | .addi _ _ _ t0 => targetOk t0
  | .andi _ _ _ t0 => targetOk t0
  | .ori _ _ _ t0 => targetOk t0
  | .xori _ _ _ t0 => targetOk t0
  | .shli _ _ _ t0 => targetOk t0
  | .shri _ _ _ t0 => targetOk t0
  | .srai _ _ _ t0 => targetOk t0
  | .muli _ _ _ t0 => targetOk t0
  | .teq _ _ t0 t1 => targetOk t0 && targetOk t1
  | .tne _ _ t0 t1 => targetOk t0 && targetOk t1
  | .tlt _ _ t0 t1 => targetOk t0 && targetOk t1
  | .tle _ _ t0 t1 => targetOk t0 && targetOk t1
  | .tltu _ _ t0 t1 => targetOk t0 && targetOk t1
  | .tleu _ _ t0 t1 => targetOk t0 && targetOk t1
  | .teqi _ _ _ t0 => targetOk t0
  | .tnei _ _ _ t0 => targetOk t0
  | .tlti _ _ _ t0 => targetOk t0
  | .tlei _ _ _ t0 => targetOk t0
  | .tgti _ _ _ t0 => targetOk t0
  | .tgei _ _ _ t0 => targetOk t0
  | .tltui _ _ _ t0 => targetOk t0
  | .tgtui _ _ _ t0 => targetOk t0
  | .ldb _ _ _ t0 => targetOk t0
  | .ldbx _ _ _ t0 => targetOk t0
  | .ldh _ _ _ t0 => targetOk t0
  | .ldhx _ _ _ t0 => targetOk t0
  | .ldw _ _ _ t0 => targetOk t0
  | .ldwx _ _ _ t0 => targetOk t0
  | .ldd _ _ _ t0 => targetOk t0
  | .lda _ _ _ t0 => targetOk t0
  | .stb _ _ _ => true
  | .sth _ _ _ => true
  | .stw _ _ _ => true
  | .std _ _ _ => true
  | .stl _ _ _ => true
  | .amoadd _ _ _ _ _ t0 => targetOk t0
  | .amoswp _ _ _ _ _ t0 => targetOk t0
  | .amoand _ _ _ _ _ t0 => targetOk t0
  | .amoor _ _ _ _ _ t0 => targetOk t0
  | .amoxor _ _ _ _ _ t0 => targetOk t0
  | .amomin _ _ _ _ _ t0 => targetOk t0
  | .amomax _ _ _ _ _ t0 => targetOk t0
  | .amominu _ _ _ _ _ t0 => targetOk t0
  | .amomaxu _ _ _ _ _ t0 => targetOk t0
  | .amocas _ _ _ _ t0 => targetOk t0
  | .fence _ _ _ => true
  | .bri _ _ _ => true
  | .calli _ _ _ => true
  | .br _ _ => true
  | .call _ _ => true
  | .scall _ _ _ => true
  | .trap _ _ _ => true
  | .halt _ _ => true
  | .eret _ _ => true
  | .csrr _ n t0 => csrListed n && targetOk t0
  | .csrw _ n => csrListed n
  | .cfgLoad _ _ _ _ => true
  | .cfgWr _ _ => true
  | .cfgSwap _ _ _ _ _ t0 => targetOk t0
  | .cfgRetire _ _ _ => true
  | .cfgStat _ _ t0 => targetOk t0
  | .strBind _ _ _ _ _ _ t0 => targetOk t0
  | .strGo _ _ => true
  | .strCancel _ => true
  | .strWait _ t0 => targetOk t0
  | .strPush _ _ _ _ => true
  | .strPop _ _ _ _ t0 => targetOk t0
  | .strStat _ _ _ _ t0 => targetOk t0
  | .rgnArm _ _ _ => true
  | .rgnFreeze _ _ => true
  | .rgnThaw _ _ => true
  | .rgnAbort _ _ => true
  | .rgnQuiet _ _ _ t0 => targetOk t0
  | .rgnStat _ _ t0 => targetOk t0
  | .spawn _ _ t0 => targetOk t0
  | .xaClr _ _ _ _ => true
  | .xaDrain _ _ _ _ _ => true
  | .xaSpill _ _ _ _ => true
  | .xaFill _ _ _ _ => true
  | .xaMerge _ _ _ _ => true
  | .xaStat _ _ t0 => targetOk t0
  | .markWait _ _ t0 => targetOk t0
  | .markRaise _ _ _ => true
  | .evtWait _ _ t0 => targetOk t0
  | .evtSignal _ _ => true
  | .semWait _ _ _ t0 => targetOk t0
  | .semPost _ _ _ t0 => targetOk t0
  | .fadd _ t0 t1 => targetOk t0 && targetOk t1
  | .fsub _ t0 t1 => targetOk t0 && targetOk t1
  | .fmul _ t0 t1 => targetOk t0 && targetOk t1
  | .fdiv _ t0 t1 => targetOk t0 && targetOk t1
  | .fsqrt _ t0 t1 => targetOk t0 && targetOk t1
  | .fmin _ t0 t1 => targetOk t0 && targetOk t1
  | .fmax _ t0 t1 => targetOk t0 && targetOk t1
  | .fabs _ t0 t1 => targetOk t0 && targetOk t1
  | .fneg _ t0 t1 => targetOk t0 && targetOk t1
  | .fcmpEq _ t0 t1 => targetOk t0 && targetOk t1
  | .fcmpLt _ t0 t1 => targetOk t0 && targetOk t1
  | .fcmpLe _ t0 t1 => targetOk t0 && targetOk t1
  | .fcmpUn _ t0 t1 => targetOk t0 && targetOk t1
  | .fcvtS32F _ t0 t1 => targetOk t0 && targetOk t1
  | .fcvtS64F _ t0 t1 => targetOk t0 && targetOk t1
  | .fcvtFS32 _ t0 t1 => targetOk t0 && targetOk t1
  | .fcvtFS64 _ t0 t1 => targetOk t0 && targetOk t1
  | .fcvtFN64 _ t0 t1 => targetOk t0 && targetOk t1
  | .fcvtBf16F _ t0 t1 => targetOk t0 && targetOk t1
  | .fcvtFBf16 _ t0 t1 => targetOk t0 && targetOk t1
  | .fcvtFp16F _ t0 t1 => targetOk t0 && targetOk t1
  | .fcvtFFp16 _ t0 t1 => targetOk t0 && targetOk t1
  | .blockFetch c x => c < 160 && x < 4
  | .blockCommit c x => c < 160 && x < 4
  | .blockAbandon c x => c < 160 && x < 4
  | .stallDetect c x => c < 160 && x < 4
  | .engineAccept c x k => c < 160 && x < 4 && k < 32
  | .waitSatisfied c x => c < 160 && x < 4
  | .swapTakesEffect c r => c < 160 && r < 16
  | .loaderServe c => c < 160
  | .configLoadComplete c => c < 160
  | .regionSchedulerDecision c r => c < 160 && r < 16
  | .quantumExpiry c r => c < 160 && r < 16
  | .pass c e => c < 160 && e < 256
  | .steer c e => c < 160 && e < 256
  | .loopExitSteer c e => c < 160 && e < 256
  | .swch c e => c < 160 && e < 256
  | .merge c e => c < 160 && e < 256
  | .amrg c e => c < 160 && e < 256
  | .filt c e => c < 160 && e < 256
  | .expd c e => c < 160 && e < 256
  | .rep c e => c < 160 && e < 256
  | .cnt c e => c < 160 && e < 256
  | .gate c e => c < 160 && e < 256
  | .taga c e => c < 160 && e < 256
  | .tagf c e => c < 160 && e < 256
  | .reord c e => c < 160 && e < 256
  | .join c e => c < 160 && e < 256
  | .const c e => c < 160 && e < 256
  | .iadd c e => c < 160 && e < 256
  | .isub c e => c < 160 && e < 256
  | .imul c e => c < 160 && e < 256
  | .imac c e => c < 160 && e < 256
  | .iand c e => c < 160 && e < 256
  | .ior c e => c < 160 && e < 256
  | .ixor c e => c < 160 && e < 256
  | .ishl c e => c < 160 && e < 256
  | .ishr c e => c < 160 && e < 256
  | .isra c e => c < 160 && e < 256
  | .imin c e => c < 160 && e < 256
  | .imax c e => c < 160 && e < 256
  | .iabs c e => c < 160 && e < 256
  | .isat c e => c < 160 && e < 256
  | .icmp c e => c < 160 && e < 256
  | .elemFadd c e => c < 160 && e < 256
  | .elemFmul c e => c < 160 && e < 256
  | .ffma c e => c < 160 && e < 256
  | .elemFmin c e => c < 160 && e < 256
  | .elemFmax c e => c < 160 && e < 256
  | .elemFcmp c e => c < 160 && e < 256
  | .elemFcvt c e => c < 160 && e < 256
  | .frcp c e => c < 160 && e < 256
  | .frsq c e => c < 160 && e < 256
  | .fexp2 c e => c < 160 && e < 256
  | .flog2 c e => c < 160 && e < 256
  | .qmul c e => c < 160 && e < 256
  | .qrsq c e => c < 160 && e < 256
  | .qdiv c e => c < 160 && e < 256
  | .pivg c e => c < 160 && e < 256
  | .cadd c e => c < 160 && e < 256
  | .csub c e => c < 160 && e < 256
  | .cmul c e => c < 160 && e < 256
  | .cmac c e => c < 160 && e < 256
  | .cconj c e => c < 160 && e < 256
  | .cabs2 c e => c < 160 && e < 256
  | .cscl c e => c < 160 && e < 256
  | .rotz c e => c < 160 && e < 256
  | .perm c e => c < 160 && e < 256
  | .mins c e => c < 160 && e < 256
  | .llrs c e => c < 160 && e < 256
  | .xorr c e => c < 160 && e < 256
  | .crcs c e => c < 160 && e < 256
  | .mma c e => c < 160 && e < 256
  | .xacc c e => c < 160 && e < 256
  | .req c e => c < 160 && e < 256
  | .rng c e => c < 160 && e < 256
  | .markerConsume c e => c < 160 && e < 256
  | .squashArrival c e lane => c < 160 && e < 256 && lane < 8
  | .enablePulse c e => c < 160 && e < 256
  | .donePulse c e route => c < 160 && e < 256 && route < 8
  | .commitPulse c e => c < 160 && e < 256
  | .creditPulse c e route => c < 160 && e < 256 && route < 8
  | .switchboxPass c e lane => c < 160 && e < 256 && lane < 8
  | .drainChainForward c e => c < 160 && e < 256
  | .klenDrain c e => c < 160 && e < 256
  | .xaCommandAct c e => c < 160 && e < 256
  | .xaCommandComplete c _ => c < 160
  | .quiescenceWaveComplete c x => c < 160 && x < 4
  | .freezeWave c r => c < 160 && r < 16
  | .freezeImageWritten c r => c < 160 && r < 16
  | .thawInstall a c r => a < 256 && c < 160 && r < 16
  | .abortComplete a c r => a < 256 && c < 160 && r < 16
  | .spawnQueueService a => a < 256
  | .endRelease c _ => c < 160
  | .detRoundApply a => a < 256
  | .tagdry c e => c < 160 && e < 256
  | .bindingActivate c p => c < 160 && p < 64
  | .streamMove c p => c < 160 && p < 64
  | .gatherRequest c p => c < 160 && p < 64
  | .scatterRequest c p => c < 160 && p < 64
  | .itemFinish c p => c < 160 && p < 64
  | .bindingDone c p => c < 160 && p < 64
  | .translateAhead c p => c < 160 && p < 64
  | .ringSend c p => c < 160 && p < 64
  | .ringDeliver c p => c < 160 && p < 64
  | .ringSlotReturn c p => c < 160 && p < 64
  | .arbitrationRound c => c < 160
  | .walk d _ => d < 4
  | .accessPerformed _ => true
  | .semRetest _ => true
  | .sweep c => c < 160
  | .stagingSweep d => d < 4
  | .patrolScrub _ => true
  | .softErrorDetect _ => true
  | .markUnitApply => true
  | .markApply c => c < 160
  | .eventDelivery _ => true
  | .packetRead => true
  | .teaselWake q => q < 20
  | .irqToleranceExpiry q => q < 20
  | .packetComplete _ => true
  | .placement => true
  | .copyPiece _ => true
  | .nop q => q < 20
  | .launch q => q < 20
  | .mark q => q < 20
  | .signal q => q < 20
  | .wait q => q < 20
  | .copy q => q < 20
  | .fencePacket q => q < 20
  | .budget q => q < 20
  | .freeze q => q < 20
  | .thaw q => q < 20
  | .abort q => q < 20
  | .attest q => q < 20
  | .indirect q => q < 20
  | .faultRecordWrite => true
  | .hostRead h => h.ok
  | .hostWrite h data mask => h.ok && data.length == h.bytes && mask.length == h.bytes
  | .modeRegisterWrite n _ => n.channel < 2
  | .modeRegisterRead n => n.channel < 2
  | .refresh ch => ch < 2
  | .powerDown ch _ => ch < 2
  | .selfRefresh ch _ => ch < 2
  | .commandBusTraining ch => ch < 2
  | .wck2ckLevelling ch => ch < 2
  | .readDqCalibration ch => ch < 2
  | .writeFifo ch _ => ch < 2
  | .readFifo ch => ch < 2
  | .qtailWrite q _ _ => q < 20
  | .qsizeWrite q _ _ => q < 20
  | .qbaseWrite q _ _ => q < 20
  | .qstatWrite q _ _ => q < 20
  | .markwWrite m _ _ => m < 16
  | .limitWrite m b _ _ => m < 16 && b < 3
  | .bctlWrite m _ _ => m < 16
  | .bootctlStart _ _ => true
  | .feath0Write _ _ => true
  | .pwrcapWrite _ _ => true
  | .irqstatWrite _ _ => true
  | .irqmaskWrite _ _ => true
  | .fltringWrite _ _ => true
  | .fltptrWrite _ _ => true
  | .registerWrite off _ _ => off < 0x10000
  | .flitReceive l _ cls => l < 8 && cls < 4
  | .creditFlit l _ => l < 8
  | .linkretrain l => l < 8
  | .linkdown l => l < 8
  | .powerEstimate _ temps => temps.length == 5
  | .thermalTrip => true
  | .powerOn => true
  | .bundleVerify => true
  | .initComplete _ => true
  | .campionTimeout => true
  | .serviceAccess _ => true
  | .linkArbitrationRound l _ => l < 8

end Sys2Proof
end

