-- ==== Sys2Proof/Machine/HostPort.lean ====
section
/-! DEFINITION. The host port (R15, R162, R310, R341 to R345, R458, R459): bursts, mode registers, and the commands that
change nothing but the port. -/

namespace Sys2Proof

/-- The window offset that a command's bank, row and column select (R343), and that of its burst. -/
def HostCmd.offset (h : HostCmd) (row : Nat) : Nat := (row * 16 + h.bankNo) * 2048 + h.col * 2
def HostCmd.start (h : HostCmd) (row : Nat) : Nat := h.offset row / h.bytes * h.bytes

/-- A bank among those of both channels. -/
def HostCmd.bankKey (h : HostCmd) : Nat := h.channel * 16 + h.bankNo

end Sys2Proof

namespace Sys2Proof.Machine

/-! ## Commands of a channel (R458) -/

/-- The causes of the port, counted apart on each channel. -/
def quietKey (cause ch : Nat) : Nat := cause * 2 + ch

/-- A command arrives on a channel: the windows in which no record is written run on. -/
def State.hostCommand (s : State) (ch : Nat) : State :=
  { s with host := { s.host with quietFor := [0x80, 0x81, 0x82].foldl (fun m k =>
      m.upd (quietKey k ch) fun n => n - 1) s.host.quietFor } }

/-- A command that faults: one record, or a count for the next one. `quiet` tells whether the window of an earlier record
still ran as the command arrived. -/
def State.hostFault (s : State) (cause ch : Nat) (quiet : Bool) (addr : Nat) : State :=
  let key := quietKey cause ch
  let n := s.host.missed.lookD key 0
  if quiet then { s with host := { s.host with missed := s.host.missed.put key (min (n + 1) 0xFFFF) } }
  else
    { s with host := { s.host with missed := s.host.missed.del key, quietFor := s.host.quietFor.put key 2048 } }.report
      { cause := BitVec.ofNat 8 cause, src := 8, unit := BitVec.ofNat 8 ch, addr := BitVec.ofNat 64 addr,
        info := BitVec.ofNat 64 (n * 2 ^ 16) }

/-- The row open in a command's bank as the command arrives: an ACTIVATE opens one, and a PRECHARGE closes it. -/
def State.openRow (s : State) (h : HostCmd) : Option Nat :=
  match h.lead with
  | .activate r => some r
  | .precharge => none
  | .stay => s.host.rows.look h.bankKey

/-- The state in which a READ or WRITE is looked at: it and what leads it have arrived. -/
def State.arrived (s : State) (h : HostCmd) : State :=
  let s := s.hostCommand h.channel
  match h.lead with
  | .activate r => { s.hostCommand h.channel with host := { (s.hostCommand h.channel).host with rows := s.host.rows.put h.bankKey r } }
  | .precharge => { s.hostCommand h.channel with host := { (s.hostCommand h.channel).host with rows := s.host.rows.del h.bankKey } }
  | .stay => s

/-- Why a READ or WRITE is not performed (R458). -/
def State.hostCause (s : State) (h : HostCmd) : Option Nat :=
  if h.reserved then some 0x80
  else if h.bl32 && !s.dev.feature 0 then some 0x81
  else if (s.openRow h).isNone || s.host.down.lookD h.channel false || s.host.selfRef.lookD h.channel false then some 0x82
  else none

/-- A READ or WRITE: refused with its record, or performed on the bank's open row. A command to a bank with no open row names
no window offset. -/
def State.hostBurst (s : State) (h : HostCmd) (refused : State → State) (go : Nat → State → State) : State :=
  match s.hostCause h, s.openRow h with
  | some cause, row =>
    let quiet := (match h.lead with | .stay => s | _ => s.hostCommand h.channel).host.quietFor.lookD (quietKey cause h.channel) 0 ≠ 0
    let addr := if cause = 0x80 then 0 else (row.map h.offset).getD 0
    refused ((s.arrived h).hostFault cause h.channel quiet addr)
  | none, some row => go row (s.arrived h)
  | none, none => s.arrived h

/-! ## The window (R15, R310, R345) -/

/-- Where a burst of the window lies in port memory: port memory itself, or a ring's slot seen in the queue area. -/
def State.windowPlace (s : State) (off : Nat) : Option Nat :=
  if off < 0x100_0000 then some (portBase + off)
  else if off < 0x200_0000 then
    let q := s.queue ((off - 0x100_0000) / 0x4_0000)
    let o := off % 0x4_0000
    if (off - 0x100_0000) / 0x4_0000 < 20 && o / 64 < q.size && q.base.toNat + o / 64 * 64 + 64 ≤ 0x100_0000 then
      some (portBase + q.base.toNat + o)
    else none
  else none

def inPages (off : Nat) : Bool := 0x200_0000 ≤ off && off < 0x201_0000

/-- What a read burst returns; the home checks the line (R398, R399). (DEDUCED, log 106.) -/
def State.windowRead (s : State) (off n : Nat) : State × List Byte :=
  if inPages off then
    let t := (s.checkLine ((portBase + off) / 64) { cause := 0x26, src := 4 }).1
    (t, t.regBytes (off - 0x200_0000) n)
  else match s.windowPlace off with
    | some a =>
      let t := (s.checkLine (a / 64) { cause := 0x26, src := 4 }).1
      (t, t.bytesAt a n)
    | none => (s, List.replicate n 0)

/-- The registers that a burst covers, each written once with the bytes that the mask lets through (R313). -/
def State.pageWrite (s : State) (off : Nat) : Nat → List Byte → List Bool → State
  | 0, _, _ => s
  | n + 1, bs, ks =>
    let bm := BitVec.ofNat 8 (((ks.take 8).zipIdx.map fun k => if k.1 then 2 ^ k.2 else 0).foldl (· + ·) 0)
    let s := if bm = 0 then s else s.regWrite off (BitVec.ofNat 64 (leNat (bs.take 8))) bm
    s.pageWrite (off + 8) n (bs.drop 8) (ks.drop 8)

/-- A masked write of port memory: a line written whole loses its poison. -/
def State.maskedWrite (s : State) (a : Nat) (bs : List Byte) (ks : List Bool) : State :=
  if ks.all id then s.writeRaw a bs else { s with mem := Memory.writeMasked s.mem a bs ks }

def State.windowWrite (s : State) (off : Nat) (bs : List Byte) (ks : List Bool) : State :=
  if inPages off then
    (s.pageWrite (off - 0x200_0000) (bs.length / 8) bs ks).regLine (portBase + off) (if ks.all id then bs.length else 0) false
  else match s.windowPlace off with
    | some a => s.maskedWrite a bs ks
    | none => s

def State.returned (s : State) (bs : List Byte) : State := { s with host := { s.host with readData := bs } }

/-- HOST_READ. -/
def hostRead (h : HostCmd) (s : State) : Option State :=
  some (s.hostBurst h (fun s => s.returned (List.replicate h.bytes 0)) fun row s =>
    let r := s.windowRead (h.start row) h.bytes
    r.1.returned r.2)

/-- HOST_WRITE: performed on arrival; a byte whose mask bit is false is not written. -/
def hostWrite (h : HostCmd) (data : List Byte) (mask : List Bool) (s : State) : Option State :=
  some (s.hostBurst h id fun row s =>
    s.windowWrite (h.start row) ((data ++ List.replicate h.bytes 0).take h.bytes) ((mask ++ List.replicate h.bytes false).take h.bytes))

/-! ## Mode registers (R342; PRESUMED, log 9 for the places of their fields) -/

/-- The set point that mode register accesses go to: MR16 OP[0]. -/
def HostPort.setPoint (p : HostPort) : Nat := (p.mrs.lookD 16 0).toNat % 2

/-- What is stored of a write: the inversion fields of MR3 and a ratio other than 4:1 in MR18 are not. -/
def storedMode (n : Nat) (v : BitVec 8) : BitVec 8 := if n = 3 then v &&& 0x3F else if n = 18 then v &&& 0x7F else v

def modeStored : List Nat := [3, 10, 11, 13, 15, 16, 18, 20, 32, 40]

/-- MODE_REGISTER_WRITE. MR16 OP[2] selects the active set point. -/
def modeRegisterWrite (n : ModeReg) (v : BitVec 8) (s : State) : Option State :=
  let s := s.hostCommand n.channel
  let k := n.number.toNat
  let p := s.host
  let p :=
    if k = 1 || k = 2 then { p with mrs := p.mrs.put (k + 128 * p.setPoint) v }
    else if modeStored.contains k then { p with mrs := p.mrs.put k (storedMode k v) }
    else p
  some { s with host := if k = 16 then { p with fsp := v.getLsbD 2 } else p }

/-- MODE_REGISTER_READ. -/
def modeRegisterRead (n : ModeReg) (s : State) : Option State :=
  let s := s.hostCommand n.channel
  let k := n.number.toNat
  let p := s.host
  let v : BitVec 8 :=
    if k = 1 || k = 2 then p.mrs.lookD (k + 128 * p.setPoint) 0
    else if k = 5 then 0xE7 else if k = 6 then 0xB1 else if k = 7 then 0x01 else if k = 8 then 0x20
    else if modeStored.contains k then p.mrs.lookD k 0 else 0
  some (s.returned [v])

/-! ## Other commands (R341, R459) -/

/-- REFRESH is accepted and ignored. -/
def refresh (ch : Nat) (s : State) : Option State := some (s.hostCommand ch)

def powerDown (ch : Nat) (enter : Bool) (s : State) : Option State :=
  let s := s.hostCommand ch
  some { s with host := { s.host with down := s.host.down.put ch enter } }

def selfRefresh (ch : Nat) (enter : Bool) (s : State) : Option State :=
  let s := s.hostCommand ch
  some { s with host := { s.host with selfRef := s.host.selfRef.put ch enter } }

/-- The device does not judge training. -/
def training (ch : Nat) (s : State) : Option State := some (s.hostCommand ch)

/-- READ_DQ_CALIBRATION returns the pattern registers. -/
def readDqCalibration (ch : Nat) (s : State) : Option State :=
  let s := s.hostCommand ch
  some (s.returned ([15, 20, 32, 40].map fun n => s.host.mrs.lookD n 0))

def writeFifo (ch : Nat) (data : List Byte) (s : State) : Option State :=
  let s := s.hostCommand ch
  some { s with host := { s.host with fifo := s.host.fifo.put ch (s.host.fifo.lookD ch [] ++ data) } }

/-- READ_FIFO returns the oldest bytes of the write FIFO, a BL16 burst of them. -/
def readFifo (ch : Nat) (s : State) : Option State :=
  let s := s.hostCommand ch
  let f := s.host.fifo.lookD ch []
  let s := s.returned (f.take 32)
  some { s with host := { s.host with fifo := s.host.fifo.put ch (f.drop 32) } }

def execHostRead (h : HostCmd) (s : State) : Host.Outcome State Fault Refusal := attempt (hostRead h) s
def execHostWrite (h : HostCmd) (data : List (BitVec 8)) (mask : List Bool) (s : State) : Host.Outcome State Fault Refusal :=
  attempt (hostWrite h data mask) s
def execModeRegisterWrite (n : ModeReg) (v : BitVec 8) (s : State) : Host.Outcome State Fault Refusal :=
  attempt (modeRegisterWrite n v) s
def execModeRegisterRead (n : ModeReg) (s : State) : Host.Outcome State Fault Refusal :=
  attempt (modeRegisterRead n) s
def execRefresh (ch : Nat) (s : State) : Host.Outcome State Fault Refusal := attempt (refresh ch) s
def execPowerDown (ch : Nat) (enter : Bool) (s : State) : Host.Outcome State Fault Refusal := attempt (powerDown ch enter) s
def execSelfRefresh (ch : Nat) (enter : Bool) (s : State) : Host.Outcome State Fault Refusal := attempt (selfRefresh ch enter) s
def execCommandBusTraining (ch : Nat) (s : State) : Host.Outcome State Fault Refusal := attempt (training ch) s
def execWck2ckLevelling (ch : Nat) (s : State) : Host.Outcome State Fault Refusal := attempt (training ch) s
def execReadDqCalibration (ch : Nat) (s : State) : Host.Outcome State Fault Refusal := attempt (readDqCalibration ch) s
def execWriteFifo (ch : Nat) (data : List (BitVec 8)) (s : State) : Host.Outcome State Fault Refusal :=
  attempt (writeFifo ch data) s
def execReadFifo (ch : Nat) (s : State) : Host.Outcome State Fault Refusal := attempt (readFifo ch) s

end Sys2Proof.Machine
end

