-- ==== Sys2Proof/Machine/Links.lean ====
section
/-! DEFINITION. The die links (R66, R67, R328, R331, R348 to R350, R450, R460, R461): rounds, flits and credits, retrains,
and the loss of a link. -/

namespace Sys2Proof.Machine

/-! ## Flits in their 256 bytes (R348) -/

/-- The access that a flit carries, or answers. -/
def State.flitAccess (s : State) (f : Flight) : Option Access :=
  match f.what with
  | .token _ _ _ _ _ _ => none
  | .request id | .response id => s.accesses.find? fun a => a.id = id

/-- The home that a request goes to, or the core that a token or a response goes to. The home of a DRAM request is named
as its die's staging buffer is (DESIGN CHOICE, log 80). -/
def State.flitDest (s : State) (f : Flight) : Nat :=
  match f.what with
  | .token _ c _ _ _ _ => c
  | .response _ => ((s.flitAccess f).map (·.client.core)).getD 0
  | .request _ => match ((s.flitAccess f).bind (·.place)).bind fun p => homeOf p.1 with
    | some (.dram d) | some (.staging d) => 0xF0 + d
    | some (.sbuf c) | some (.cpMem c) => c
    | _ => 0xFF

/-- The valid bytes of a flit's payload: a token in memory form, what is written, what was read. -/
def State.flitPayload (s : State) (f : Flight) : List Byte :=
  match f.what with
  | .token _ _ _ _ _ t => leBytes t.word 8
  | .request _ => ((s.flitAccess f).map (·.data)).getD []
  | .response _ => match (s.flitAccess f).bind (·.got) with
    | some (.bytes bs _) => bs
    | _ => []

/-- A ring channel on its receiving core: the context and the buffer allocation of its ring (DESIGN CHOICE, log 80). -/
def ringChan (x b : Nat) : Nat := x * 16 + b

/-- The ring channel or the copy that a flit belongs to. -/
def State.flitChan (s : State) (f : Flight) : Nat :=
  match f.what with
  | .token _ _ x b _ _ => ringChan x b
  | .request _ | .response _ => match s.flitAccess f with
    | some a => (match a.client with | .piece _ _ k => k % 4096 | _ => 0)
    | none => 0

/-- A flit: its header's two words, CRET in the second, and 240 bytes of payload. -/
def flitOf (cls dest chan strm cret : Nat) (payload : List Byte) : List Byte :=
  leBytes (cls * 2 ^ 60 + min 30 ((payload.length + 7) / 8) * 2 ^ 52 + dest % 256 * 2 ^ 44 + chan % 4096 * 2 ^ 32
      + strm % 32 * 2 ^ 27) 8
    ++ leBytes (cret % 2 ^ 48) 8 ++ (payload ++ List.replicate 240 0).take 240

def State.flit (s : State) (f : Flight) (cret : Nat) : List Byte :=
  flitOf (f.cls % 4) (s.flitDest f) (s.flitChan f) ((s.payerStream f.payer).getD 16) cret (s.flitPayload f)

/-- CRET as a flit's receiver reads it. -/
def cretOf (flit : List Byte) : Nat := leNat ((flit.drop 8).take 6)

/-! ## Order (R66, R67, R349, R461) -/

/-- The die that a hop leads to, or comes from. -/
def hopEnd (h : Nat × Bool) : Nat := if h.1 < 4 then (if h.2 then h.1 else (h.1 + 1) % 4) else if h.2 then 4 else h.1 - 4
def hopStart (h : Nat × Bool) : Nat := hopEnd (h.1, !h.2)

/-- The cargo of a token's channel and its number there. -/
def Flight.channel (f : Flight) : Option (Nat × Nat × Nat × Nat) :=
  match f.what with
  | .token _ c x b no _ => some (c, x, b, no)
  | _ => none

/-- The die that a flit comes from, and the one that it goes to. -/
def Flight.ends (f : Flight) : Nat × Option Nat := (dieOf f.core, f.hops.getLast?.map hopEnd)

/-- Must g arrive before f: an older token of its ring channel, or a flit of its class between the same dies that was sent
before it and that the loss of a link has turned? -/
def Flight.before (g f : Flight) : Bool :=
  match g.channel, f.channel with
  | some (d, y, e, n), some (c, x, b, no) => c = d && x = y && b = e && n < no
  | _, _ => g.turned && g.cls = f.cls && g.ends = f.ends && g.sent ≠ 0 && (f.sent = 0 || g.sent < f.sent)

/-- Is a flit held at its next link, so that one which must arrive before it is never passed? What is ahead on the same way
stays ahead: there the flits of a class keep their order. What goes another way is waited for. -/
def State.behind (s : State) (f : Flight) : Bool :=
  s.flights.any (fun g => g.before f && !g.hops.isSuffixOf (f.hops.drop 1))
    || s.links.any fun l => l.2.buffers.any fun q => q.2.any fun g => g.before f && !g.hops.isSuffixOf f.hops

/-! ## Standing of a flit (R328, R331) -/

/-- Has a flit been deferred in a period that is over? -/
def State.carriedFlit (s : State) (f : Flight) : Bool := f.deferred.any (· ≠ s.payPeriod f.payer)

/-- How a flit stands at a link: it waits for an older token, for a credit, and for what its payer has carried over. -/
def State.flitStanding (s : State) (h : Nat × Bool) (f : Flight) : Standing :=
  if s.behind f || (!f.credit && (s.link h.1).creditsOf (linkKey f.cls h.2) = 0) then .wait
  else if f.payer ≠ .background && !s.carriedFlit f
      && s.flights.any (fun g => g.payer = f.payer && g.hops.head? = some h && s.carriedFlit g) then .wait
  else s.standingOf f.payer 1 f.deferred

/-- Flits that wait to cross a link in a direction. -/
def State.waitingFlits (s : State) (h : Nat × Bool) : List Flight := s.flights.filter fun f => f.hops.head? = some h

/-- Does a receiver have credits to return for flits of a direction? -/
def Link.owes (k : Link) (down : Bool) : Bool := (List.range 4).any fun c => k.owed.lookD (linkKey c down) 0 ≠ 0

/-- The credits owed for flits of a direction as CRET names them: class k in bits [6k+5:6k] (R348, R349). -/
def Link.cret (k : Link) (down : Bool) : Nat :=
  ((List.range 4).map fun c => min 63 (k.owed.lookD (linkKey c down) 0) * 2 ^ (6 * c)).sum

/-- Credits of CRET returned to the sender of a direction's flits. -/
def Link.giveBack (k : Link) (down : Bool) (cret : Nat) : Link :=
  (List.range 4).foldl (fun k c =>
    let key := linkKey c down
    let n := cret / 2 ^ (6 * c) % 64
    if n = 0 then k
    else
      let left := k.owed.lookD key 0 - n
      { k with credits := k.credits.put key (k.creditsOf key + n)
               owed := if left = 0 then k.owed.del key else k.owed.put key left }) k

/-- The return of ring slots that a flit over a link takes along: [23:12] its channel, [11:0] its units (R350). -/
def State.slotCret (s : State) (h : Nat × Bool) : Nat :=
  match s.slotReturns.find? fun r => r.hops.head? = some h with
  | none => 0
  | some r => ringChan r.ctx r.buf % 4096 * 4096 + min 4095 r.units

/-- CRET of the next flit over a link: the credits owed for the other direction, then one return of ring slots. -/
def State.cret (s : State) (h : Nat × Bool) : Nat := (s.link h.1).cret (!h.2) + s.slotCret h * 2 ^ 24

/-- A return of ring slots as it comes over a link: it goes on, or has come to the ring's sender. -/
def State.takeSlots (s : State) (h : Nat × Bool) (ret : Nat) : State :=
  if ret % 4096 = 0 then s
  else match s.slotReturns.find? fun r => r.hops.head? = some h && ringChan r.ctx r.buf % 4096 = ret / 4096 with
    | none => s
    | some r =>
      let rest := s.slotReturns.erase r
      let next := { r with hops := r.hops.drop 1, units := ret % 4096 }
      if next.hops.isEmpty then { s with slotReturns := rest }.slotsBack next else { s with slotReturns := rest ++ [next] }

/-- A flit crosses a link: its CRET gives back the credits of the other direction, and ring slots (R349, R350). -/
def State.carry (s : State) (h : Nat × Bool) (flit : List Byte) : State :=
  (s.updLink h.1 fun k => { k.giveBack (!h.2) (cretOf flit) with wire := k.wire.put (if h.2 then 1 else 0) flit }).takeSlots h
    (cretOf flit / 2 ^ 24)

/-- A flit sent: it spends a credit unless it holds one, is charged, and stands in the receiver's buffer.
(DEDUCED, log 26.) -/
def State.sendFlit (s : State) (h : Nat × Bool) (f : Flight) : State :=
  let key := linkKey f.cls h.2
  let flit := s.flit f (s.cret h)
  let s := { s with flights := s.flights.erase f, nextId := s.nextId + 1 }.chargeTo f.payer 1 f.units
  let g := { f with deferred := none, credit := false, sent := if f.sent = 0 then s.nextId else f.sent }
  (s.updLink h.1 fun k =>
    { k with
      credits := if f.credit then k.credits else k.credits.put key (k.creditsOf key - 1)
      buffers := k.buffers.put key (k.buffers.lookD key [] ++ [g]) }).carry h flit

/-- A flit found over budget is deferred and counted once in the period; it holds its credit (R328, R350). -/
def State.deferFlit (s : State) (h : Nat × Bool) (f : Flight) : State :=
  let key := linkKey f.cls h.2
  let s := if f.credit then s else s.updLink h.1 fun k => { k with credits := k.credits.put key (k.creditsOf key - 1) }
  { s with
    nextId := s.nextId + 1
    flights := s.flights.map fun g =>
      if g = f then { f with deferred := some (s.payPeriod f.payer), deferNo := s.nextId, credit := true } else g }.countDeferOf f.payer

/-- What a link's round has come to: the state, the sending cores of the flits sent, and the sources that a deferral has
stopped (R328; DEDUCED, log 79). -/
structure LinkRound where
  st : State
  sent : List Nat := []
  stopped : List (Nat × Nat × Payer) := []

/-- A flit's turn in a round: its core sends no more than its quota, and its budget is checked now. -/
def LinkRound.turn (h : Nat × Bool) (r : LinkRound) (f : Flight) : LinkRound :=
  if (r.sent.filter (· = f.core)).length ≥ r.st.quotaOf f.payer || r.stopped.contains (f.core, f.src, f.payer) then r
  else match r.st.flitStanding h f with
    | .go => { r with st := r.st.sendFlit h f, sent := f.core :: r.sent }
    | .defer => { r with st := r.st.deferFlit h f, stopped := (f.core, f.src, f.payer) :: r.stopped }
    | .wait => r

/-- The order of a rank's flits in a round: by sending core, the port die last, and within one core in the order of its
sources; of each stream those deferred before come first, in the order in which they were (R329, R331). -/
def State.linkOrder (s : State) (l : List Flight) : List Flight :=
  carriedFirst (fun f => s.payerStream f.payer) (sortOn (fun f => f.core * 4096 + f.src) l)
    (sortOn (·.deferNo) (l.filter fun f => f.deferred.isSome))

/-- LINK_ARBITRATION_ROUND: one round of a link's direction. -/
def linkArbitrationRound (l : Nat) (down : Bool) (s : State) : Option State :=
  let h := (l, down)
  if (s.link l).down then none
  else
    let w := s.waitingFlits h
    let real := w.filter fun f => (s.payerStream f.payer).isSome
    let back := w.filter fun f => (s.payerStream f.payer).isNone
    let list := if real.any fun f => s.flitStanding h f = .go then s.linkOrder real else s.linkOrder real ++ s.linkOrder back
    if list.all fun f => s.flitStanding h f = .wait then none
    else some (list.foldl (LinkRound.turn h) { st := s }).st

/-! ## Receiving (R349) -/

/-- The way round a link that is down (R461). -/
def State.wayRound (s : State) (hops : List (Nat × Bool)) : List (Nat × Bool) :=
  if !hops.any fun h => (s.link h.1).down then hops
  else match hops.head?, hops.getLast? with
    | some a, some b => s.route (hopStart a) (hopEnd b)
    | _, _ => hops

/-- Cargo at its last die: a token enters its ring while its allocation still has it, an access reaches its home or its
core. -/
def State.arrive (s : State) (f : Flight) : State :=
  match f.what with
  | .token a c x b _ t => if (s.ctx? c x).any fun k => k.alloc = a then s.ringPush c x b t else s
  | .request id | .response id => s.updAccess id fun a => { a with crossing := false }

/-- FLIT_RECEIVE: the oldest flit of a class leaves its buffer, and its credit is owed. -/
def flitReceive (l : Nat) (down : Bool) (cls : Nat) (s : State) : Option State :=
  let key := linkKey (cls % 4) down
  match (s.link l).buffers.lookD key [] with
  | [] => none
  | f :: fs =>
    let s := s.updLink l fun k =>
      { k with buffers := k.buffers.put key fs, owed := k.owed.put key (k.owed.lookD key 0 + 1) }
    let f := { f with hops := f.hops.drop 1 }
    some (if f.hops.isEmpty then s.arrive f
      else { s with flights := s.flights ++ [{ f with hops := s.wayRound f.hops }] })

/-- CREDIT_FLIT: a flit of a direction that only returns credits and ring slots: class 4 without payload, its other fields
those of the background class to no core (DESIGN CHOICE, log 80). -/
def creditFlit (l : Nat) (down : Bool) (s : State) : Option State :=
  if ((s.link l).owes (!down) || s.slotReturns.any fun r => r.hops.head? = some (l, down)) && !(s.link l).down then
    some (s.carry (l, down) (flitOf 4 0 0 16 (s.cret (l, down)) []))
  else none

/-! ## Retrain and loss (R460, R461) -/

def linkRecord (cause l : Nat) : FaultRec := { cause := BitVec.ofNat 8 cause, src := 5, unit := BitVec.ofNat 8 l }

/-- LINKRETRAIN: the link has retrained, and nothing is lost. -/
def linkRetrain (l : Nat) (s : State) : Option State :=
  if (s.link l).down || !s.dev.campionUp then none else some (s.report (linkRecord 0x83 l))

/-- The allocation whose work a flit is. -/
def State.flightAlloc (s : State) (f : Flight) : Option Nat :=
  match f.what with
  | .request id | .response id => (s.accesses.find? fun a => a.id = id).map (·.alloc)
  | .token a _ _ _ _ _ => some a

/-- A flit lost with its link: an access that it carried, or whose response it was, is resolved with the link's fault. -/
def State.loseFlit (s : State) (f : Flight) : State :=
  match f.what with
  | .request id | .response id => s.updAccess id fun a => { a with crossing := false, got := none, fault := some 0x84 }
  | .token _ _ _ _ _ _ => s

/-- A flit turned by the loss of a link. -/
def State.turnFlight (s : State) (f : Flight) : Flight :=
  let way := s.wayRound f.hops
  { f with hops := way, credit := f.credit && way = f.hops, turned := f.turned || way ≠ f.hops }

/-- The same for a flit in a receiver's buffer, which has crossed its first link. -/
def State.turnBuffered (s : State) (f : Flight) : Flight :=
  let g := s.turnFlight { f with hops := f.hops.drop 1 }
  { g with hops := f.hops.take 1 ++ g.hops }

def State.turnReturn (s : State) (r : SlotReturn) : SlotReturn := { r with hops := s.wayRound r.hops }

def State.turnBuffers (s : State) (k : Link) : Link := { k with buffers := k.buffers.mapVal fun _ q => q.map s.turnBuffered }

/-- Does a flit's way still cross a link that is down? -/
def State.stranded (s : State) (f : Flight) : Bool := f.hops.any fun h => (s.link h.1).down

/-- The credit that a flit held of a link which it no longer crosses goes back. -/
def State.keepCredit (s : State) (f : Flight) : State :=
  match f.hops with
  | h :: _ => s.updLink h.1 fun k =>
      let key := linkKey f.cls h.2
      { k with credits := k.credits.put key (k.creditsOf key + 1) }
  | [] => s

/-- The FATAL record of an allocation that a link's loss aborts (R461). -/
def State.linkFatal (s : State) (l a : Nat) : FaultRec :=
  let m := s.strmOf a
  { linkRecord 0x84 l with alloc := BitVec.ofNat 8 a, strm := BitVec.ofNat 8 m, fatal := true,
                           slot := if m < 16 then (s.stream m).view.slot else 0 }

/-- LINKDOWN: the third retrain in succession has failed. What was in the link's buffers is lost, and what waits for it
takes the other way round; where there is none it is lost too. (DEDUCED, log 38.) -/
def linkDown (l : Nat) (s : State) : Option State :=
  let k := s.link l
  if k.down || l > 7 || !s.dev.campionUp then none
  else
    let lost := k.buffers.flatMap (·.2)
    let cut (a : Alloc) : Bool := l ≥ 4 && a.members.any fun m => dieOf m.core = l - 4
    let hit := (s.allocs.filter fun a => a.2.st ≠ .ended
      && (cut a.2 || lost.any fun f => s.flightAlloc f = some a.1)).map (·.1)
    let s := (s.updLink l fun k => { k with down := true, buffers := [], owed := [] }).report (linkRecord 0x84 l)
    let s := lost.foldl State.loseFlit s
    let s := hit.foldl (fun s a => (s.report (s.linkFatal l a)).abortLive a) s
    let s := (s.flights.filter fun f => f.credit && s.wayRound f.hops ≠ f.hops).foldl State.keepCredit s
    let s := { s with
      flights := s.flights.map s.turnFlight
      slotReturns := s.slotReturns.map s.turnReturn
      links := s.links.mapVal fun _ k => s.turnBuffers k }
    some { (s.flights.filter s.stranded).foldl State.loseFlit s with flights := s.flights.filter fun f => !s.stranded f }

def execFlitReceive (l : Nat) (down : Bool) (cls : Nat) (s : State) : Host.Outcome State Fault Refusal :=
  attempt (flitReceive l down cls) s
def execCreditFlit (l : Nat) (down : Bool) (s : State) : Host.Outcome State Fault Refusal := attempt (creditFlit l down) s
def execLinkretrain (l : Nat) (s : State) : Host.Outcome State Fault Refusal := attempt (linkRetrain l) s
def execLinkdown (l : Nat) (s : State) : Host.Outcome State Fault Refusal := attempt (linkDown l) s
def execLinkArbitrationRound (l : Nat) (down : Bool) (s : State) : Host.Outcome State Fault Refusal :=
  attempt (linkArbitrationRound l down) s

end Sys2Proof.Machine
end

