-- ==== Sys2Proof/Machine/Boot.lean ====
section
/-! DEFINITION. Start-up (R351, R352, R353, R355, R464), power and temperature (R339, R359, R360, R466). -/

namespace Sys2Proof.Machine

/-! ## Starts (R351, R352, R464) -/

/-- A failed start. (DEDUCED, log 103.) -/
def State.failStart (s : State) (reason : BitVec 8) (detail : BitVec 4) : State :=
  let tries := s.dev.tries + 1
  let target : BootState := if s.dev.fromMinimal || 3 ≤ tries.toNat then .minimal else .waitfw
  (s.updDev fun d => { d with reason, tries, detail, fromMinimal := false }).enterBoot target

/-- POWER_ON: the boot ROM brings up the host port and the security complex; what a device is made with stays.
(DEDUCED, log 104.) -/
def powerOn (s : State) : Option State :=
  let t := { State.reset with acts := s.acts, coresReset := s.acts, agenda := s.agenda, turn := s.turn, feat0 := s.feat0 }
  some (if Config.fusesReadable then t else t.failStart 0x20 0)

/-- The firmware bundle as it stands in port memory: its reason for refusal, or its parts (R352). -/
def State.bundle (s : State) : Except (BitVec 8) (W32 × List Byte × List Byte) :=
  let head := s.bytesAt portBase 64
  let clen := fieldAt head 0x0C 4
  let slen := fieldAt head 0x10 4
  let total := 0x40 + clen + slen + 1952 + 3309
  if fieldAt head 0 8 ≠ 0x3142_5A4C_4752_4C || clen % 64 ≠ 0 || slen % 64 ≠ 0 then .error 0x01
  else if total > 0x100_0000 then .error 0x02
  else
    let campion := s.bytesAt (portBase + 0x40) clen
    let strip := s.bytesAt (portBase + 0x40 + clen) slen
    let key := s.bytesAt (portBase + 0x40 + clen + slen) 1952
    let sig := s.bytesAt (portBase + 0x40 + clen + slen + 1952) 3309
    if !Config.fusesReadable || Config.shake256 key 32 ≠ Config.fusedKeyHash then .error 0x03
    else if !Config.mldsaVerify key (hashBytes (head ++ campion ++ strip) 64) sig then .error 0x04
    else if fieldAt head 8 4 < Config.fusedMinSvn then .error 0x05
    else .ok (BitVec.ofNat 32 (fieldAt head 8 4), campion, strip)

/-- BUNDLE_VERIFY. -/
def bundleVerify (s : State) : Option State :=
  if s.dev.boot ≠ .verify then none
  else match s.bundle with
    | .error reason => some (s.failStart reason 0)
    | .ok (svn, campion, strip) =>
      some ((s.updDev fun d => { d with svn, fwhash := hashBytes campion 32, striphash := hashBytes strip 32 }).enterBoot .init)

/-- Every tagged granule holds zero under generation 0 (R351). -/
def State.clearTagged (s : State) : State :=
  { s with mem := s.mem.filter fun e => !taggedAt e.1, gran := s.gran.filter fun g => !taggedAt (g.1 * 64) }

/-- Campion has finished: the cores, the links and Teasel are as after reset, and the device is READY. -/
def State.becomeReady (s : State) : State :=
  let s := { s.clearTagged with cores := [], coresReset := s.acts, dies := [], links := [] }
  (s.updDev fun d =>
    { d with
      featd := Config.featd &&& 0x1F, tries := 0, reason := 0, detail := 0, fromMinimal := false }).enterBoot .ready

/-- INIT_COMPLETE. -/
def initComplete (res : InitResult) (s : State) : Option State :=
  if s.dev.boot ≠ .init then none
  else some (match res with
    | .ready => s.becomeReady
    | .stripRefused => s.failStart 0x11 0
    | .linkFail l => s.failStart 0x12 (BitVec.ofNat 4 l)
    | .dramFail d => s.failStart 0x13 (BitVec.ofNat 4 (d % 4))
    | .memError => s.failStart 0x14 0)

/-- CAMPION_TIMEOUT. -/
def campionTimeout (s : State) : Option State := if s.dev.boot = .init then some (s.failStart 0x10 0) else none

/-! ## The ladder (R339, R359, R360, R466) -/

/-- The cap that a register value means (R346). -/
def capOf (v : BitVec 16) : Nat := if v.toNat = 0 || v.toNat > 600 then 600 else v.toNat

/-- One estimate: the ladder moves by one step at most. -/
def Dev.estimate (d : Dev) (est : W32) (temps : List (BitVec 8)) : Dev :=
  let cap := capOf d.pwrcap
  let hot := temps.any fun t => d.tlim.toInt ≤ t.toInt
  let cool := temps.all fun t => t.toInt + 5 ≤ d.tlim.toInt
  let low := if est.toNat * 100 < cap * 95 then d.lowRun + 1 else 0
  let up := hot || est.toNat > cap
  let down := !up && low ≥ 4 && cool && d.pstep ≠ 0
  let step := if up then min (d.pstep + 1) 9 else if down then d.pstep - 1 else d.pstep
  { d with
    est, temps, capNow := BitVec.ofNat 16 cap, pstep := step, lowRun := if down then 0 else low
    irqPwr := d.irqPwr || (d.pstep < 6 && 6 ≤ step)
    capRec := step = 9 && d.capRec, tempRec := step = 9 && d.tempRec }

/-- POWER_ESTIMATE: at step 9 the remaining excess is reported once. (DESIGN CHOICE, log 11.) (DEDUCED, log 105.) -/
def powerEstimate (est : W32) (temps : List (BitVec 8)) (s : State) : Option State :=
  let temps := (temps ++ List.replicate 5 0).take 5
  let top := s.dev.pstep = 9
  let cap := top && est.toNat > capOf s.dev.pwrcap && !s.dev.capRec
  let hot := top && (temps.any fun t => s.dev.tlim.toInt ≤ t.toInt) && !s.dev.tempRec
  let s := s.updDev fun d => d.estimate est temps
  let s := if cap then (s.updDev fun d => { d with capRec := true }).report { cause := 0x8C, src := 7 } else s
  let s := if hot then (s.updDev fun d => { d with tempRec := true }).report { cause := 0x8D, src := 7 } else s
  some s.updIrq

/-- THERMAL_TRIP: the compute dies and Campion are held in reset; every allocation is lost without a word.
(DEDUCED, log 39.) -/
def thermalTrip (s : State) : Option State :=
  if !(s.dev.temps.any fun t => 125 ≤ t.toInt) || (s.dev.boot = .minimal && s.dev.reason = 0x30) then none
  else
    let dev : Dev := { reason := 0x30, tries := s.dev.tries, temps := s.dev.temps, tlim := s.dev.tlim, seq := s.dev.seq }
    let t : State :=
      { s with
        cores := [], allocs := [], streams := [], queues := [], dies := [], links := [], accesses := [], teasel := {}
        eventMsgs := [], flights := [], slotReturns := [], faultQ := [], frozen := [], oncePages := [], dev, coresReset := s.acts }
    some (t.enterBoot .minimal)

def execPowerEstimate (est : BitVec 32) (temps : List (BitVec 8)) (s : State) : Host.Outcome State Fault Refusal :=
  attempt (powerEstimate est temps) s
def execThermalTrip (s : State) : Host.Outcome State Fault Refusal := attempt thermalTrip s
def execPowerOn (s : State) : Host.Outcome State Fault Refusal := attempt powerOn s
def execBundleVerify (s : State) : Host.Outcome State Fault Refusal := attempt bundleVerify s
def execInitComplete (res : InitResult) (s : State) : Host.Outcome State Fault Refusal := attempt (initComplete res) s
def execCampionTimeout (s : State) : Host.Outcome State Fault Refusal := attempt campionTimeout s

end Sys2Proof.Machine
end

