-- ==== Sys2Proof/Machine/CpFloat.lean ====
section
/-! DEFINITION. The F32 instructions of the control processor (R234 to R237). Each reads A[31:0] and B[31:0], rounds
once by FPCTL as it stood when the block began, and leaves [63:32] zero; CSRW changes FPCTL only at commit, so the
context's FPCTL is that value. -/

namespace Sys2Proof.Machine

def lowWord (a : Word) : Nat := a.toNat % 2 ^ 32

/-- An F32 instruction of two operands, and of one. -/
def fireF2 (p : Pred) (t0 t1 : Target) (s : State) (f : FCtl → Nat → Nat → Nat) : Host.Outcome State Fault Refusal :=
  fireResult p t0 t1 s fun h => h.ab.map fun o => BitVec.ofNat 64 (f h.ctx.fctl (lowWord o.1) (lowWord o.2))

def fireF1 (p : Pred) (t0 t1 : Target) (s : State) (f : FCtl → Nat → Nat) : Host.Outcome State Fault Refusal :=
  fireResult p t0 t1 s fun h => h.a.map fun a => BitVec.ofNat 64 (f h.ctx.fctl (lowWord a))

def execFadd (p : Pred) (t0 t1 : Target) (s : State) : Host.Outcome State Fault Refusal :=
  fireF2 p t0 t1 s fAdd

def execFsub (p : Pred) (t0 t1 : Target) (s : State) : Host.Outcome State Fault Refusal :=
  fireF2 p t0 t1 s fSub

def execFmul (p : Pred) (t0 t1 : Target) (s : State) : Host.Outcome State Fault Refusal :=
  fireF2 p t0 t1 s fMul

def execFdiv (p : Pred) (t0 t1 : Target) (s : State) : Host.Outcome State Fault Refusal :=
  fireF2 p t0 t1 s fDiv

def execFmin (p : Pred) (t0 t1 : Target) (s : State) : Host.Outcome State Fault Refusal :=
  fireF2 p t0 t1 s fMin

def execFmax (p : Pred) (t0 t1 : Target) (s : State) : Host.Outcome State Fault Refusal :=
  fireF2 p t0 t1 s fMax

def execFsqrt (p : Pred) (t0 t1 : Target) (s : State) : Host.Outcome State Fault Refusal :=
  fireF1 p t0 t1 s fSqrt

/-- FABS and FNEG change bit 31 alone, of a NaN too, and apply neither DAZ nor FTZ (R235). -/
def execFabs (p : Pred) (t0 t1 : Target) (s : State) : Host.Outcome State Fault Refusal :=
  fireF1 p t0 t1 s fun _ a => a % 2 ^ 31

def execFneg (p : Pred) (t0 t1 : Target) (s : State) : Host.Outcome State Fault Refusal :=
  fireF1 p t0 t1 s fun _ a => (a + 2 ^ 31) % 2 ^ 32

def execFcmpEq (p : Pred) (t0 t1 : Target) (s : State) : Host.Outcome State Fault Refusal :=
  fireF2 p t0 t1 s fun c => fCmp c .eq

def execFcmpLt (p : Pred) (t0 t1 : Target) (s : State) : Host.Outcome State Fault Refusal :=
  fireF2 p t0 t1 s fun c => fCmp c .lt

def execFcmpLe (p : Pred) (t0 t1 : Target) (s : State) : Host.Outcome State Fault Refusal :=
  fireF2 p t0 t1 s fun c => fCmp c .le

def execFcmpUn (p : Pred) (t0 t1 : Target) (s : State) : Host.Outcome State Fault Refusal :=
  fireF2 p t0 t1 s fun c => fCmp c .un

/-- Conversions to integers round by RND, saturate, and give 0 for NaN (R237). -/
def execFcvtS32F (p : Pred) (t0 t1 : Target) (s : State) : Host.Outcome State Fault Refusal :=
  fireResult p t0 t1 s fun h => h.a.map fun a =>
    wordOf (toInt h.ctx.rnd.toNat (h.ctx.fctl.src f32 (lowWord a)) (-2147483648) 2147483647)

def execFcvtS64F (p : Pred) (t0 t1 : Target) (s : State) : Host.Outcome State Fault Refusal :=
  fireResult p t0 t1 s fun h => h.a.map fun a =>
    wordOf (toInt h.ctx.rnd.toNat (h.ctx.fctl.src f32 (lowWord a)) (-9223372036854775808) 9223372036854775807)

def execFcvtFS32 (p : Pred) (t0 t1 : Target) (s : State) : Host.Outcome State Fault Refusal :=
  fireF1 p t0 t1 s fun c a => fFromInt c (signedOf a 32)

def execFcvtFS64 (p : Pred) (t0 t1 : Target) (s : State) : Host.Outcome State Fault Refusal :=
  fireResult p t0 t1 s fun h => h.a.map fun a =>
    BitVec.ofNat 64 (fFromInt h.ctx.fctl (signedOf a.toNat 64))

def execFcvtFN64 (p : Pred) (t0 t1 : Target) (s : State) : Host.Outcome State Fault Refusal :=
  fireResult p t0 t1 s fun h => h.a.map fun a => BitVec.ofNat 64 (fFromInt h.ctx.fctl a.toNat)

def execFcvtBf16F (p : Pred) (t0 t1 : Target) (s : State) : Host.Outcome State Fault Refusal :=
  fireF1 p t0 t1 s fun c => fNarrow c bf16

def execFcvtFBf16 (p : Pred) (t0 t1 : Target) (s : State) : Host.Outcome State Fault Refusal :=
  fireF1 p t0 t1 s fun c a => fWiden c bf16 (a % 2 ^ 16)

def execFcvtFp16F (p : Pred) (t0 t1 : Target) (s : State) : Host.Outcome State Fault Refusal :=
  fireF1 p t0 t1 s fun c => fNarrow c fp16

def execFcvtFFp16 (p : Pred) (t0 t1 : Target) (s : State) : Host.Outcome State Fault Refusal :=
  fireF1 p t0 t1 s fun c a => fWiden c fp16 (a % 2 ^ 16)

end Sys2Proof.Machine
end

