-- ==== Sys2Proof/Machine/ElemRows.lean ====
section
/-! DEFINITION. The meaning of each element operation: a step of element e of core c under that operation's rule
(Machine/ElemOps.lean, Machine/ElemFire.lean). -/

namespace Sys2Proof.Machine

/-- PASS: Element forwards A on F4 and F5. (R280). -/
def execPass (c e : Nat) (s : State) : Host.Outcome State Fault Refusal :=
  attempt (fireElem (isOp 0x00) [firePass] c e) s

/-- STEER: Element forwards A on F4 or F5 by b[0], with an optional direction stream limited by credits. (R281). -/
def execSteer (c e : Nat) (s : State) : Host.Outcome State Fault Refusal :=
  attempt (fireElem (fun g => g.op = 0x01 && g.variant = 0) [fireSteer] c e) s

/-- LOOP_EXIT_STEER: A STEER of VARIANT 1 decides each iteration in issue order, sending commit pulses or SQUASH tokens. (R283). -/
def execLoopExitSteer (c e : Nat) (s : State) : Host.Outcome State Fault Refusal :=
  attempt (fireElem Cfg.isLoopExit [fireLoopExit] c e) s

/-- SWCH: Element sends A on one of up to eight ways, with optional sequence numbers and free-slot counts. (R284). -/
def execSwch (c e : Nat) (s : State) : Host.Outcome State Fault Refusal :=
  attempt (fireElem (isOp 0x02) [fireSwch] c e) s

/-- MERGE: Element takes the arm named by the next direction token and returns a credit pulse. (R282). -/
def execMerge (c e : Nat) (s : State) : Host.Outcome State Fault Refusal :=
  attempt (fireElem (isOp 0x03) [fireMerge] c e) s

/-- AMRG: Element forwards DATA from its inputs in round-robin arrival order. (R282). -/
def execAmrg (c e : Nat) (s : State) : Host.Outcome State Fault Refusal :=
  attempt (fireElem (isOp 0x04) [fireAmrg] c e) s

/-- FILT: Element forwards or drops A by b[0]. (R280). -/
def execFilt (c e : Nat) (s : State) : Host.Outcome State Fault Refusal :=
  attempt (fireElem (isOp 0x05) [fireFilt] c e) s

/-- EXPD: Element forwards A when b[0] is 1, and otherwise emits a zero token. (R280). -/
def execExpd (c e : Nat) (s : State) : Host.Outcome State Fault Refusal :=
  attempt (fireElem (isOp 0x06) [fireExpd] c e) s

/-- REP: Element emits A n times. (R280). -/
def execRep (c e : Nat) (s : State) : Host.Outcome State Fault Refusal :=
  attempt (fireElem (isOp 0x07) [fireRep] c e) s

/-- CNT: Element runs as a controller node or a leaf counter, emitting iteration values. (R286). -/
def execCnt (c e : Nat) (s : State) : Host.Outcome State Fault Refusal :=
  attempt (fireElem (isOp 0x08) [fireCnt, fireCntDiscard] c e) s

/-- GATE: Element passes A while it holds grants from enable pulses. (R280). -/
def execGate (c e : Nat) (s : State) : Host.Outcome State Fault Refusal :=
  attempt (fireElem (isOp 0x09) [fireGate] c e) s

/-- TAGA: Element takes the lowest free tag for a new thread, or returns a tag to the pool from input B. (R288). -/
def execTaga (c e : Nat) (s : State) : Host.Outcome State Fault Refusal :=
  attempt (fireElem (isOp 0x0A) [fireTaga] c e) s

/-- TAGF: Element counts a thread's tokens and sends its tag back when the thread completes. (R288). -/
def execTagf (c e : Nat) (s : State) : Host.Outcome State Fault Refusal :=
  attempt (fireElem (isOp 0x0B) [fireTagf] c e) s

/-- REORD: Element releases tokens in the order of their SIDE sequence numbers from its window. (R285). -/
def execReord (c e : Nat) (s : State) : Host.Outcome State Fault Refusal :=
  attempt (fireElem (isOp 0x0C) [fireReord] c e) s

/-- JOIN: Element forwards A and B once every configured input is present. (R280). -/
def execJoin (c e : Nat) (s : State) : Host.Outcome State Fault Refusal :=
  attempt (fireElem (isOp 0x0D) [fireJoin] c e) s

/-- CONST: Element emits constant 0 in runs or continuously. (R280). -/
def execConst (c e : Nat) (s : State) : Host.Outcome State Fault Refusal :=
  attempt (fireElem (isOp 0x0E) [fireConst] c e) s

/-- IADD: Element integer addition per subword, with optional saturation. (R289). -/
def execIadd (c e : Nat) (s : State) : Host.Outcome State Fault Refusal :=
  attempt (fireElem (isOp 0x10) [fireInt] c e) s

/-- ISUB: Element integer subtraction. (R289). -/
def execIsub (c e : Nat) (s : State) : Host.Outcome State Fault Refusal :=
  attempt (fireElem (isOp 0x11) [fireInt] c e) s

/-- IMUL: Element integer multiplication. (R289). -/
def execImul (c e : Nat) (s : State) : Host.Outcome State Fault Refusal :=
  attempt (fireElem (isOp 0x12) [fireInt] c e) s

/-- IMAC: Element integer multiply-add. (R289). -/
def execImac (c e : Nat) (s : State) : Host.Outcome State Fault Refusal :=
  attempt (fireElem (isOp 0x13) [fireInt] c e) s

/-- IAND: Element bitwise and. (R289). -/
def execIand (c e : Nat) (s : State) : Host.Outcome State Fault Refusal :=
  attempt (fireElem (isOp 0x14) [fireInt] c e) s

/-- IOR: Element bitwise or. (R289). -/
def execIor (c e : Nat) (s : State) : Host.Outcome State Fault Refusal :=
  attempt (fireElem (isOp 0x15) [fireInt] c e) s

/-- IXOR: Element bitwise exclusive-or. (R289). -/
def execIxor (c e : Nat) (s : State) : Host.Outcome State Fault Refusal :=
  attempt (fireElem (isOp 0x16) [fireInt] c e) s

/-- ISHL: Element left shift. (R289). -/
def execIshl (c e : Nat) (s : State) : Host.Outcome State Fault Refusal :=
  attempt (fireElem (isOp 0x17) [fireInt] c e) s

/-- ISHR: Element logical right shift. (R289). -/
def execIshr (c e : Nat) (s : State) : Host.Outcome State Fault Refusal :=
  attempt (fireElem (isOp 0x18) [fireInt] c e) s

/-- ISRA: Element arithmetic right shift. (R289). -/
def execIsra (c e : Nat) (s : State) : Host.Outcome State Fault Refusal :=
  attempt (fireElem (isOp 0x19) [fireInt] c e) s

/-- IMIN: Element minimum. (R289). -/
def execImin (c e : Nat) (s : State) : Host.Outcome State Fault Refusal :=
  attempt (fireElem (isOp 0x1A) [fireInt] c e) s

/-- IMAX: Element maximum. (R289). -/
def execImax (c e : Nat) (s : State) : Host.Outcome State Fault Refusal :=
  attempt (fireElem (isOp 0x1B) [fireInt] c e) s

/-- IABS: Element absolute value. (R289). -/
def execIabs (c e : Nat) (s : State) : Host.Outcome State Fault Refusal :=
  attempt (fireElem (isOp 0x1C) [fireInt] c e) s

/-- ISAT: Element clamps to an m-bit range. (R289). -/
def execIsat (c e : Nat) (s : State) : Host.Outcome State Fault Refusal :=
  attempt (fireElem (isOp 0x1D) [fireInt] c e) s

/-- ICMP: Element compares by VARIANT and yields 1 or 0. (R289). -/
def execIcmp (c e : Nat) (s : State) : Host.Outcome State Fault Refusal :=
  attempt (fireElem (isOp 0x1E) [fireInt] c e) s

/-- ELEM_FADD: Element F32 addition or subtraction. (R291). -/
def execElemFadd (c e : Nat) (s : State) : Host.Outcome State Fault Refusal :=
  attempt (fireElem (isOp 0x20) [fireF32] c e) s

/-- ELEM_FMUL: Element F32 multiplication. (R291). -/
def execElemFmul (c e : Nat) (s : State) : Host.Outcome State Fault Refusal :=
  attempt (fireElem (isOp 0x21) [fireF32] c e) s

/-- FFMA: Element F32 fused multiply-add with one rounding. (R291). -/
def execFfma (c e : Nat) (s : State) : Host.Outcome State Fault Refusal :=
  attempt (fireElem (isOp 0x22) [fireF32] c e) s

/-- ELEM_FMIN: Element F32 minimum. (R291). -/
def execElemFmin (c e : Nat) (s : State) : Host.Outcome State Fault Refusal :=
  attempt (fireElem (isOp 0x23) [fireF32] c e) s

/-- ELEM_FMAX: Element F32 maximum. (R291). -/
def execElemFmax (c e : Nat) (s : State) : Host.Outcome State Fault Refusal :=
  attempt (fireElem (isOp 0x24) [fireF32] c e) s

/-- ELEM_FCMP: Element F32 comparison by VARIANT. (R291). -/
def execElemFcmp (c e : Nat) (s : State) : Host.Outcome State Fault Refusal :=
  attempt (fireElem (isOp 0x25) [fireF32] c e) s

/-- ELEM_FCVT: Element format conversion by VARIANT. (R292). -/
def execElemFcvt (c e : Nat) (s : State) : Host.Outcome State Fault Refusal :=
  attempt (fireElem (isOp 0x26) [fireF32] c e) s

/-- FRCP: Element correctly rounded reciprocal. (R291). -/
def execFrcp (c e : Nat) (s : State) : Host.Outcome State Fault Refusal :=
  attempt (fireElem (isOp 0x27) [fireF32] c e) s

/-- FRSQ: Element correctly rounded reciprocal square root. (R291). -/
def execFrsq (c e : Nat) (s : State) : Host.Outcome State Fault Refusal :=
  attempt (fireElem (isOp 0x28) [fireF32] c e) s

/-- FEXP2: Element correctly rounded 2^a. (R291). -/
def execFexp2 (c e : Nat) (s : State) : Host.Outcome State Fault Refusal :=
  attempt (fireElem (isOp 0x29) [fireF32] c e) s

/-- FLOG2: Element correctly rounded log2 a. (R291). -/
def execFlog2 (c e : Nat) (s : State) : Host.Outcome State Fault Refusal :=
  attempt (fireElem (isOp 0x2A) [fireF32] c e) s

/-- QMUL: Element fixed-point multiplication with saturation. (R293). -/
def execQmul (c e : Nat) (s : State) : Host.Outcome State Fault Refusal :=
  attempt (fireElem (isOp 0x30) [fireFix] c e) s

/-- QRSQ: Element fixed-point reciprocal square root, warm or cold. (R294). -/
def execQrsq (c e : Nat) (s : State) : Host.Outcome State Fault Refusal :=
  attempt (fireElem (isOp 0x31) [fireFix] c e) s

/-- QDIV: Element fixed-point division, warm or cold. (R294). -/
def execQdiv (c e : Nat) (s : State) : Host.Outcome State Fault Refusal :=
  attempt (fireElem (isOp 0x32) [fireFix] c e) s

/-- PIVG: Element regularises pivots below a threshold and counts them. (R295). -/
def execPivg (c e : Nat) (s : State) : Host.Outcome State Fault Refusal :=
  attempt (fireElem (isOp 0x33) [firePivg] c e) s

/-- CADD: Element complex addition. (R296). -/
def execCadd (c e : Nat) (s : State) : Host.Outcome State Fault Refusal :=
  attempt (fireElem (isOp 0x40) [fireComplex] c e) s

/-- CSUB: Element complex subtraction. (R296). -/
def execCsub (c e : Nat) (s : State) : Host.Outcome State Fault Refusal :=
  attempt (fireElem (isOp 0x41) [fireComplex] c e) s

/-- CMUL: Element complex multiplication with scaling. (R296). -/
def execCmul (c e : Nat) (s : State) : Host.Outcome State Fault Refusal :=
  attempt (fireElem (isOp 0x42) [fireComplex] c e) s

/-- CMAC: Element complex multiply-accumulate, emitting the sum at END. (R296). -/
def execCmac (c e : Nat) (s : State) : Host.Outcome State Fault Refusal :=
  attempt (fireElem (isOp 0x43) [fireCmac] c e) s

/-- CCONJ: Element complex conjugate. (R296). -/
def execCconj (c e : Nat) (s : State) : Host.Outcome State Fault Refusal :=
  attempt (fireElem (isOp 0x44) [fireComplex] c e) s

/-- CABS2: Element squared complex magnitude. (R296). -/
def execCabs2 (c e : Nat) (s : State) : Host.Outcome State Fault Refusal :=
  attempt (fireElem (isOp 0x45) [fireComplex] c e) s

/-- CSCL: Element complex scaling by a real value. (R296). -/
def execCscl (c e : Nat) (s : State) : Host.Outcome State Fault Refusal :=
  attempt (fireElem (isOp 0x46) [fireComplex] c e) s

/-- ROTZ: Element rotates a lifted block held in a gang. (R297). -/
def execRotz (c e : Nat) (s : State) : Host.Outcome State Fault Refusal :=
  attempt (fireElem (isOp 0x50) [fireRotz] c e) s

/-- PERM: Element permutes the bits or bytes of a word. (R298). -/
def execPerm (c e : Nat) (s : State) : Host.Outcome State Fault Refusal :=
  attempt (fireElem (isOp 0x51) [firePerm] c e) s

/-- MINS: Element forms offset min-sum check-node messages over a group. (R299). -/
def execMins (c e : Nat) (s : State) : Host.Outcome State Fault Refusal :=
  attempt (fireElem (isOp 0x52) [fireMins] c e) s

/-- LLRS: Element adds log-likelihood ratios per lane, with hard decisions. (R300). -/
def execLlrs (c e : Nat) (s : State) : Host.Outcome State Fault Refusal :=
  attempt (fireElem (isOp 0x53) [fireLlrs] c e) s

/-- XORR: Element exclusive-or reduction. (R301). -/
def execXorr (c e : Nat) (s : State) : Host.Outcome State Fault Refusal :=
  attempt (fireElem (isOp 0x54) [fireXorr] c e) s

/-- CRCS: Element cyclic redundancy check, emitted at END. (R302). -/
def execCrcs (c e : Nat) (s : State) : Host.Outcome State Fault Refusal :=
  attempt (fireElem (isOp 0x55) [fireCrcs] c e) s

/-- MMA: Element adds products of A and B into its exact accumulator as one block addition. (R303). -/
def execMma (c e : Nat) (s : State) : Host.Outcome State Fault Refusal :=
  attempt (fireElem (isOp 0x60) [fireMma] c e) s

/-- XACC: Element adds one value into its exact accumulator. (R306). -/
def execXacc (c e : Nat) (s : State) : Host.Outcome State Fault Refusal :=
  attempt (fireElem (isOp 0x61) [fireXacc] c e) s

/-- REQ: Element issues gather or scatter requests on a request port and forwards responses. (R307). -/
def execReq (c e : Nat) (s : State) : Host.Outcome State Fault Refusal :=
  attempt (fireElem (isOp 0x62) [fireReqResponse, fireReqRequest] c e) s

/-- RNG: Element computes a counter-based random value from the allocation's key. (R308). -/
def execRng (c e : Nat) (s : State) : Host.Outcome State Fault Refusal :=
  attempt (fireElem (isOp 0x70) [fireRng] c e) s

end Sys2Proof.Machine
end

