-- ==== Sys2Proof/Machine/Dispatch.lean ====
section
/-! DEFINITION. The dispatch: one arm per row of the table of instructions and steps. -/

namespace Sys2Proof.Machine

def exec (i : Instr) (s : State) : Host.Outcome State Fault Refusal :=
  match i with
  | .read p g t0 t1 => Sys2Proof.Machine.execRead p g t0 t1 s
  | .write p g => Sys2Proof.Machine.execWrite p g s
  | .movi p imm t0 => Sys2Proof.Machine.execMovi p imm t0 s
  | .appi p imm t0 => Sys2Proof.Machine.execAppi p imm t0 s
  | .mov p t0 t1 => Sys2Proof.Machine.execMov p t0 t1 s
  | .sel t0 t1 => Sys2Proof.Machine.execSel t0 t1 s
  | .nullw p g => Sys2Proof.Machine.execNullw p g s
  | .nulls p l => Sys2Proof.Machine.execNulls p l s
  | .add p w t0 t1 => Sys2Proof.Machine.execAdd p w t0 t1 s
  | .sub p w t0 t1 => Sys2Proof.Machine.execSub p w t0 t1 s
  | .mul p w t0 t1 => Sys2Proof.Machine.execMul p w t0 t1 s
  | .mulh p w t0 t1 => Sys2Proof.Machine.execMulh p w t0 t1 s
  | .mulhu p w t0 t1 => Sys2Proof.Machine.execMulhu p w t0 t1 s
  | .div p w t0 t1 => Sys2Proof.Machine.execDiv p w t0 t1 s
  | .divu p w t0 t1 => Sys2Proof.Machine.execDivu p w t0 t1 s
  | .rem p w t0 t1 => Sys2Proof.Machine.execRem p w t0 t1 s
  | .remu p w t0 t1 => Sys2Proof.Machine.execRemu p w t0 t1 s
  | .min p w t0 t1 => Sys2Proof.Machine.execMin p w t0 t1 s
  | .max p w t0 t1 => Sys2Proof.Machine.execMax p w t0 t1 s
  | .minu p w t0 t1 => Sys2Proof.Machine.execMinu p w t0 t1 s
  | .maxu p w t0 t1 => Sys2Proof.Machine.execMaxu p w t0 t1 s
  | .and p w t0 t1 => Sys2Proof.Machine.execAnd p w t0 t1 s
  | .or p w t0 t1 => Sys2Proof.Machine.execOr p w t0 t1 s
  | .xor p w t0 t1 => Sys2Proof.Machine.execXor p w t0 t1 s
  | .andn p w t0 t1 => Sys2Proof.Machine.execAndn p w t0 t1 s
  | .orn p w t0 t1 => Sys2Proof.Machine.execOrn p w t0 t1 s
  | .shl p w t0 t1 => Sys2Proof.Machine.execShl p w t0 t1 s
  | .shr p w t0 t1 => Sys2Proof.Machine.execShr p w t0 t1 s
  | .sra p w t0 t1 => Sys2Proof.Machine.execSra p w t0 t1 s
  | .rol p w t0 t1 => Sys2Proof.Machine.execRol p w t0 t1 s
  | .ror p w t0 t1 => Sys2Proof.Machine.execRor p w t0 t1 s
  | .bfx p w t0 t1 => Sys2Proof.Machine.execBfx p w t0 t1 s
  | .clz p w t0 t1 => Sys2Proof.Machine.execClz p w t0 t1 s
  | .ctz p w t0 t1 => Sys2Proof.Machine.execCtz p w t0 t1 s
  | .popc p w t0 t1 => Sys2Proof.Machine.execPopc p w t0 t1 s
  | .brev p w t0 t1 => Sys2Proof.Machine.execBrev p w t0 t1 s
  | .bswap p w t0 t1 => Sys2Proof.Machine.execBswap p w t0 t1 s
  | .neg p w t0 t1 => Sys2Proof.Machine.execNeg p w t0 t1 s
  | .not p w t0 t1 => Sys2Proof.Machine.execNot p w t0 t1 s
  | .sext8 p w t0 t1 => Sys2Proof.Machine.execSext8 p w t0 t1 s
  | .sext16 p w t0 t1 => Sys2Proof.Machine.execSext16 p w t0 t1 s
  | .sext32 p w t0 t1 => Sys2Proof.Machine.execSext32 p w t0 t1 s
  | .zext8 p w t0 t1 => Sys2Proof.Machine.execZext8 p w t0 t1 s
  | .zext16 p w t0 t1 => Sys2Proof.Machine.execZext16 p w t0 t1 s
  | .zext32 p w t0 t1 => Sys2Proof.Machine.execZext32 p w t0 t1 s
  | .addi p w imm t0 => Sys2Proof.Machine.execAddi p w imm t0 s
  | .andi p w imm t0 => Sys2Proof.Machine.execAndi p w imm t0 s
  | .ori p w imm t0 => Sys2Proof.Machine.execOri p w imm t0 s
  | .xori p w imm t0 => Sys2Proof.Machine.execXori p w imm t0 s
  | .shli p w imm t0 => Sys2Proof.Machine.execShli p w imm t0 s
  | .shri p w imm t0 => Sys2Proof.Machine.execShri p w imm t0 s
  | .srai p w imm t0 => Sys2Proof.Machine.execSrai p w imm t0 s
  | .muli p w imm t0 => Sys2Proof.Machine.execMuli p w imm t0 s
  | .teq p w t0 t1 => Sys2Proof.Machine.execTeq p w t0 t1 s
  | .tne p w t0 t1 => Sys2Proof.Machine.execTne p w t0 t1 s
  | .tlt p w t0 t1 => Sys2Proof.Machine.execTlt p w t0 t1 s
  | .tle p w t0 t1 => Sys2Proof.Machine.execTle p w t0 t1 s
  | .tltu p w t0 t1 => Sys2Proof.Machine.execTltu p w t0 t1 s
  | .tleu p w t0 t1 => Sys2Proof.Machine.execTleu p w t0 t1 s
  | .teqi p w imm t0 => Sys2Proof.Machine.execTeqi p w imm t0 s
  | .tnei p w imm t0 => Sys2Proof.Machine.execTnei p w imm t0 s
  | .tlti p w imm t0 => Sys2Proof.Machine.execTlti p w imm t0 s
  | .tlei p w imm t0 => Sys2Proof.Machine.execTlei p w imm t0 s
  | .tgti p w imm t0 => Sys2Proof.Machine.execTgti p w imm t0 s
  | .tgei p w imm t0 => Sys2Proof.Machine.execTgei p w imm t0 s
  | .tltui p w imm t0 => Sys2Proof.Machine.execTltui p w imm t0 s
  | .tgtui p w imm t0 => Sys2Proof.Machine.execTgtui p w imm t0 s
  | .ldb p l imm t0 => Sys2Proof.Machine.execLdb p l imm t0 s
  | .ldbx p l imm t0 => Sys2Proof.Machine.execLdbx p l imm t0 s
  | .ldh p l imm t0 => Sys2Proof.Machine.execLdh p l imm t0 s
  | .ldhx p l imm t0 => Sys2Proof.Machine.execLdhx p l imm t0 s
  | .ldw p l imm t0 => Sys2Proof.Machine.execLdw p l imm t0 s
  | .ldwx p l imm t0 => Sys2Proof.Machine.execLdwx p l imm t0 s
  | .ldd p l imm t0 => Sys2Proof.Machine.execLdd p l imm t0 s
  | .lda p l imm t0 => Sys2Proof.Machine.execLda p l imm t0 s
  | .stb p l imm => Sys2Proof.Machine.execStb p l imm s
  | .sth p l imm => Sys2Proof.Machine.execSth p l imm s
  | .stw p l imm => Sys2Proof.Machine.execStw p l imm s
  | .std p l imm => Sys2Proof.Machine.execStd p l imm s
  | .stl p l imm => Sys2Proof.Machine.execStl p l imm s
  | .amoadd p l o sc w t0 => Sys2Proof.Machine.execAmoadd p l o sc w t0 s
  | .amoswp p l o sc w t0 => Sys2Proof.Machine.execAmoswp p l o sc w t0 s
  | .amoand p l o sc w t0 => Sys2Proof.Machine.execAmoand p l o sc w t0 s
  | .amoor p l o sc w t0 => Sys2Proof.Machine.execAmoor p l o sc w t0 s
  | .amoxor p l o sc w t0 => Sys2Proof.Machine.execAmoxor p l o sc w t0 s
  | .amomin p l o sc w t0 => Sys2Proof.Machine.execAmomin p l o sc w t0 s
  | .amomax p l o sc w t0 => Sys2Proof.Machine.execAmomax p l o sc w t0 s
  | .amominu p l o sc w t0 => Sys2Proof.Machine.execAmominu p l o sc w t0 s
  | .amomaxu p l o sc w t0 => Sys2Proof.Machine.execAmomaxu p l o sc w t0 s
  | .amocas p l o sc t0 => Sys2Proof.Machine.execAmocas p l o sc t0 s
  | .fence p l sc => Sys2Proof.Machine.execFence p l sc s
  | .bri p e offs => Sys2Proof.Machine.execBri p e offs s
  | .calli p e offs => Sys2Proof.Machine.execCalli p e offs s
  | .br p e => Sys2Proof.Machine.execBr p e s
  | .call p e => Sys2Proof.Machine.execCall p e s
  | .scall p e code => Sys2Proof.Machine.execScall p e code s
  | .trap p e code => Sys2Proof.Machine.execTrap p e code s
  | .halt p e => Sys2Proof.Machine.execHalt p e s
  | .eret p e => Sys2Proof.Machine.execEret p e s
  | .csrr p n t0 => Sys2Proof.Machine.execCsrr p n t0 s
  | .csrw p n => Sys2Proof.Machine.execCsrw p n s
  | .cfgLoad p r sl full => Sys2Proof.Machine.execCfgLoad p r sl full s
  | .cfgWr p r => Sys2Proof.Machine.execCfgWr p r s
  | .cfgSwap p r sl drained reset t0 => Sys2Proof.Machine.execCfgSwap p r sl drained reset t0 s
  | .cfgRetire p r sl => Sys2Proof.Machine.execCfgRetire p r sl s
  | .cfgStat p r t0 => Sys2Proof.Machine.execCfgStat p r t0 s
  | .strBind p dir ix lane go base t0 => Sys2Proof.Machine.execStrBind p dir ix lane go base t0 s
  | .strGo p dl => Sys2Proof.Machine.execStrGo p dl s
  | .strCancel p => Sys2Proof.Machine.execStrCancel p s
  | .strWait p t0 => Sys2Proof.Machine.execStrWait p t0 s
  | .strPush p buf sz rand => Sys2Proof.Machine.execStrPush p buf sz rand s
  | .strPop p buf sz rand t0 => Sys2Proof.Machine.execStrPop p buf sz rand t0 s
  | .strStat p kind dir ix t0 => Sys2Proof.Machine.execStrStat p kind dir ix t0 s
  | .rgnArm p r sec => Sys2Proof.Machine.execRgnArm p r sec s
  | .rgnFreeze p r => Sys2Proof.Machine.execRgnFreeze p r s
  | .rgnThaw p r => Sys2Proof.Machine.execRgnThaw p r s
  | .rgnAbort p r => Sys2Proof.Machine.execRgnAbort p r s
  | .rgnQuiet p r span t0 => Sys2Proof.Machine.execRgnQuiet p r span t0 s
  | .rgnStat p r t0 => Sys2Proof.Machine.execRgnStat p r t0 s
  | .spawn p r t0 => Sys2Proof.Machine.execSpawn p r t0 s
  | .xaClr p r tile evt => Sys2Proof.Machine.execXaClr p r tile evt s
  | .xaDrain p r tile evt mem => Sys2Proof.Machine.execXaDrain p r tile evt mem s
  | .xaSpill p r tile evt => Sys2Proof.Machine.execXaSpill p r tile evt s
  | .xaFill p r tile evt => Sys2Proof.Machine.execXaFill p r tile evt s
  | .xaMerge p r tile evt => Sys2Proof.Machine.execXaMerge p r tile evt s
  | .xaStat p r t0 => Sys2Proof.Machine.execXaStat p r t0 s
  | .markWait p kind t0 => Sys2Proof.Machine.execMarkWait p kind t0 s
  | .markRaise p kind strm => Sys2Proof.Machine.execMarkRaise p kind strm s
  | .evtWait p ev t0 => Sys2Proof.Machine.execEvtWait p ev t0 s
  | .evtSignal p ev => Sys2Proof.Machine.execEvtSignal p ev s
  | .semWait p o sc t0 => Sys2Proof.Machine.execSemWait p o sc t0 s
  | .semPost p o sc t0 => Sys2Proof.Machine.execSemPost p o sc t0 s
  | .fadd p t0 t1 => Sys2Proof.Machine.execFadd p t0 t1 s
  | .fsub p t0 t1 => Sys2Proof.Machine.execFsub p t0 t1 s
  | .fmul p t0 t1 => Sys2Proof.Machine.execFmul p t0 t1 s
  | .fdiv p t0 t1 => Sys2Proof.Machine.execFdiv p t0 t1 s
  | .fsqrt p t0 t1 => Sys2Proof.Machine.execFsqrt p t0 t1 s
  | .fmin p t0 t1 => Sys2Proof.Machine.execFmin p t0 t1 s
  | .fmax p t0 t1 => Sys2Proof.Machine.execFmax p t0 t1 s
  | .fabs p t0 t1 => Sys2Proof.Machine.execFabs p t0 t1 s
  | .fneg p t0 t1 => Sys2Proof.Machine.execFneg p t0 t1 s
  | .fcmpEq p t0 t1 => Sys2Proof.Machine.execFcmpEq p t0 t1 s
  | .fcmpLt p t0 t1 => Sys2Proof.Machine.execFcmpLt p t0 t1 s
  | .fcmpLe p t0 t1 => Sys2Proof.Machine.execFcmpLe p t0 t1 s
  | .fcmpUn p t0 t1 => Sys2Proof.Machine.execFcmpUn p t0 t1 s
  | .fcvtS32F p t0 t1 => Sys2Proof.Machine.execFcvtS32F p t0 t1 s
  | .fcvtS64F p t0 t1 => Sys2Proof.Machine.execFcvtS64F p t0 t1 s
  | .fcvtFS32 p t0 t1 => Sys2Proof.Machine.execFcvtFS32 p t0 t1 s
  | .fcvtFS64 p t0 t1 => Sys2Proof.Machine.execFcvtFS64 p t0 t1 s
  | .fcvtFN64 p t0 t1 => Sys2Proof.Machine.execFcvtFN64 p t0 t1 s
  | .fcvtBf16F p t0 t1 => Sys2Proof.Machine.execFcvtBf16F p t0 t1 s
  | .fcvtFBf16 p t0 t1 => Sys2Proof.Machine.execFcvtFBf16 p t0 t1 s
  | .fcvtFp16F p t0 t1 => Sys2Proof.Machine.execFcvtFp16F p t0 t1 s
  | .fcvtFFp16 p t0 t1 => Sys2Proof.Machine.execFcvtFFp16 p t0 t1 s
  | .blockFetch c x => Sys2Proof.Machine.execBlockFetch c x s
  | .blockCommit c x => Sys2Proof.Machine.execBlockCommit c x s
  | .blockAbandon c x => Sys2Proof.Machine.execBlockAbandon c x s
  | .stallDetect c x => Sys2Proof.Machine.execStallDetect c x s
  | .engineAccept c x k => Sys2Proof.Machine.execEngineAccept c x k s
  | .waitSatisfied c x => Sys2Proof.Machine.execWaitSatisfied c x s
  | .swapTakesEffect c r => Sys2Proof.Machine.execSwapTakesEffect c r s
  | .loaderServe c => Sys2Proof.Machine.execLoaderServe c s
  | .configLoadComplete c => Sys2Proof.Machine.execConfigLoadComplete c s
  | .regionSchedulerDecision c r => Sys2Proof.Machine.execRegionSchedulerDecision c r s
  | .quantumExpiry c r => Sys2Proof.Machine.execQuantumExpiry c r s
  | .pass c e => Sys2Proof.Machine.execPass c e s
  | .steer c e => Sys2Proof.Machine.execSteer c e s
  | .loopExitSteer c e => Sys2Proof.Machine.execLoopExitSteer c e s
  | .swch c e => Sys2Proof.Machine.execSwch c e s
  | .merge c e => Sys2Proof.Machine.execMerge c e s
  | .amrg c e => Sys2Proof.Machine.execAmrg c e s
  | .filt c e => Sys2Proof.Machine.execFilt c e s
  | .expd c e => Sys2Proof.Machine.execExpd c e s
  | .rep c e => Sys2Proof.Machine.execRep c e s
  | .cnt c e => Sys2Proof.Machine.execCnt c e s
  | .gate c e => Sys2Proof.Machine.execGate c e s
  | .taga c e => Sys2Proof.Machine.execTaga c e s
  | .tagf c e => Sys2Proof.Machine.execTagf c e s
  | .reord c e => Sys2Proof.Machine.execReord c e s
  | .join c e => Sys2Proof.Machine.execJoin c e s
  | .const c e => Sys2Proof.Machine.execConst c e s
  | .iadd c e => Sys2Proof.Machine.execIadd c e s
  | .isub c e => Sys2Proof.Machine.execIsub c e s
  | .imul c e => Sys2Proof.Machine.execImul c e s
  | .imac c e => Sys2Proof.Machine.execImac c e s
  | .iand c e => Sys2Proof.Machine.execIand c e s
  | .ior c e => Sys2Proof.Machine.execIor c e s
  | .ixor c e => Sys2Proof.Machine.execIxor c e s
  | .ishl c e => Sys2Proof.Machine.execIshl c e s
  | .ishr c e => Sys2Proof.Machine.execIshr c e s
  | .isra c e => Sys2Proof.Machine.execIsra c e s
  | .imin c e => Sys2Proof.Machine.execImin c e s
  | .imax c e => Sys2Proof.Machine.execImax c e s
  | .iabs c e => Sys2Proof.Machine.execIabs c e s
  | .isat c e => Sys2Proof.Machine.execIsat c e s
  | .icmp c e => Sys2Proof.Machine.execIcmp c e s
  | .elemFadd c e => Sys2Proof.Machine.execElemFadd c e s
  | .elemFmul c e => Sys2Proof.Machine.execElemFmul c e s
  | .ffma c e => Sys2Proof.Machine.execFfma c e s
  | .elemFmin c e => Sys2Proof.Machine.execElemFmin c e s
  | .elemFmax c e => Sys2Proof.Machine.execElemFmax c e s
  | .elemFcmp c e => Sys2Proof.Machine.execElemFcmp c e s
  | .elemFcvt c e => Sys2Proof.Machine.execElemFcvt c e s
  | .frcp c e => Sys2Proof.Machine.execFrcp c e s
  | .frsq c e => Sys2Proof.Machine.execFrsq c e s
  | .fexp2 c e => Sys2Proof.Machine.execFexp2 c e s
  | .flog2 c e => Sys2Proof.Machine.execFlog2 c e s
  | .qmul c e => Sys2Proof.Machine.execQmul c e s
  | .qrsq c e => Sys2Proof.Machine.execQrsq c e s
  | .qdiv c e => Sys2Proof.Machine.execQdiv c e s
  | .pivg c e => Sys2Proof.Machine.execPivg c e s
  | .cadd c e => Sys2Proof.Machine.execCadd c e s
  | .csub c e => Sys2Proof.Machine.execCsub c e s
  | .cmul c e => Sys2Proof.Machine.execCmul c e s
  | .cmac c e => Sys2Proof.Machine.execCmac c e s
  | .cconj c e => Sys2Proof.Machine.execCconj c e s
  | .cabs2 c e => Sys2Proof.Machine.execCabs2 c e s
  | .cscl c e => Sys2Proof.Machine.execCscl c e s
  | .rotz c e => Sys2Proof.Machine.execRotz c e s
  | .perm c e => Sys2Proof.Machine.execPerm c e s
  | .mins c e => Sys2Proof.Machine.execMins c e s
  | .llrs c e => Sys2Proof.Machine.execLlrs c e s
  | .xorr c e => Sys2Proof.Machine.execXorr c e s
  | .crcs c e => Sys2Proof.Machine.execCrcs c e s
  | .mma c e => Sys2Proof.Machine.execMma c e s
  | .xacc c e => Sys2Proof.Machine.execXacc c e s
  | .req c e => Sys2Proof.Machine.execReq c e s
  | .rng c e => Sys2Proof.Machine.execRng c e s
  | .markerConsume c e => Sys2Proof.Machine.execMarkerConsume c e s
  | .squashArrival c e lane => Sys2Proof.Machine.execSquashArrival c e lane s
  | .enablePulse c e => Sys2Proof.Machine.execEnablePulse c e s
  | .donePulse c e route => Sys2Proof.Machine.execDonePulse c e route s
  | .commitPulse c e => Sys2Proof.Machine.execCommitPulse c e s
  | .creditPulse c e route => Sys2Proof.Machine.execCreditPulse c e route s
  | .switchboxPass c e lane => Sys2Proof.Machine.execSwitchboxPass c e lane s
  | .drainChainForward c e => Sys2Proof.Machine.execDrainChainForward c e s
  | .klenDrain c e => Sys2Proof.Machine.execKlenDrain c e s
  | .xaCommandAct c e => Sys2Proof.Machine.execXaCommandAct c e s
  | .xaCommandComplete c id => Sys2Proof.Machine.execXaCommandComplete c id s
  | .quiescenceWaveComplete c x => Sys2Proof.Machine.execQuiescenceWaveComplete c x s
  | .freezeWave c r => Sys2Proof.Machine.execFreezeWave c r s
  | .freezeImageWritten c r => Sys2Proof.Machine.execFreezeImageWritten c r s
  | .thawInstall a c r => Sys2Proof.Machine.execThawInstall a c r s
  | .abortComplete a c r => Sys2Proof.Machine.execAbortComplete a c r s
  | .spawnQueueService a => Sys2Proof.Machine.execSpawnQueueService a s
  | .endRelease c k => Sys2Proof.Machine.execEndRelease c k s
  | .detRoundApply a => Sys2Proof.Machine.execDetRoundApply a s
  | .tagdry c e => Sys2Proof.Machine.execTagdry c e s
  | .bindingActivate c p => Sys2Proof.Machine.execBindingActivate c p s
  | .streamMove c p => Sys2Proof.Machine.execStreamMove c p s
  | .gatherRequest c p => Sys2Proof.Machine.execGatherRequest c p s
  | .scatterRequest c p => Sys2Proof.Machine.execScatterRequest c p s
  | .itemFinish c p => Sys2Proof.Machine.execItemFinish c p s
  | .bindingDone c p => Sys2Proof.Machine.execBindingDone c p s
  | .translateAhead c p => Sys2Proof.Machine.execTranslateAhead c p s
  | .ringSend c p => Sys2Proof.Machine.execRingSend c p s
  | .ringDeliver c p => Sys2Proof.Machine.execRingDeliver c p s
  | .ringSlotReturn c p => Sys2Proof.Machine.execRingSlotReturn c p s
  | .arbitrationRound c => Sys2Proof.Machine.execArbitrationRound c s
  | .walk d id => Sys2Proof.Machine.execWalk d id s
  | .accessPerformed id => Sys2Proof.Machine.execAccessPerformed id s
  | .semRetest id => Sys2Proof.Machine.execSemRetest id s
  | .sweep c => Sys2Proof.Machine.execSweep c s
  | .stagingSweep d => Sys2Proof.Machine.execStagingSweep d s
  | .patrolScrub line => Sys2Proof.Machine.execPatrolScrub line s
  | .softErrorDetect place => Sys2Proof.Machine.execSoftErrorDetect place s
  | .markUnitApply => Sys2Proof.Machine.execMarkUnitApply s
  | .markApply c => Sys2Proof.Machine.execMarkApply c s
  | .eventDelivery n => Sys2Proof.Machine.execEventDelivery n s
  | .packetRead => Sys2Proof.Machine.execPacketRead s
  | .teaselWake q => Sys2Proof.Machine.execTeaselWake q s
  | .irqToleranceExpiry q => Sys2Proof.Machine.execIrqToleranceExpiry q s
  | .packetComplete id => Sys2Proof.Machine.execPacketComplete id s
  | .placement => Sys2Proof.Machine.execPlacement s
  | .copyPiece id => Sys2Proof.Machine.execCopyPiece id s
  | .nop q => Sys2Proof.Machine.execNop q s
  | .launch q => Sys2Proof.Machine.execLaunch q s
  | .mark q => Sys2Proof.Machine.execMark q s
  | .signal q => Sys2Proof.Machine.execSignal q s
  | .wait q => Sys2Proof.Machine.execWait q s
  | .copy q => Sys2Proof.Machine.execCopy q s
  | .fencePacket q => Sys2Proof.Machine.execFencePacket q s
  | .budget q => Sys2Proof.Machine.execBudget q s
  | .freeze q => Sys2Proof.Machine.execFreeze q s
  | .thaw q => Sys2Proof.Machine.execThaw q s
  | .abort q => Sys2Proof.Machine.execAbort q s
  | .attest q => Sys2Proof.Machine.execAttest q s
  | .indirect q => Sys2Proof.Machine.execIndirect q s
  | .faultRecordWrite => Sys2Proof.Machine.execFaultRecordWrite s
  | .hostRead h => Sys2Proof.Machine.execHostRead h s
  | .hostWrite h data mask => Sys2Proof.Machine.execHostWrite h data mask s
  | .modeRegisterWrite n v => Sys2Proof.Machine.execModeRegisterWrite n v s
  | .modeRegisterRead n => Sys2Proof.Machine.execModeRegisterRead n s
  | .refresh ch => Sys2Proof.Machine.execRefresh ch s
  | .powerDown ch enter => Sys2Proof.Machine.execPowerDown ch enter s
  | .selfRefresh ch enter => Sys2Proof.Machine.execSelfRefresh ch enter s
  | .commandBusTraining ch => Sys2Proof.Machine.execCommandBusTraining ch s
  | .wck2ckLevelling ch => Sys2Proof.Machine.execWck2ckLevelling ch s
  | .readDqCalibration ch => Sys2Proof.Machine.execReadDqCalibration ch s
  | .writeFifo ch data => Sys2Proof.Machine.execWriteFifo ch data s
  | .readFifo ch => Sys2Proof.Machine.execReadFifo ch s
  | .qtailWrite q v bm => Sys2Proof.Machine.execQtailWrite q v bm s
  | .qsizeWrite q v bm => Sys2Proof.Machine.execQsizeWrite q v bm s
  | .qbaseWrite q v bm => Sys2Proof.Machine.execQbaseWrite q v bm s
  | .qstatWrite q v bm => Sys2Proof.Machine.execQstatWrite q v bm s
  | .markwWrite m v bm => Sys2Proof.Machine.execMarkwWrite m v bm s
  | .limitWrite m b v bm => Sys2Proof.Machine.execLimitWrite m b v bm s
  | .bctlWrite m v bm => Sys2Proof.Machine.execBctlWrite m v bm s
  | .bootctlStart v bm => Sys2Proof.Machine.execBootctlStart v bm s
  | .feath0Write v bm => Sys2Proof.Machine.execFeath0Write v bm s
  | .pwrcapWrite v bm => Sys2Proof.Machine.execPwrcapWrite v bm s
  | .irqstatWrite v bm => Sys2Proof.Machine.execIrqstatWrite v bm s
  | .irqmaskWrite v bm => Sys2Proof.Machine.execIrqmaskWrite v bm s
  | .fltringWrite v bm => Sys2Proof.Machine.execFltringWrite v bm s
  | .fltptrWrite v bm => Sys2Proof.Machine.execFltptrWrite v bm s
  | .registerWrite off v bm => Sys2Proof.Machine.execRegisterWrite off v bm s
  | .flitReceive l down cls => Sys2Proof.Machine.execFlitReceive l down cls s
  | .creditFlit l down => Sys2Proof.Machine.execCreditFlit l down s
  | .linkretrain l => Sys2Proof.Machine.execLinkretrain l s
  | .linkdown l => Sys2Proof.Machine.execLinkdown l s
  | .powerEstimate est temps => Sys2Proof.Machine.execPowerEstimate est temps s
  | .thermalTrip => Sys2Proof.Machine.execThermalTrip s
  | .powerOn => Sys2Proof.Machine.execPowerOn s
  | .bundleVerify => Sys2Proof.Machine.execBundleVerify s
  | .initComplete res => Sys2Proof.Machine.execInitComplete res s
  | .campionTimeout => Sys2Proof.Machine.execCampionTimeout s
  | .serviceAccess o => Sys2Proof.Machine.execServiceAccess o s
  | .linkArbitrationRound l down => Sys2Proof.Machine.execLinkArbitrationRound l down s

end Sys2Proof.Machine
end

