-- ==== Sys2Proof/Machine/Schedule.lean ====
section
/-! DEFINITION. Which step of the table comes next (R33; DESIGN CHOICE, log 2): a move that the agenda names, or the first move that
can act among those that the machine's agents could take, beginning at another one each time. How a word comes to be the
next instruction. -/

namespace Sys2Proof.Machine

/-! ## A move -/

/-- The lowest body word that may fire in the block in flight of a context. -/
def State.readyWord (s : State) (c x : Nat) : Option (Nat × W32) :=
  match (s.ctx? c x).bind (·.block) with
  | none => none
  | some b => ((List.range b.words.length).find? b.ready).map fun k => (k, b.words.getD k 0)

def State.atWord (s : State) (c x k : Nat) : State := { s with focus := { core := c, ctx := x, idx := k } }

/-- The contexts that hold words which may fire are taken in round-robin order, starting after the one that was served
first in the cycle before; of a cycle's two words the second takes the next in the same order (R32, R169; DEDUCED,
log 125). -/
def State.fireTurn (s : State) (c x : Nat) : Bool :=
  let order := (List.range 4).map fun i => ((s.core c).fireLast + 1 + i) % 4
  order.find? (fun y => (s.readyWord c y).isSome) = some x

/-- The words of a context that may fire, each with its context and block number. -/
def State.readyWords (s : State) (c x : Nat) : List (Nat × Nat × Nat) :=
  match (s.ctx? c x).bind (·.block) with
  | none => []
  | some b => ((List.range b.words.length).filter b.ready).map fun k => (x, b.num, k)

/-- Is the second word of a cycle still to fire: its block is in flight and has not fired it? A cycle whose second word has
gone with its block is over. -/
def State.secondDue (s : State) (c : Nat) : Bool :=
  (s.core c).fireMore.any fun w => ((s.ctx? c w.1).bind (·.block)).any fun b => b.num = w.2.1 && !b.fired.contains w.2.2

/-- The word at k of context x fires as the second of a cycle, or as the first: then the next that may fire in the order of
the contexts is the cycle's second. -/
def State.served (s : State) (c x k : Nat) : State :=
  if s.secondDue c then s.updCore c fun q => { q with fireMore := none }
  else
    let next := ((List.range 4).map fun i => (x + 1 + i) % 4).flatMap fun y =>
      (s.readyWords c y).filter fun w => !(w.1 = x && w.2.2 = k)
    s.updCore c fun q => { q with fireLast := x, fireMore := next.head? }

/-- A move of the machine: a body word of a context is decoded and executed, or a step of the table is taken. -/
def runMove (m : Move) (s : State) : Host.Outcome State Fault Refusal :=
  match m with
  | .cp c x =>
    match s.readyWord c x with
    | none => .next s
    | some (k, w) =>
      if !s.fireTurn c x then .next s
      else match decode w with
        | .ok i => exec i ((s.served c x k).atWord c x k)
        | .error _ => .fault .undecodableWord
  | .ev i => exec i s

/-- A step that an agent could take: the meaning of a row with its parts named. -/
abbrev Act := State → Host.Outcome State Fault Refusal

/-- The outcome of a step that acts; none for one whose agent waits. -/
def tryAct (s : State) (f : Act) : Option (Host.Outcome State Fault Refusal) :=
  match f s with
  | .next t => if t.acts = s.acts then none else some (.next t)
  | o => some o

/-! ## The moves of the machine's agents -/

/-- The row of an operation that a slot configures at an element (R278). -/
def opRow (g : Cfg) (c e : Nat) : Option Act :=
  match g.op with
  | 0x00 => some (execPass c e)
  | 0x01 => some (if g.isLoopExit then execLoopExitSteer c e else execSteer c e)
  | 0x02 => some (execSwch c e)
  | 0x03 => some (execMerge c e)
  | 0x04 => some (execAmrg c e)
  | 0x05 => some (execFilt c e)
  | 0x06 => some (execExpd c e)
  | 0x07 => some (execRep c e)
  | 0x08 => some (execCnt c e)
  | 0x09 => some (execGate c e)
  | 0x0A => some (execTaga c e)
  | 0x0B => some (execTagf c e)
  | 0x0C => some (execReord c e)
  | 0x0D => some (execJoin c e)
  | 0x0E => some (execConst c e)
  | 0x10 => some (execIadd c e)
  | 0x11 => some (execIsub c e)
  | 0x12 => some (execImul c e)
  | 0x13 => some (execImac c e)
  | 0x14 => some (execIand c e)
  | 0x15 => some (execIor c e)
  | 0x16 => some (execIxor c e)
  | 0x17 => some (execIshl c e)
  | 0x18 => some (execIshr c e)
  | 0x19 => some (execIsra c e)
  | 0x1A => some (execImin c e)
  | 0x1B => some (execImax c e)
  | 0x1C => some (execIabs c e)
  | 0x1D => some (execIsat c e)
  | 0x1E => some (execIcmp c e)
  | 0x20 => some (execElemFadd c e)
  | 0x21 => some (execElemFmul c e)
  | 0x22 => some (execFfma c e)
  | 0x23 => some (execElemFmin c e)
  | 0x24 => some (execElemFmax c e)
  | 0x25 => some (execElemFcmp c e)
  | 0x26 => some (execElemFcvt c e)
  | 0x27 => some (execFrcp c e)
  | 0x28 => some (execFrsq c e)
  | 0x29 => some (execFexp2 c e)
  | 0x2A => some (execFlog2 c e)
  | 0x30 => some (execQmul c e)
  | 0x31 => some (execQrsq c e)
  | 0x32 => some (execQdiv c e)
  | 0x33 => some (execPivg c e)
  | 0x40 => some (execCadd c e)
  | 0x41 => some (execCsub c e)
  | 0x42 => some (execCmul c e)
  | 0x43 => some (execCmac c e)
  | 0x44 => some (execCconj c e)
  | 0x45 => some (execCabs2 c e)
  | 0x46 => some (execCscl c e)
  | 0x50 => some (execRotz c e)
  | 0x51 => some (execPerm c e)
  | 0x52 => some (execMins c e)
  | 0x53 => some (execLlrs c e)
  | 0x54 => some (execXorr c e)
  | 0x55 => some (execCrcs c e)
  | 0x60 => some (execMma c e)
  | 0x61 => some (execXacc c e)
  | 0x62 => some (execReq c e)
  | 0x70 => some (execRng c e)
  | _ => none

/-- The rows of the operations that the serving slots of a region give an element. -/
def elemOpRows (q : Core) (r : Region) (c e : Nat) : List Act :=
  ((List.range 4).filter r.serves).filterMap fun n => opRow (q.cfg n e) c e

def elemMoves (q : Core) (r : Region) (c e : Nat) : List Act :=
  elemOpRows q r c e
    ++ [execMarkerConsume c e, execEnablePulse c e, execCommitPulse c e, execDrainChainForward c e, execKlenDrain c e, execXaCommandAct c e,
        execEndRelease c e]
    ++ (List.range 8).flatMap fun k => [execSquashArrival c e k, execDonePulse c e k, execCreditPulse c e k, execSwitchboxPass c e k]

def regionMoves (q : Core) (c n : Nat) (r : Region) : List Act :=
  [execSwapTakesEffect c n, execRegionSchedulerDecision c n, execFreezeWave c n, execFreezeImageWritten c n,
   execThawInstall r.alloc c n, execAbortComplete r.alloc c n]
    ++ r.elems.flatMap fun e => elemMoves q r c e

def portMoves (c p : Nat) : List Act :=
  [execBindingActivate c p, execStreamMove c p, execGatherRequest c p, execScatterRequest c p, execItemFinish c p,
   execBindingDone c p, execTranslateAhead c p, execRingSend c p, execRingDeliver c p, execRingSlotReturn c p, execEndRelease c (p + 256)]

def ctxMoves (c x : Nat) : List Act :=
  [runMove (.cp c x), execBlockCommit c x, execBlockAbandon c x, execWaitSatisfied c x, execQuiescenceWaveComplete c x,
   execStallDetect c x, execBlockFetch c x]
    ++ (List.range 32).map fun k => execEngineAccept c x k

def coreMoves (q : Core) (c : Nat) : List Act :=
  (q.ctxs.flatMap fun k => ctxMoves c k.1)
    ++ (q.regions.flatMap fun k => regionMoves q c k.1 k.2)
    ++ (q.ports.flatMap fun k => portMoves c k.1)
    ++ (q.xaCmds.map fun k => execXaCommandComplete c k.cmd.id)
    ++ [execLoaderServe c, execConfigLoadComplete c, execArbitrationRound c, execMarkApply c, execSweep c]

/-- Teasel's rows for the packet in the strip of a queue. -/
def packetRows (q : Nat) : List Act :=
  [execNop q, execLaunch q, execMark q, execSignal q, execWait q, execCopy q, execFencePacket q, execBudget q, execFreeze q,
   execThaw q, execAbort q, execAttest q, execIndirect q]

def linkMoves (s : State) : List Act :=
  s.links.flatMap (fun k => [false, true].flatMap fun d =>
    (List.range 4).map (execFlitReceive k.1 d) ++ [execCreditFlit k.1 d])
    ++ (s.slotReturns.filterMap fun r => r.hops.head?).eraseDups.map (fun h => execCreditFlit h.1 h.2)
    ++ (s.flights.filterMap fun f => f.hops.head?).eraseDups.map fun h => execLinkArbitrationRound h.1 h.2

def sharedMoves (s : State) : List Act :=
  (s.accesses.flatMap fun a => [execWalk (dieOf a.client.core) a.id, execAccessPerformed a.id])
    ++ (s.accesses.filterMap fun a => if a.kind = .atomic .semWait then some (execSemRetest a.id) else none)
    ++ (if s.eventMsgs.isEmpty then [] else [execEventDelivery 0])
    ++ linkMoves s
    ++ (s.allocs.flatMap fun a => [execSpawnQueueService a.1, execDetRoundApply a.1])
    ++ [execMarkUnitApply, execPacketRead, execPlacement, execFaultRecordWrite, execBundleVerify, execInitComplete .ready]
    ++ (List.range 20).flatMap packetRows
    ++ (s.teasel.packets.map fun p => execPacketComplete p.id)
    ++ (s.teasel.pieces.map fun p => execCopyPiece p.id)
    ++ ((List.range 4).map execStagingSweep)
    ++ (s.queues.flatMap fun q => [execTeaselWake q.1, execIrqToleranceExpiry q.1])

/-- The moves that the machine's agents could take of themselves. -/
def allMoves (s : State) : List Act :=
  (s.cores.flatMap fun k => coreMoves k.2 k.1) ++ sharedMoves s

/-- Moves that only the passing of time brings: they come when no other can act. -/
def timedMoves (s : State) : List Act :=
  s.cores.flatMap fun k => k.2.regions.flatMap fun r =>
    execQuantumExpiry k.1 r.1 :: r.2.elems.map fun e => execTagdry k.1 e

/-- A list begun at its n-th member. -/
def turned {α : Type} (l : List α) (n : Nat) : List α := l.drop (n % l.length) ++ l.take (n % l.length)

/-- The machine goes on of itself: the first move that can act, if any. -/
def defaultStep (s : State) : Host.Outcome State Fault Refusal :=
  let s := { s with turn := s.turn + 1 }
  match (turned (allMoves s) s.turn).findSome? (tryAct s) with
  | some o => o
  | none =>
    match (timedMoves s).findSome? (tryAct s) with
    | some o => o
    | none => .next s

/-- A block in flight in context 0 of core 0 whose one word is w, with every slot filled, and a predicate that w's own
predicate field takes; it is the context's turn, and the word fires next. -/
def State.placeWord (s : State) (w : W32) : State :=
  let p : Word := if (unpack w).p = 2 then 0 else 1
  let b : Block := { words := [w], slotA := [(0, 0)], slotB := [(0, 0)], slotP := [(0, p)] }
  { (s.setCtx 0 0 { (s.ctx? 0 0).getD {} with run := .running, block := some b }).updCore 0 fun q =>
      { q with fireLast := 3, fireMore := none } with agenda := [.cp 0 0] }

end Sys2Proof.Machine
end

