-- ==== Sys2Proof/Machine/Step.lean ====
section
/-! DEFINITION. One step of the machine, and a state in which a given word is the next instruction. -/

namespace Sys2Proof.Machine

/-- One step: the move at the head of the agenda, or what the machine does of itself (R33; DESIGN CHOICE, log 2). -/
def step (s : State) : Host.Outcome State Fault Refusal :=
  match s.agenda with
  | m :: ms => runMove m { s with agenda := ms }
  | [] => defaultStep s

/-- `s` with a body word as the next instruction that `step` fires (DESIGN CHOICE, log 2). -/
def State.withFetchWord (s : State) (_nbits w : Nat) : State := s.placeWord (BitVec.ofNat 32 w)

end Sys2Proof.Machine
end

