-- ==== Sys2Proof/Safety.lean ====
section
/-! DEFINITION. What claims call a safe step and a safe run, and the invariants of the machine's state. -/

namespace Sys2Proof.Machine

/-- The next state of a step, if it has one. -/
def nextOf (o : Host.Outcome State Fault Refusal) : Option State :=
  match o with
  | .next t => some t
  | .fault _ => none
  | .refused _ => none

/-- States that k steps lead to. -/
def runs : Nat → State → Option State
  | 0, s => some s
  | k + 1, s => (nextOf (step s)).bind (runs k)

/-- A state from which k steps meet no fault and no refusal. -/
def SafeFor (k : Nat) (s : State) : Prop := (runs k s).isSome = true

/-- Memory is in its canonical form. -/
def MemOk (s : State) : Prop := Memory.wf s.mem = true

/-! ## What statements about body words say -/

/-- The word under execution is that of `h`, and it may fire under its predicate (R176, R181). -/
def FiresAt (s : State) (p : Pred) (h : Here) : Prop := s.here? = some h ∧ mayFire p h.blk h.k = true

/-- The word has fired and its block is now `b`; nothing else has changed. -/
def State.withBlock (s : State) (h : Here) (b : Block) : State :=
  (s.setCtx h.c h.x { h.ctx with block := some b }).acted

/-- The word has fired and sent one value to its two targets; nothing else has changed. -/
def State.sends (s : State) (h : Here) (t0 t1 : Target) (v : Word) : State :=
  s.withBlock h (((h.blk.fire h.k).send t0 v).send t1 v)

/-- `i` sends a value below 2^n, with a property, to its two targets, and does nothing else. -/
def SendsLow (s : State) (h : Here) (i : Instr) (t0 t1 : Target) (n : Nat) (P : Nat → Prop) : Prop :=
  ∃ r, exec i s = .next (s.sends h t0 t1 (BitVec.ofNat 64 r)) ∧ r < 2 ^ n ∧ P r

/-- `exec i` abandons the block of `h` with a cause: the context enters through TVEC, or, with INH set or no TVEC, stops with
a FATAL record, and its allocation is aborted (R393, R394). No byte and no g register changes. -/
def AbandonsWith (s : State) (h : Here) (i : Instr) (cause : BitVec 8) : Prop :=
  (h.ctx.inh = false → h.ctx.tvec ≠ 0 →
    ∃ t q, exec i s = .next t ∧ t.mem = s.mem ∧ t.ctx? h.c h.x = some q ∧ q.cause = cause ∧ q.epc = h.blk.addr ∧
      q.inh = true ∧ q.next = h.ctx.tvec ∧ q.block = none ∧ q.regs = h.ctx.regs) ∧
  (h.ctx.inh = true ∨ h.ctx.tvec = 0 →
    ∃ t q r, exec i s = .next t ∧ t.mem = s.mem ∧ t.ctx? h.c h.x = some q ∧ q.run ≠ .running ∧ q.block = none ∧
      q.regs = h.ctx.regs ∧ t.faultQ = s.faultQ ++ [r] ∧ r.cause = cause ∧ r.src = 0 ∧ r.fatal = true ∧
      r.info = h.blk.addr ∧
      ∀ a, s.alloc? h.ctx.alloc = some a → a.st ≠ .ended →
        ∃ a', t.alloc? h.ctx.alloc = some a' ∧ a'.st = .ending ∧ a'.aborting = true)

/-- A result computed in 64 bits, or in the low 32 and sign-extended (R205). -/
def byWidth (w : Bool) (f : (n : Nat) → BitVec n → BitVec n → BitVec n) (a b : Word) : Word :=
  if w then (f 32 (a.setWidth 32) (b.setWidth 32)).signExtend 64 else f 64 a b

/-- A test of the 64 bits or of the low 32: 1 or 0 (R216). -/
def testWidth (w : Bool) (f : (n : Nat) → BitVec n → BitVec n → Bool) (a b : Word) : Word :=
  if (if w then f 32 (a.setWidth 32) (b.setWidth 32) else f 64 a b) then 1 else 0

/-- The word of `h` is the only memory instruction of its block, and no LSID below its own waits (R183). -/
def MemAlone (h : Here) (i : Instr) (l : BitVec 5) : Prop :=
  ∃ f, encodeFields i = some f ∧ h.blk.memWords = [(h.k, f)] ∧ h.blk.waitOver = true ∧ h.blk.nulled = [] ∧
    h.k ∉ h.blk.issued ∧ ∀ j, j < l.toNat → h.blk.smask.getLsbD j = false

/-- The access at `addr` of the word of `h` passes the checks made before it reaches its home: form, alignment and bound
(R416), and, where the TLB holds the page, its permissions (R435). -/
def MemGoes (s : State) (h : Here) (k : AccKind) (size : Nat) (addr : Word) : Prop :=
  h.ctx.checkAddr {} addr size size = none ∧
    ∀ va e, addrForm addr = .virt va → (s.core h.c).tlb.find? (·.hits h.ctx.alloc va) = some e →
      ∃ pl, placeOf k (e.place va) e.attr e.rd e.wr = .ok pl

/-- `exec i` records one access of the word of `h`, and leaves memory, its tags and every g register as they were. -/
def Issues (s : State) (h : Here) (i : Instr) (l : BitVec 5) (k : AccKind) (size : Nat) (addr : Word)
    (data : List Byte) (acq rel : Bool) (sc : Scope) : Prop :=
  ∃ t a, exec i s = .next t ∧ t.accesses = s.accesses ++ [a] ∧ a.id = s.nextId ∧ a.kind = k ∧ a.addr = addr ∧
    a.size = size ∧ a.data = data ∧ a.acq = acq ∧ a.rel = rel ∧ a.scope = sc ∧ a.order = l.toNat ∧
    a.client = .body h.c h.x h.blk.num h.k ∧ t.mem = s.mem ∧ t.gran = s.gran ∧
    ∃ q, t.ctx? h.c h.x = some q ∧ q.regs = h.ctx.regs

/-- The word of `h`, whose bits are those of `i`, is the only engine instruction of its block, the block holds no memory
instruction, and unless the instruction is on events or semaphores, what earlier blocks stored to control-processor memory
has been performed (R153). -/
def EngineAlone (s : State) (p : Pred) (h : Here) (i : Instr) : Prop :=
  FiresAt s p h ∧ (∃ w, encode i = some w ∧ h.blk.words[h.k]? = some w) ∧ h.blk.ops = [] ∧ h.blk.done = [] ∧
    h.blk.issued = [] ∧ h.blk.memWords = [] ∧ (∀ j f, j ≠ h.k → h.blk.fields j = some f → isEngine f = false) ∧
    ∀ f, encodeFields i = some f → f.op = 0x64 ∨ s.recordsWritten h.c h.x h.blk.num = true

/-- The block after its engine instruction has been accepted with result v. -/
def Here.answered (h : Here) (i : Instr) (t0 : Target) (v : Word) : Block :=
  ({ h.blk.fireAs h.k i with done := [h.k], issued := [h.k] }).send t0 v

/-- The plain loads and stores, each with its kind, its size, and whether it acquires or releases (R217 to R222). -/
def plainMems (p : Pred) (l : BitVec 5) (imm : BitVec 9) (t0 : Target) : List (Instr × AccKind × Nat × Bool × Bool) :=
  [(.ldb p l imm t0, .load, 1, false, false), (.ldbx p l imm t0, .load, 1, false, false),
   (.ldh p l imm t0, .load, 2, false, false), (.ldhx p l imm t0, .load, 2, false, false),
   (.ldw p l imm t0, .load, 4, false, false), (.ldwx p l imm t0, .load, 4, false, false),
   (.ldd p l imm t0, .load, 8, false, false), (.lda p l imm t0, .load, 8, true, false),
   (.stb p l imm, .store, 1, false, false), (.sth p l imm, .store, 2, false, false),
   (.stw p l imm, .store, 4, false, false), (.std p l imm, .store, 8, false, false),
   (.stl p l imm, .store, 8, false, true)]

/-- The word at k of a block has the bits of `i`. -/
def WordIs (b : Block) (k : Nat) (i : Instr) : Prop := ∃ w, encode i = some w ∧ b.words[k]? = some w

/-- Every granule or line of a range belongs to generation g where it is tagged, and holds neither poison nor an error
(R129, R398, R462). -/
def OwnLines (s : State) (g : BitVec 12) (a n : Nat) : Prop :=
  ∀ l, l ∈ linesOf a n → (s.granule l).bad = false ∧ (s.granule l).poison = false ∧
    (taggedAt (l * 64) = true → (s.granule l).tag = g)

/-- A granted access stands at its home on its own die: it is translated, touches one line of ordinary memory at `pa`, and
has not been performed. -/
def AtHome (s : State) (a : Access) (pa : Nat) : Prop :=
  s.accesses = [a] ∧ a.place = some (pa, .normal) ∧ a.tail = none ∧ a.missing = none ∧ a.fault = none ∧ a.got = none ∧
    a.granted = true ∧ a.crossing = false ∧ a.homeDie = dieOf a.client.core ∧ pa % 64 + a.size ≤ 64 ∧ 0 < a.size ∧
    ∃ h, homeOf pa = some h ∧ h ≠ .regs

/-- Region lr of the member is region number rn of its core. -/
def RegionIs (s : State) (h : Here) (lr : BitVec 3) (rn : Nat) (r : Region) : Prop :=
  (s.core h.c).regionOf h.x lr.toNat = some (rn, r) ∧ s.region? h.c rn = some r

/-- The instruction is accepted with result v, and the step leads to t. -/
def Accepted (s t : State) (h : Here) (i : Instr) (t0 : Target) (v : Word) : Prop :=
  exec i s = .next t ∧ ∃ k, t.ctx? h.c h.x = some k ∧ k.block = some (h.answered i t0 v) ∧ k.regs = h.ctx.regs

/-- A command of a member's region is accepted at the end of its core's configuration path (R240), and memory is as it
was. -/
def OnPath (s : State) (h : Here) (i : Instr) (rn : Nat) (op : CfgOp) (tile evt : Bool) : Prop :=
  ∃ t, Accepted s t h i 0 0 ∧ t.mem = s.mem ∧ (t.core h.c).cfgPath = (s.core h.c).cfgPath ++
    [{ id := s.nextId, ctx := some h.x, region := rn, alloc := h.ctx.alloc, op, tile, evt }]

/-- The member of `h` needs no loader budget, or has some left and was not deferred (R326, R328). -/
def LoadsFreely (h : Here) : Prop :=
  16 ≤ h.ctx.stream.toNat ∨
    (h.blk.deferred.look h.k = none ∧ ∀ n, h.ctx.budget.load.limit = some n → h.ctx.budget.load.used < n)

/-- The engine instruction i of the block of `h` has fired and waits for its unit; the block has no other engine
instruction, no memory instruction and no fault. -/
structure EnginePending (s : State) (h : Here) (i : Instr) : Prop where
  ctx : s.ctx? h.c h.x = some h.ctx
  blk : h.ctx.block = some h.blk
  word : ∃ w, encode i = some w ∧ h.blk.words[h.k]? = some w
  fired : h.k ∈ h.blk.fired
  ops : h.blk.ops = [(h.k, i)]
  fresh : h.blk.done = [] ∧ h.blk.issued = [] ∧ h.blk.memWords = [] ∧ h.blk.faults = []
  alone : ∀ j f, j ≠ h.k → h.blk.fields j = some f → isEngine f = false
  written : ∀ f, encodeFields i = some f → f.op = 0x64 ∨ s.recordsWritten h.c h.x h.blk.num = true

/-- The block after that instruction has been accepted with result v. -/
def Here.accepted (h : Here) (t0 : Target) (v : Word) : Block :=
  ({ h.blk with done := [h.k], issued := [h.k] } : Block).send t0 v

/-- Element e of core c stands in region number rn of its core, which runs (R44, R46, R47). -/
def LiveElem (s : State) (c e rn : Nat) (r : Region) : Prop :=
  (s.core c).regionAt e = some (rn, r) ∧ r.live = true

/-- The lane `out` of element e leads to lane key of element n, in the region of number rn (R55). -/
def LeadsTo (s : State) (c e out n key rn : Nat) : Prop :=
  laneEnd e out = .elem n key ∧ ∃ m, (s.core c).regionAt n = some (rn, m)

/-- The tokens in the stage of an incoming lane. -/
def State.stageOf (s : State) (c e key : Nat) : List Token := ((s.elem c e).lane key).stage

/-- The record that a step leaves last in the fault queue. -/
def LastRecord (s t : State) (f : FaultRec) : Prop := t.faultQ = s.faultQ ++ [f]

/-! ## What statements about elements say -/

/-- Element e of core c stands in region number rn of its core, whose slot sl serves it and no other slot does; it fires
alone (R54), nothing waits to enter or leave it, every lane of its routes has space for one more token, and a pending
update more is no hindrance (R28, R34, R55, R61, R64). -/
structure ReadyElem (s : State) (c e rn : Nat) (r : Region) (sl : Nat) : Prop where
  region : (s.core c).regionAt e = some (rn, r)
  number : s.region? c rn = some r
  live : r.live = true
  slot : sl < 4
  serves : (r.slot sl).st = .current ∧ r.cur = sl ∧ r.drained = []
  others : ∀ x, x < 4 → x ≠ sl → (r.slot x).st = .idle
  open_ : s.throttled r = false
  alone : ((s.core c).cfg sl e).gang = 0
  works : ((s.core c).cfg sl e).works = true
  quiet : (s.elem c e).out = [] ∧ (s.elem c e).lanes = [] ∧ (s.latest c e ((s.ctx? c r.ctx).getD {}).gen).due = none
  unarmed : (s.core c).armedAt e = false
  room : ∀ l, l ∈ ((s.core c).cfg sl e).resultLanes → ∀ t, s.laneSpace c e l t = true
  updates : holdsIterations (s.core c) r sl e ((s.core c).cfg sl e) = true →
    (s.elem c e).pend.length < ((s.core c).cfg sl e).pend + 1

/-- The step of `i` is the firing fd of that element under slot sl. -/
def Fires (i : Instr) (s : State) (c e rn : Nat) (r : Region) (sl : Nat) (fd : Fired) : Prop :=
  exec i s = .next (s.applyFired rn r (s.viewOf c r sl e) fd).acted

/-- The operands of a computing operation are there, and none of them is an ERROR or poisoned. -/
def View.clean (v : View) : Prop := v.ready = true ∧ v.err v.ins = none

/-- The computed token of a payload (R61, R64). -/
def View.token (v : View) (pay : W32) : Token := v.result pay none

/-! ## What statements about packets and the host port say -/

/-- Packet p stands in the strip as queue q's, read and not started, and is of type ty. -/
structure InStrip (s : State) (q ty : Nat) (p : Packet) : Prop where
  cur : (s.queue q).cur = some p.id
  packet : s.packet? p.id = some p
  queue : p.queue = q
  st : p.st = .read
  type : p.type = ty

/-- Packet p has left the strip into state st, and its queue goes on or waits for it. -/
def LeftStrip (s t : State) (q : Nat) (p : Packet) (st : PacketState) (holds : Bool) : Prop :=
  t.packet? p.id = some { p with st } ∧
    t.queue q = { s.queue q with cur := none, infl := (s.queue q).infl + 1, waiting := holds }

/-- A 4-byte little-endian word of memory. -/
def State.word (s : State) (a : Nat) : Nat := leNat (Memory.readN s.mem a 4)

/-- Memory of t is that of s but for n bytes from a. -/
def SameBut (s t : State) (a n : Nat) : Prop :=
  ∀ y, ¬(a ≤ y ∧ y < a + n) → Memory.read t.mem y = Memory.read s.mem y

/-! ## What statements about numbers say: values in whole units of a format's last place -/

/-- A magnitude code as a number of the format's smallest subnormals, 2^(1 - bias - M) each (R80); codes beyond the largest
finite one go on as if the exponent had no end. -/
def FloatFmt.units (f : FloatFmt) (code : Nat) : Nat :=
  if code < 2 ^ f.mbits then code else (2 ^ f.mbits + code % 2 ^ f.mbits) * 2 ^ (code / 2 ^ f.mbits - 1)

def FloatFmt.mag (f : FloatFmt) (code : Nat) : Nat := code % f.signBit
def FloatFmt.neg (f : FloatFmt) (code : Nat) : Bool := code / f.signBit % 2 = 1
def FloatFmt.isInf (f : FloatFmt) (code : Nat) : Bool := f.infCode = some (f.mag code)
def FloatFmt.isNan (f : FloatFmt) (code : Nat) : Bool := f.maxCode < f.mag code && !f.isInf code

/-- A code of a sign and a magnitude. -/
def FloatFmt.signed (f : FloatFmt) (neg : Bool) (mag : Nat) : Nat := (if neg then f.signBit else 0) + mag
def FloatFmt.infinity (f : FloatFmt) (neg : Bool) : Nat := f.signed neg (f.infCode.getD f.maxCode)

/-- A subnormal becomes zero of its sign (R94). -/
def FloatFmt.flushed (f : FloatFmt) (on : Bool) (code : Nat) : Nat :=
  if on && f.mag code < 2 ^ f.mbits then f.signed (f.neg code) 0 else code

/-- The signed units of a finite code, and a code's place in the order of values in which both zeros are 0. -/
def FloatFmt.int (f : FloatFmt) (code : Nat) : Int :=
  if f.neg code then -(f.units (f.mag code) : Int) else f.units (f.mag code)
def FloatFmt.place (f : FloatFmt) (code : Nat) : Int := if f.neg code then -(f.mag code : Int) else f.mag code

/-- Is the upper of the two neighbours of an inexact magnitude the result (R91)? `half` compares the magnitude with the
middle of the two. Code 4 is RNA; the model rounds the reserved codes as it
(DESIGN CHOICE, log 130). -/
def takesUpper (mode : Nat) (neg lowerOdd : Bool) (half : Ordering) : Bool :=
  if mode = 0 then half = .gt || (half = .eq && lowerOdd)
  else if mode = 1 then false
  else if mode = 2 then neg
  else if mode = 3 then !neg
  else half ≠ .lt

/-- What stands beyond the largest finite magnitude (R92). -/
def FloatFmt.beyond (f : FloatFmt) (mode : Nat) (neg : Bool) : Nat :=
  if mode = 1 || (mode = 2 && !neg) || (mode = 3 && neg) then f.maxCode else f.infCode.getD f.maxCode

/-- r is the code to which a magnitude rounds once under the controls k (R91, R92, R94); `twice n` compares twice the
magnitude, in units of the format, with n. -/
def Rounds (f : FloatFmt) (k : FCtl) (neg : Bool) (twice : Nat → Ordering) (r : Nat) : Prop :=
  ∃ q m, twice (2 * f.units q) ≠ .lt ∧ twice (2 * f.units (q + 1)) = .lt ∧
    m = (if twice (2 * f.units q) ≠ .eq ∧
          takesUpper k.rnd neg (q % 2 = 1) (twice (f.units q + f.units (q + 1))) = true then q + 1 else q) ∧
    r = f.signed neg (if f.maxCode < m then f.beyond k.rnd neg else if k.ftz && m < 2 ^ f.mbits then 0 else m)

/-- The magnitudes num / den, √n and √(num / den), twice each, against n. -/
def twiceQuot (num den : Nat) (n : Nat) : Ordering := compare (2 * num) (n * den)
def twiceRoot (num den : Nat) (n : Nat) : Ordering := compare (4 * num) (n * n * den)

/-- A value num / den rounded to an integer (R91). -/
def rounded (mode : Nat) (num : Int) (den : Nat) : Int :=
  let q := num.natAbs / den
  let rest := num.natAbs % den
  let m : Nat := if rest ≠ 0 ∧ takesUpper mode (num < 0) (q % 2 = 1) (compare (2 * rest) den) = true then q + 1 else q
  if num < 0 then -(m : Int) else m

/-- The codes that F32 operations read under DAZ (R94). -/
def FCtl.reads (k : FCtl) (code : Nat) : Nat := f32.flushed k.daz code

/-- A signed number of units of 1 / den, rounded to F32; an exact zero takes the sign given. -/
def F32Exact (k : FCtl) (zeroNeg : Bool) (v : Int) (den : Nat) (r : Nat) : Prop :=
  (v = 0 → r = f32.signed zeroNeg 0) ∧ (v ≠ 0 → Rounds f32 k (v < 0) (twiceQuot v.natAbs den) r)

/-- round(x × y + z); `pn` and `zn` negate the product and z (R94, R291; IEEE 754-2019). -/
def F32Fused (k : FCtl) (pn zn : Bool) (a b c r : Nat) : Prop :=
  let x := k.reads a
  let y := k.reads b
  let z := k.reads c
  let ps := (f32.neg x != f32.neg y) != pn
  let zs := f32.neg z != zn
  let pInf := f32.isInf x || f32.isInf y
  let p : Int := f32.units (f32.mag x) * f32.units (f32.mag y)
  let u : Int := f32.units (f32.mag z) * 2 ^ 149
  if f32.isNan x || f32.isNan y || f32.isNan z then r = f32.nanCode
  else if pInf && (f32.mag x = 0 || f32.mag y = 0) then r = f32.nanCode
  else if pInf && f32.isInf z then r = if ps = zs then f32.infinity ps else f32.nanCode
  else if pInf then r = f32.infinity ps
  else if f32.isInf z then r = f32.infinity zs
  else F32Exact k (if ps = zs then ps else k.rnd = 2) ((if ps then -p else p) + (if zs then -u else u)) (2 ^ 149) r

/-- round(x + y), the second negated by `zn` (R235, R291; IEEE 754-2019). -/
def F32Sum (k : FCtl) (zn : Bool) (a b r : Nat) : Prop :=
  let x := k.reads a
  let y := k.reads b
  let xs := f32.neg x
  let ys := f32.neg y != zn
  if f32.isNan x || f32.isNan y then r = f32.nanCode
  else if f32.isInf x && f32.isInf y then r = if xs = ys then f32.infinity xs else f32.nanCode
  else if f32.isInf x then r = f32.infinity xs
  else if f32.isInf y then r = f32.infinity ys
  else F32Exact k (if xs = ys then xs else k.rnd = 2) (f32.int x + if zn then -f32.int y else f32.int y) 1 r

/-- round(x × y) (R235, R291). -/
def F32Product (k : FCtl) (a b r : Nat) : Prop :=
  let x := k.reads a
  let y := k.reads b
  let s := f32.neg x != f32.neg y
  let inf := f32.isInf x || f32.isInf y
  if f32.isNan x || f32.isNan y || (inf && (f32.mag x = 0 || f32.mag y = 0)) then r = f32.nanCode
  else if inf then r = f32.infinity s
  else Rounds f32 k s (twiceQuot (f32.units (f32.mag x) * f32.units (f32.mag y)) (2 ^ 149)) r

/-- round(x ÷ y) (R235). -/
def F32Quotient (k : FCtl) (a b r : Nat) : Prop :=
  let x := k.reads a
  let y := k.reads b
  let s := f32.neg x != f32.neg y
  if f32.isNan x || f32.isNan y || (f32.isInf x && f32.isInf y) || (f32.mag x = 0 && f32.mag y = 0) then r = f32.nanCode
  else if f32.isInf x || f32.mag y = 0 then r = f32.infinity s
  else if f32.isInf y then r = f32.signed s 0
  else Rounds f32 k s (twiceQuot (f32.units (f32.mag x) * 2 ^ 149) (f32.units (f32.mag y))) r

/-- round(√x) (R235). -/
def F32Root (k : FCtl) (a r : Nat) : Prop :=
  let x := k.reads a
  if f32.mag x = 0 then r = x
  else if f32.isNan x || f32.neg x then r = f32.nanCode
  else if f32.isInf x then r = f32.infinity false
  else Rounds f32 k false (twiceRoot (f32.units (f32.mag x) * 2 ^ 149) 1) r

/-- round(1 ÷ √x) (R291). -/
def F32InvRoot (k : FCtl) (a r : Nat) : Prop :=
  let x := k.reads a
  if f32.mag x = 0 then r = f32.infinity (f32.neg x)
  else if f32.isNan x || f32.neg x then r = f32.nanCode
  else if f32.isInf x then r = 0
  else Rounds f32 k false (twiceRoot (2 ^ 447) (f32.units (f32.mag x))) r

/-- The smaller or the larger, -0 below +0; the other operand when one alone is NaN (R235). -/
def f32Pick (k : FCtl) (larger : Bool) (a b : Nat) : Nat :=
  let x := k.reads a
  let y := k.reads b
  let key (c : Nat) : Int := if f32.neg c then f32.place c - 1 else f32.place c
  if f32.isNan x && f32.isNan y then f32.nanCode
  else f32.flushed k.ftz
    (if f32.isNan x then y else if f32.isNan y then x
     else if (if larger then key x < key y else key y < key x) then y else x)

/-- A comparison: `holds` of the places of two values that are no NaN (R236). -/
def f32Test (k : FCtl) (a b : Nat) (holds : Int → Int → Bool) : Bool :=
  !f32.isNan (k.reads a) && !f32.isNan (k.reads b) && holds (f32.place (k.reads a)) (f32.place (k.reads b))

/-- A conversion to an integer from lo to hi (R237). -/
def f32ToInt (k : FCtl) (lo hi : Int) (a : Nat) : Int :=
  let x := k.reads a
  if f32.isNan x then 0
  else if f32.isInf x then (if f32.neg x then lo else hi)
  else max lo (min hi (rounded k.rnd (f32.int x) (2 ^ 149)))

/-- A conversion between formats: a unit of g is num / den units of f (R237). -/
def Converts (k : FCtl) (g f : FloatFmt) (num den a r : Nat) : Prop :=
  let x := g.flushed k.daz a
  if g.isNan x then r = f.nanCode
  else if g.isInf x then r = f.infinity (g.neg x)
  else Rounds f k (g.neg x) (twiceQuot (g.units (g.mag x) * num) den) r

/-! ## What statements about accumulators say -/

def FVal.isNan : FVal → Bool
  | .nan => true
  | _ => false
def FVal.isInf : FVal → Bool
  | .inf _ => true
  | _ => false
def FVal.isNeg : FVal → Bool
  | .inf neg => neg
  | .fin neg _ _ => neg
  | .nan => false

/-- An integer as an operand of the matrix path. -/
def wholeVal (x : Int) : FVal := .fin (x < 0) x.natAbs 0

/-- An infinity enters the sum: one operand is infinite, and the other is neither zero nor NaN (R98). -/
def infTerm (a b : FVal) : Bool := (a.isInf && !b.isZero && !b.isNan) || (b.isInf && !a.isZero && !a.isNan)

/-- a × b × 2^(k + 300), mod 2^640, of finite operands; anything else adds nothing (R98). -/
def exactTerm (k : Int) (a b : FVal) : BitVec 640 :=
  match a, b with
  | .fin s m e, .fin t n f =>
    let p : Int := m * n * 2 ^ (e + f + k + 300).toNat
    BitVec.ofInt 640 (if s = t then p else -p)
  | _, _ => 0

/-- r is the code that the value of an accumulator, V × 2^-300, takes in a float format (R102). -/
def DrainsFloat (f : FloatFmt) (a : Xa) (r : Nat) : Prop :=
  if a.guarded || a.nan || (a.pinf && a.ninf) then r = f.nanCode
  else if a.pinf then r = f.infinity false
  else if a.ninf then r = f.infinity true
  else if a.v = 0 then r = 0
  else Rounds f ⟨a.drnd.toNat, false, a.dftz⟩ (a.v.toInt < 0)
    (twiceQuot a.v.toInt.natAbs (2 ^ (301 - f.bias - f.mbits))) r

/-- The integer from lo to hi that the value of an accumulator becomes (R102). -/
def Xa.toWhole (a : Xa) (lo hi : Int) : Int :=
  if a.guarded then (if a.v.toInt < 0 then lo else hi)
  else if a.nan || (a.pinf && a.ninf) then 0
  else if a.pinf then hi
  else if a.ninf then lo
  else max lo (min hi (rounded a.drnd.toNat a.v.toInt (2 ^ 300)))

/-- `pay` is what the accumulator drains to in its latched format (R71, R102). -/
def DrainsTo (a : Xa) (pay : W32) : Prop :=
  (∀ n f, (n, f) ∈ [(0, f32), (1, bf16), (2, fp16), (3, e4m3), (4, e5m2)] → a.dfmt.toNat = n → DrainsFloat f a pay.toNat) ∧
  (a.dfmt = 5 → pay = BitVec.ofInt 32 (a.toWhole (-2 ^ 31) (2 ^ 31 - 1))) ∧
  (a.dfmt = 6 → pay = BitVec.ofInt 32 (a.toWhole (-2 ^ 15) (2 ^ 15 - 1)))

/-- An accumulator emptied of everything but GEN and its latched fields (R95, R102). -/
def Xa.latchedOnly (a : Xa) : Xa := { gen := a.gen, dfmt := a.dfmt, drnd := a.drnd, dftz := a.dftz, klen := a.klen }

/-- Dword i of the bytes of a record. -/
def recordWord (bs : List Byte) (i : Nat) : Nat := leNat ((bs.drop (8 * i)).take 8)

/-- The exclusive-or of a record's dwords 0 to 10. -/
def recordCheck (bs : List Byte) : Nat := ((List.range 11).map (recordWord bs)).foldl (· ^^^ ·) 0

/-- A record that is accepted: CHECK agrees, the reserved bits are 0, DFMT and DRND are defined codes (R433). -/
def RecordGood (bs : List Byte) : Prop :=
  recordWord bs 11 = recordCheck bs ∧ recordWord bs 10 / 2 ^ 28 % 16 = 0 ∧ recordWord bs 10 / 2 ^ 12 % 16 = 0 ∧
    recordWord bs 10 / 16 % 16 ≤ 6 ∧ recordWord bs 10 / 256 % 8 ≤ 4

/-- The 96 bytes that a spill writes (R104). -/
def SpillsAs (a : Xa) (bs : List Byte) : Prop :=
  bs.length = 96 ∧ recordWord bs 11 = recordCheck bs ∧ BitVec.ofNat 640 (leNat (bs.take 80)) = a.v ∧
    BitVec.ofNat 64 (recordWord bs 10) = a.count ++ (0#4) ++ a.gen ++ (0#4) ++ BitVec.ofBool a.dftz ++ a.drnd ++ a.dfmt ++
      BitVec.ofBool a.guarded ++ BitVec.ofBool a.ninf ++ BitVec.ofBool a.pinf ++ BitVec.ofBool a.nan

/-- V[639:631] are not all equal (R96). -/
def beyondGuard (v : BitVec 640) : Bool := !(v.extractLsb' 631 9 == 0 || v.extractLsb' 631 9 == BitVec.allOnes 9)

/-- `b` is the accumulator `a` after an XA.FILL of the record bs, read with or without poison, under generation g and F27
(R105, R402, R433). -/
def FillsTo (a b : Xa) (bs : List Byte) (poisoned : Bool) (g : BitVec 12) (f27 : BitVec 16) : Prop :=
  let w := BitVec.ofNat 64 (recordWord bs 10)
  (RecordGood bs → b.v = BitVec.ofNat 640 (leNat (bs.take 80)) ∧ b.nan = w.getLsbD 0 ∧ b.pinf = w.getLsbD 1 ∧
    b.ninf = w.getLsbD 2 ∧ b.guarded = (w.getLsbD 3 || beyondGuard b.v) ∧ b.count = w.extractLsb' 32 32 ∧
    b.dfmt = w.extractLsb' 4 4 ∧ b.drnd = w.extractLsb' 8 3 ∧ b.dftz = w.getLsbD 11 ∧ b.klen = f27 ∧ b.gen = g ∧
    b.poison = poisoned) ∧
  (¬RecordGood bs → b = { a.latchedOnly with gen := g, poison := true })

/-- `b` is the accumulator `a` after an XA.MERGE (R97, R106, R402, R433). -/
def MergesTo (a b : Xa) (bs : List Byte) (poisoned : Bool) (g : BitVec 12) : Prop :=
  let w := BitVec.ofNat 64 (recordWord bs 10)
  let o := if a.gen = g then a else { a.latchedOnly with gen := g }
  (RecordGood bs → ∃ v, v = o.v + BitVec.ofNat 640 (leNat (bs.take 80)) ∧
    b = { o with v, nan := o.nan || w.getLsbD 0, pinf := o.pinf || w.getLsbD 1, ninf := o.ninf || w.getLsbD 2,
                 guarded := o.guarded || w.getLsbD 3 || beyondGuard v,
                 count := BitVec.ofNat 32 (min (o.count.toNat + (w.extractLsb' 32 32).toNat) 0xFFFFFFFF),
                 poison := o.poison || poisoned }) ∧
  (¬RecordGood bs → b = { o with poison := true })

/-- The command `x` has acted at element e for good: neither it nor any other of its number names e again (R268). -/
def ActedAt (t : State) (c e : Nat) (x : XaCmd) : Prop :=
  ∀ y, y ∈ (t.core c).xaCmds → y.cmd.id = x.cmd.id → e ∉ y.armed ∧ ∀ p, p ∈ y.left → p.1 ≠ e

/-- Accesses for record or word k of command x, at element e, enter the machine, line by line in ascending order (R138,
R269). -/
def XaAsks (s t : State) (c e k : Nat) (x : XaCmd) (size : Nat) (at_ : Word) (kind : AccKind) (bs : List Byte)
    (poisoned : Bool) : Prop :=
  ∃ xs, t.accesses = s.accesses ++ xs ∧
    xs.map (fun a => (a.client, a.kind, a.addr, a.data, a.poisoned)) =
      (lineParts at_.toNat (size + 1) 0 size).map fun p =>
        (Client.xa c e x.cmd.id k p.1, kind, at_ + BitVec.ofNat 64 p.1, (bs.drop p.1).take p.2, poisoned)

/-- The bytes bs for record or word k of command x are written when it is its turn, and kept until then (R269). -/
def XaWrites (s t : State) (c e k : Nat) (x : XaCmd) (size : Nat) (base : Word) (bs : List Byte) (poisoned : Bool) :
    Prop :=
  (x.nextK = k → XaAsks s t c e k x size (base + BitVec.ofNat 64 (size * k)) .store bs poisoned) ∧
  (x.nextK ≠ k → t.accesses = s.accesses ∧ ∃ y w, y ∈ (t.core c).xaCmds ∧ y.outbox = [(k, w)] ∧ w.bytes = bs ∧
    w.poisoned = poisoned)

/-! ## What statements about freezing say -/

/-- The tables of allocation a map n bytes from va to DRAM from pa, writably and NORMAL, line by line, and go on doing so
whatever those n bytes become (R120 to R122). -/
def MapsImage (s : State) (c a va pa n : Nat) : Prop :=
  pa % 64 = 0 ∧ (∀ i, 64 * i < n → ∃ d, homeOf (pa + 64 * i) = some (.dram d)) ∧
    ∀ u i rc, u.alloc? a = s.alloc? a → SameBut s u pa n →
      (∀ l, 64 * l < pa ∨ pa + n ≤ 64 * l → u.granule l = s.granule l) → 64 * i < n →
      u.linePlace c a (va + 64 * i) true rc = (u, .ok (pa + 64 * i, .normal))

/-- `w` is what an element v of an image under generation `old` becomes under `new`, its accumulator with F27 (R46, R105,
R410). -/
def Reinstalled (v w : Elem) (old new : BitVec 12) (f27 : BitVec 16) : Prop :=
  let z := if v.priv.xa.gen = old then v.priv.xa else v.priv.xa.latchedOnly
  w.lanes = v.lanes ∧ w.bufA = v.bufA ∧ w.bufB = v.bufB ∧ w.bufC = v.bufC ∧ w.out = v.out ∧ w.drains = v.drains ∧
    w.priv.op = v.priv.op ∧ w.pend.length = v.pend.length ∧
    w.priv.own = (if v.priv.own.tag = old then { v.priv.own with tag := new } else { tag := new }) ∧
    w.priv.ctr = (if v.priv.ctr.tag = old then { v.priv.ctr with tag := new } else { tag := new }) ∧
    w.priv.xa = { z with gen := new, klen := f27, guarded := z.guarded || beyondGuard z.v }

end Sys2Proof.Machine
end

