-- ==== Sys2Proof/Certificates/Slice0/Obligations.lean ====
section
/-! DEFINITION. The statements for the provers, one definition each. The rules they follow are named beside each. -/

open Sys2Proof Sys2Proof.Machine

/-! ## Words and their decoding -/

/-- For every well-formed body instruction, decoding its word gives it back, with every operand at every value the
encoding admits (R176 to R180, R205 to R239). -/
def Obligations.DecodeOfEncode : Prop :=
  ∀ (i : Instr) (w : W32), wellFormed i = true → encode i = some w → decode w = .ok i

/-- Every body word that decodes is the word of the instruction it decodes to: each word has one meaning, and no bit
of it is read as nothing (R176 to R180, R413). -/
def Obligations.EncodeOfDecode : Prop :=
  ∀ (w : W32) (i : Instr), decode w = .ok i → encode i = some w

/-- Words that decode to nothing: those under a reserved opcode, each of them, are RSVOP whatever their other bits
are, and no word under predicate 11 decodes (R176, R179, R413). -/
def Obligations.ReservedWordsRejected : Prop :=
  (∀ (w : W32) (n : Nat), n = (unpack w).op.toNat →
    n = 0 ∨ (0x09 ≤ n ∧ n ≤ 0x0F) ∨ (0x13 ≤ n ∧ n ≤ 0x1F) ∨ (0x21 ≤ n ∧ n ≤ 0x2F) ∨ (0x32 ≤ n ∧ n ≤ 0x3F) ∨ n = 0x4F ∨
      (0x5A ≤ n ∧ n ≤ 0x5F) ∨ (0x65 ≤ n ∧ n ≤ 0x6F) ∨ 0x73 ≤ n →
    decode w = .error .reservedOp) ∧
  (∀ (w : W32) (i : Instr), (unpack w).p = 3 → decode w ≠ .ok i)

/-- Words written out from the encoding tables decode to their instructions: ADDI.w with -1, READ g3 to two operands,
LDD, STW, BRI, CSRR, AMOCAS, CFG.SWAP and FADD (R176 to R180, R208, R210, R217, R223, R228, R233, R239, R234). -/
def Obligations.WordsFromTables : Prop :=
  decode 0x4043FE81#32 = .ok (.addi .always true 0x1FF#9 0x081#9) ∧
  decode 0x020F0302#32 = .ok (.read .always 3 0x181#9 0x102#9) ∧
  decode 0x8C941100#32 = .ok (.ldd .onTrue 5 0x008#9 0x100#9) ∧
  decode 0x94040800#32 = .ok (.stw .always 1 0x004#9) ∧
  decode 0xA0000004#32 = .ok (.bri .always 0 4#20) ∧
  decode 0xB0006081#32 = .ok (.csrr .always 0x030#12 0x081#9) ∧
  decode 0x9A0A7F01#32 = .ok (.amocas .always 2 .ar .system 0x101#9) ∧
  decode 0xC0097085#32 = .ok (.cfgSwap .always 2 3 true false 0x085#9) ∧
  decode 0xE1010200#32 = .ok (.fadd .onFalse 0x081#9 0)

/-! ## The step -/

/-- A step whose agenda names a context fires the lowest ready body word of the context's block in the context's turn:
it decodes the word and executes it there, the core noting which context it has served (logs 2 and 125); out of its
turn the context waits. A step whose agenda names a step of the table executes that one (log 2). -/
def Obligations.StepRunsDecodedWord : Prop :=
  (∀ (s u : State) (c x : Nat) (ms : List Move) (k : Nat) (w : W32) (i : Instr),
    s.agenda = .cp c x :: ms → u = { s with agenda := ms } → u.readyWord c x = some (k, w) → decode w = .ok i →
      step s = if u.fireTurn c x then exec i ((u.served c x k).atWord c x k) else .next u) ∧
  (∀ (s : State) (ms : List Move) (i : Instr),
    s.agenda = .ev i :: ms → step s = exec i { s with agenda := ms })

/-- A word placed where the step takes its next instruction from is executed by the very next step, in every state of
the machine: the slots it takes are full and its predicate is met (log 2). -/
def Obligations.PlacedWordRuns : Prop :=
  ∀ (s : State) (n w : Nat) (i : Instr), decode (BitVec.ofNat 32 w) = .ok i →
    step (s.withFetchWord n w) =
      exec i ((({ s.placeWord (BitVec.ofNat 32 w) with agenda := [] } : State).served 0 0 0).atWord 0 0 0)

/-- Whenever a step of the machine leads on, memory stays in its canonical form: the addresses listed rise strictly
and none is listed with the byte that an unlisted address reads as (which byte that is, log 4 chooses). -/
def Obligations.StepKeepsMemory : Prop :=
  ∀ s t : State, MemOk s → step s = .next t → MemOk t

/-- Reset memory has the canonical form: it lists nothing (log 4). -/
def Obligations.ResetMemory : Prop := MemOk State.reset

/-! ## Integer instructions -/

/-- R211: the results of ADD to MAXU in both widths, for all operands; firing sends the result to the two targets and
does nothing else. -/
def Obligations.ArithmeticResults : Prop :=
  ∀ (p : Pred) (w : Bool) (t0 t1 : Target) (s : State) (h : Here) (a b : Word),
    FiresAt s p h → h.a = some a → h.b = some b →
    exec (.add p w t0 t1) s = .next (s.sends h t0 t1 (byWidth w (fun _ x y => x + y) a b)) ∧
    exec (.sub p w t0 t1) s = .next (s.sends h t0 t1 (byWidth w (fun _ x y => x - y) a b)) ∧
    exec (.mul p w t0 t1) s = .next (s.sends h t0 t1 (byWidth w (fun _ x y => x * y) a b)) ∧
    exec (.mulh p w t0 t1) s = .next (s.sends h t0 t1
      (byWidth w (fun n x y => (x.signExtend (2 * n) * y.signExtend (2 * n)).extractLsb' n n) a b)) ∧
    exec (.mulhu p w t0 t1) s = .next (s.sends h t0 t1
      (byWidth w (fun n x y => (x.setWidth (2 * n) * y.setWidth (2 * n)).extractLsb' n n) a b)) ∧
    exec (.div p w t0 t1) s = .next (s.sends h t0 t1
      (byWidth w (fun n x y => if y = 0 then BitVec.allOnes n else x.sdiv y) a b)) ∧
    exec (.divu p w t0 t1) s = .next (s.sends h t0 t1
      (byWidth w (fun n x y => if y = 0 then BitVec.allOnes n else x / y) a b)) ∧
    exec (.rem p w t0 t1) s = .next (s.sends h t0 t1
      (byWidth w (fun _ x y => if y = 0 then x else x.srem y) a b)) ∧
    exec (.remu p w t0 t1) s = .next (s.sends h t0 t1
      (byWidth w (fun _ x y => if y = 0 then x else x % y) a b)) ∧
    exec (.min p w t0 t1) s = .next (s.sends h t0 t1 (byWidth w (fun _ x y => if x.sle y then x else y) a b)) ∧
    exec (.max p w t0 t1) s = .next (s.sends h t0 t1 (byWidth w (fun _ x y => if x.sle y then y else x) a b)) ∧
    exec (.minu p w t0 t1) s = .next (s.sends h t0 t1 (byWidth w (fun _ x y => if x ≤ y then x else y) a b)) ∧
    exec (.maxu p w t0 t1) s = .next (s.sends h t0 t1 (byWidth w (fun _ x y => if x ≤ y then y else x) a b))

/-- R212: the results of AND to BFX; shift and rotate counts are all 64 bits of B in both widths. -/
def Obligations.LogicResults : Prop :=
  ∀ (p : Pred) (w : Bool) (t0 t1 : Target) (s : State) (h : Here) (a b : Word),
    FiresAt s p h → h.a = some a → h.b = some b →
    exec (.and p w t0 t1) s = .next (s.sends h t0 t1 (byWidth w (fun _ x y => x &&& y) a b)) ∧
    exec (.or p w t0 t1) s = .next (s.sends h t0 t1 (byWidth w (fun _ x y => x ||| y) a b)) ∧
    exec (.xor p w t0 t1) s = .next (s.sends h t0 t1 (byWidth w (fun _ x y => x ^^^ y) a b)) ∧
    exec (.andn p w t0 t1) s = .next (s.sends h t0 t1 (byWidth w (fun _ x y => x &&& ~~~y) a b)) ∧
    exec (.orn p w t0 t1) s = .next (s.sends h t0 t1 (byWidth w (fun _ x y => x ||| ~~~y) a b)) ∧
    exec (.shl p w t0 t1) s = .next (s.sends h t0 t1
      (byWidth w (fun n x _ => if n ≤ b.toNat then 0 else x <<< b.toNat) a b)) ∧
    exec (.shr p w t0 t1) s = .next (s.sends h t0 t1
      (byWidth w (fun n x _ => if n ≤ b.toNat then 0 else x >>> b.toNat) a b)) ∧
    exec (.sra p w t0 t1) s = .next (s.sends h t0 t1 (byWidth w (fun n x _ => x.sshiftRight (min b.toNat n)) a b)) ∧
    exec (.rol p w t0 t1) s = .next (s.sends h t0 t1 (byWidth w (fun n x _ => x.rotateLeft (b.toNat % n)) a b)) ∧
    exec (.ror p w t0 t1) s = .next (s.sends h t0 t1 (byWidth w (fun n x _ => x.rotateRight (b.toNat % n)) a b)) ∧
    exec (.bfx p w t0 t1) s = .next (s.sends h t0 t1 (byWidth w (fun n x _ =>
      if n ≤ b.toNat % 256 then 0
      else BitVec.ofNat n (x.toNat / 2 ^ (b.toNat % 256) % 2 ^ (b.toNat / 256 % 256))) a b))

/-- R213: bit counts, reversals, negation and extensions of one operand. -/
def Obligations.UnaryResults : Prop :=
  ∀ (p : Pred) (w : Bool) (t0 t1 : Target) (s : State) (h : Here) (a : Word),
    FiresAt s p h → h.a = some a →
    exec (.clz p w t0 t1) s = .next (s.sends h t0 t1
      (byWidth w (fun n x _ => BitVec.ofNat n (if x = 0 then n else n - 1 - x.toNat.log2)) a 0)) ∧
    exec (.ctz p w t0 t1) s = .next (s.sends h t0 t1
      (byWidth w (fun n x _ => BitVec.ofNat n ((List.range n).takeWhile fun i => !x.getLsbD i).length) a 0)) ∧
    exec (.popc p w t0 t1) s = .next (s.sends h t0 t1
      (byWidth w (fun n x _ => BitVec.ofNat n ((List.range n).countP fun i => x.getLsbD i)) a 0)) ∧
    exec (.brev p w t0 t1) s = .next (s.sends h t0 t1 (byWidth w (fun _ x _ => x.reverse) a 0)) ∧
    exec (.bswap p w t0 t1) s = .next (s.sends h t0 t1
      (if w then (a.extractLsb' 0 8 ++ a.extractLsb' 8 8 ++ a.extractLsb' 16 8 ++ a.extractLsb' 24 8).signExtend 64
       else a.extractLsb' 0 8 ++ a.extractLsb' 8 8 ++ a.extractLsb' 16 8 ++ a.extractLsb' 24 8
        ++ a.extractLsb' 32 8 ++ a.extractLsb' 40 8 ++ a.extractLsb' 48 8 ++ a.extractLsb' 56 8)) ∧
    exec (.neg p w t0 t1) s = .next (s.sends h t0 t1 (byWidth w (fun _ x _ => -x) a 0)) ∧
    exec (.not p w t0 t1) s = .next (s.sends h t0 t1 (byWidth w (fun _ x _ => ~~~x) a 0)) ∧
    exec (.sext8 p w t0 t1) s = .next (s.sends h t0 t1 (byWidth w (fun n x _ => (x.setWidth 8).signExtend n) a 0)) ∧
    exec (.sext16 p w t0 t1) s = .next (s.sends h t0 t1 (byWidth w (fun n x _ => (x.setWidth 16).signExtend n) a 0)) ∧
    exec (.sext32 p w t0 t1) s = .next (s.sends h t0 t1 (byWidth w (fun n x _ => (x.setWidth 32).signExtend n) a 0)) ∧
    exec (.zext8 p w t0 t1) s = .next (s.sends h t0 t1 (byWidth w (fun n x _ => (x.setWidth 8).setWidth n) a 0)) ∧
    exec (.zext16 p w t0 t1) s = .next (s.sends h t0 t1 (byWidth w (fun n x _ => (x.setWidth 16).setWidth n) a 0)) ∧
    exec (.zext32 p w t0 t1) s = .next (s.sends h t0 t1 (byWidth w (fun n x _ => (x.setWidth 32).setWidth n) a 0))

/-- R214: an immediate form computes as the two-operand form with B := sext9(IMM9), and SHLI, SHRI and SRAI take all
64 bits of that value as the count. -/
def Obligations.ImmediateResults : Prop :=
  ∀ (p : Pred) (w : Bool) (imm : BitVec 9) (t0 : Target) (s : State) (h : Here) (a : Word),
    FiresAt s p h → h.a = some a →
    exec (.addi p w imm t0) s = .next (s.sends h t0 0 (byWidth w (fun _ x y => x + y) a (imm.signExtend 64))) ∧
    exec (.andi p w imm t0) s = .next (s.sends h t0 0 (byWidth w (fun _ x y => x &&& y) a (imm.signExtend 64))) ∧
    exec (.ori p w imm t0) s = .next (s.sends h t0 0 (byWidth w (fun _ x y => x ||| y) a (imm.signExtend 64))) ∧
    exec (.xori p w imm t0) s = .next (s.sends h t0 0 (byWidth w (fun _ x y => x ^^^ y) a (imm.signExtend 64))) ∧
    exec (.shli p w imm t0) s = .next (s.sends h t0 0 (byWidth w (fun n x _ =>
      if n ≤ (imm.signExtend 64 : Word).toNat then 0 else x <<< (imm.signExtend 64 : Word).toNat) a 0)) ∧
    exec (.shri p w imm t0) s = .next (s.sends h t0 0 (byWidth w (fun n x _ =>
      if n ≤ (imm.signExtend 64 : Word).toNat then 0 else x >>> (imm.signExtend 64 : Word).toNat) a 0)) ∧
    exec (.srai p w imm t0) s = .next (s.sends h t0 0 (byWidth w (fun n x _ =>
      x.sshiftRight (min (imm.signExtend 64 : Word).toNat n)) a 0)) ∧
    exec (.muli p w imm t0) s = .next (s.sends h t0 0 (byWidth w (fun _ x y => x * y) a (imm.signExtend 64)))

/-- R216: tests yield 1 or 0, signed or unsigned, over the low 32 bits in the form with .w. -/
def Obligations.TestResults : Prop :=
  ∀ (p : Pred) (w : Bool) (t0 t1 : Target) (imm : BitVec 9) (s : State) (h : Here) (a : Word),
    FiresAt s p h → h.a = some a →
    (∀ b, h.b = some b →
      exec (.teq p w t0 t1) s = .next (s.sends h t0 t1 (testWidth w (fun _ x y => x == y) a b)) ∧
      exec (.tne p w t0 t1) s = .next (s.sends h t0 t1 (testWidth w (fun _ x y => x != y) a b)) ∧
      exec (.tlt p w t0 t1) s = .next (s.sends h t0 t1 (testWidth w (fun _ x y => x.slt y) a b)) ∧
      exec (.tle p w t0 t1) s = .next (s.sends h t0 t1 (testWidth w (fun _ x y => x.sle y) a b)) ∧
      exec (.tltu p w t0 t1) s = .next (s.sends h t0 t1 (testWidth w (fun _ x y => x.ult y) a b)) ∧
      exec (.tleu p w t0 t1) s = .next (s.sends h t0 t1 (testWidth w (fun _ x y => x.ule y) a b))) ∧
    exec (.teqi p w imm t0) s = .next (s.sends h t0 0 (testWidth w (fun _ x y => x == y) a (imm.signExtend 64))) ∧
    exec (.tnei p w imm t0) s = .next (s.sends h t0 0 (testWidth w (fun _ x y => x != y) a (imm.signExtend 64))) ∧
    exec (.tlti p w imm t0) s = .next (s.sends h t0 0 (testWidth w (fun _ x y => x.slt y) a (imm.signExtend 64))) ∧
    exec (.tlei p w imm t0) s = .next (s.sends h t0 0 (testWidth w (fun _ x y => x.sle y) a (imm.signExtend 64))) ∧
    exec (.tgti p w imm t0) s = .next (s.sends h t0 0 (testWidth w (fun _ x y => y.slt x) a (imm.signExtend 64))) ∧
    exec (.tgei p w imm t0) s = .next (s.sends h t0 0 (testWidth w (fun _ x y => y.sle x) a (imm.signExtend 64))) ∧
    exec (.tltui p w imm t0) s = .next (s.sends h t0 0 (testWidth w (fun _ x y => x.ult y) a (imm.signExtend 64))) ∧
    exec (.tgtui p w imm t0) s = .next (s.sends h t0 0 (testWidth w (fun _ x y => y.ult x) a (imm.signExtend 64)))

/-! ## Registers, constants and moves -/

/-- R129, R130, R182, R209, R415 and R462: READ yields the register as the block found it; a register of another
generation reads as zero, or, under STRICT, abandons the block with 0x24, and a poisoned one with 0x25 (that READ
traps so under STRICT, and the TVAL of the two traps, are the model's choice, logs 112 and 14). WRITE and NULLW
resolve a register that nothing has resolved, and fault with 0x08 otherwise; no register changes before commit. MOVI,
APPI, MOV and SEL yield their values. -/
def Obligations.MovesAndRegisters : Prop :=
  ∀ (p : Pred) (g : BitVec 5) (t0 t1 : Target) (imm : BitVec 14) (s : State) (h : Here) (a : Word),
    FiresAt s p h →
    ((h.ctx.reg g.toNat).tag = h.ctx.gen → (h.ctx.reg g.toNat).poison = false →
      exec (.read p g t0 t1) s = .next (s.sends h t0 t1 (h.ctx.reg g.toNat).val)) ∧
    ((h.ctx.reg g.toNat).tag ≠ h.ctx.gen → h.ctx.strict = false →
      exec (.read p g t0 t1) s = .next (s.sends h t0 t1 0)) ∧
    (∀ cause : BitVec 8, ((h.ctx.reg g.toNat).tag ≠ h.ctx.gen ∧ h.ctx.strict = true ∧ cause = 0x24) ∨
        ((h.ctx.reg g.toNat).tag = h.ctx.gen ∧ (h.ctx.reg g.toNat).poison = true ∧ cause = 0x25) →
      AbandonsWith s h (.read p g t0 t1) cause) ∧
    exec (.movi p imm t0) s = .next (s.sends h t0 0 (imm.signExtend 64)) ∧
    (h.blk.regw.look g.toNat = none →
      exec (.nullw p g) s = .next (s.withBlock h
        { h.blk.fire h.k with regw := h.blk.regw.put g.toNat none })) ∧
    ((h.blk.regw.look g.toNat).isSome = true →
      AbandonsWith s h (.nullw p g) 0x08 ∧ (h.a.isSome = true → AbandonsWith s h (.write p g) 0x08)) ∧
    (h.a = some a →
      exec (.mov p t0 t1) s = .next (s.sends h t0 t1 a) ∧
      exec (.appi p imm t0) s = .next (s.sends h t0 0 (a <<< 14 + imm.setWidth 64)) ∧
      (h.blk.regw.look g.toNat = none →
        exec (.write p g) s = .next (s.withBlock h
          { h.blk.fire h.k with regw := h.blk.regw.put g.toNat (some a) })) ∧
      ∀ b sel, p = .always → h.b = some b → h.blk.slotP.look h.k = some sel →
        exec (.sel t0 t1) s = .next (s.sends h t0 t1 (if sel.getLsbD 0 then a else b)))

/-- R171 to R173, R233 and R354: what CSRR yields under every number of the table: STATUS and FPCTL by their fields,
the other registers of the context as they stand, which is as they stood when the block began since a CSRW waits for
the commit, and of CYCLE, MARKCNT and MARKKIND what the block took when it was fetched. Allocation identifiers have 8
bits; which FEAT0 a core has that no image has set is the model's choice (log 6). CSRW keeps A for commit. -/
def Obligations.ControlRegisters : Prop :=
  ∀ (p : Pred) (n : BitVec 12) (t0 : Target) (s : State) (h : Here),
    FiresAt s p h →
    (∃ v, exec (.csrr p n t0) s = .next (s.sends h t0 0 v) ∧
      (n = 0x000 → v.extractLsb' 12 3 = h.ctx.lexit ∧ v.getLsbD 8 = h.ctx.inh ∧ v.getLsbD 4 = h.ctx.strict ∧
        v.extractLsb' 2 2 = BitVec.ofNat 2 h.x ∧ v &&& ~~~0x711C = 0) ∧
      (n = 0x001 → v = h.ctx.cause.setWidth 64) ∧ (n = 0x002 → v = h.ctx.epc) ∧ (n = 0x003 → v = h.ctx.tval) ∧
      (n = 0x004 → v = h.ctx.tvec) ∧ (n = 0x008 → v = h.ctx.gen.setWidth 64) ∧
      (n = 0x009 → h.ctx.alloc < 256 → v = BitVec.ofNat 64 h.ctx.alloc) ∧
      (n = 0x00A → v = h.ctx.stream.setWidth 64) ∧ (n = 0x00B → v = BitVec.ofNat 64 h.c) ∧
      (n = 0x00C → v = BitVec.ofNat 64 (dieOf h.c)) ∧
      (n = 0x010 → ∀ f, s.feat0.look h.c = some f → v = f) ∧ (n = 0x011 → v = 0) ∧
      (n = 0x020 → v = h.blk.cycle) ∧ (n = 0x021 → v = h.blk.markcnt) ∧ (n = 0x022 → v = h.blk.markkind) ∧
      (n = 0x030 → v.getLsbD 4 = h.ctx.ftz ∧ v.getLsbD 3 = h.ctx.daz ∧ v.extractLsb' 0 3 = h.ctx.rnd ∧
        v &&& ~~~0x1F = 0) ∧
      (n = 0x040 → v = h.ctx.seed0) ∧ (n = 0x041 → v = h.ctx.seed1) ∧
      (∀ i, i < 16 → n = BitVec.ofNat 12 (0x100 + i) → v = h.ctx.scratch.lookD i 0)) ∧
    (∀ a, h.a = some a →
      exec (.csrw p n) s = .next (s.withBlock h
        { h.blk.fire h.k with csrw := h.blk.csrw.put h.k (n, a) }))

/-! ## F32 instructions -/

/-- R80 to R94, R234 to R237, R291 and R292: what the F32 instructions send, bits 63:32 zero, and the words of the F32
operations of elements, each rounded once from the exact result under the controls of FPCTL or F15; the conversions
saturate. Of FEXP2 and FLOG2 the statement has the special values, the integers and the powers of two. -/
def Obligations.FloatResults : Prop :=
  (∀ (p : Pred) (t0 t1 : Target) (s : State) (h : Here) (a : Word) (k : FCtl) (x : Nat),
    FiresAt s p h → h.a = some a → k = h.ctx.fctl → x = a.toNat % 2 ^ 32 →
    (∀ b y, h.b = some b → y = b.toNat % 2 ^ 32 →
      SendsLow s h (.fadd p t0 t1) t0 t1 32 (F32Sum k false x y) ∧
      SendsLow s h (.fsub p t0 t1) t0 t1 32 (F32Sum k true x y) ∧
      SendsLow s h (.fmul p t0 t1) t0 t1 32 (F32Product k x y) ∧
      SendsLow s h (.fdiv p t0 t1) t0 t1 32 (F32Quotient k x y) ∧
      SendsLow s h (.fmin p t0 t1) t0 t1 32 (fun r => r = f32Pick k false x y) ∧
      SendsLow s h (.fmax p t0 t1) t0 t1 32 (fun r => r = f32Pick k true x y) ∧
      SendsLow s h (.fcmpEq p t0 t1) t0 t1 1 (fun r => r = (f32Test k x y fun u v => u = v).toNat) ∧
      SendsLow s h (.fcmpLt p t0 t1) t0 t1 1 (fun r => r = (f32Test k x y fun u v => u < v).toNat) ∧
      SendsLow s h (.fcmpLe p t0 t1) t0 t1 1 (fun r => r = (f32Test k x y fun u v => u ≤ v).toNat) ∧
      SendsLow s h (.fcmpUn p t0 t1) t0 t1 1 (fun r => r = (f32.isNan x || f32.isNan y).toNat)) ∧
    SendsLow s h (.fsqrt p t0 t1) t0 t1 32 (F32Root k x) ∧
    exec (.fabs p t0 t1) s = .next (s.sends h t0 t1 (a &&& 0x7FFFFFFF)) ∧
    exec (.fneg p t0 t1) s = .next (s.sends h t0 t1 ((a ^^^ 0x80000000) &&& 0xFFFFFFFF)) ∧
    exec (.fcvtS32F p t0 t1) s = .next (s.sends h t0 t1 (BitVec.ofInt 64 (f32ToInt k (-2 ^ 31) (2 ^ 31 - 1) x))) ∧
    exec (.fcvtS64F p t0 t1) s = .next (s.sends h t0 t1 (BitVec.ofInt 64 (f32ToInt k (-2 ^ 63) (2 ^ 63 - 1) x))) ∧
    SendsLow s h (.fcvtFS32 p t0 t1) t0 t1 32 (F32Exact k false ((a.setWidth 32).toInt * 2 ^ 149) 1) ∧
    SendsLow s h (.fcvtFS64 p t0 t1) t0 t1 32 (F32Exact k false (a.toInt * 2 ^ 149) 1) ∧
    SendsLow s h (.fcvtFN64 p t0 t1) t0 t1 32 (F32Exact k false ((a.toNat : Int) * 2 ^ 149) 1) ∧
    SendsLow s h (.fcvtBf16F p t0 t1) t0 t1 16 (Converts k f32 bf16 1 (2 ^ 16) x) ∧
    SendsLow s h (.fcvtFBf16 p t0 t1) t0 t1 32 (Converts k bf16 f32 (2 ^ 16) 1 (a.toNat % 2 ^ 16)) ∧
    SendsLow s h (.fcvtFp16F p t0 t1) t0 t1 16 (Converts k f32 fp16 1 (2 ^ 125) x) ∧
    SendsLow s h (.fcvtFFp16 p t0 t1) t0 t1 32 (Converts k fp16 f32 (2 ^ 125) 1 (a.toNat % 2 ^ 16))) ∧
  ∀ (k : FCtl) (a b c : W32) (x y : Nat) (out : Nat → Nat → Nat), x = a.toNat → y = b.toNat →
    out = (fun op v => (f32Op op v k a b c).toNat) →
    F32Sum k false x y (out 0x20 0) ∧ F32Sum k true x y (out 0x20 1) ∧ F32Product k x y (out 0x21 0) ∧
    (∀ v, v < 4 → F32Fused k (2 ≤ v) (v % 2 = 1) x y c.toNat (out 0x22 v)) ∧
    out 0x23 0 = f32Pick k false x y ∧ out 0x24 0 = f32Pick k true x y ∧
    out 0x25 0 = (f32Test k x y fun u v => u = v).toNat ∧ out 0x25 1 = (f32Test k x y fun u v => u < v).toNat ∧
    out 0x25 2 = (f32Test k x y fun u v => u ≤ v).toNat ∧ out 0x25 3 = (f32.isNan x || f32.isNan y).toNat ∧
    f32Op 0x26 0 k a b c = BitVec.ofInt 32 (f32ToInt k (-2 ^ 31) (2 ^ 31 - 1) x) ∧
    F32Exact k false (a.toInt * 2 ^ 149) 1 (out 0x26 1) ∧ Converts k f32 bf16 1 (2 ^ 16) x (out 0x26 2) ∧
    Converts k bf16 f32 (2 ^ 16) 1 (x % 2 ^ 16) (out 0x26 3) ∧ Converts k f32 fp16 1 (2 ^ 125) x (out 0x26 4) ∧
    Converts k fp16 f32 (2 ^ 125) 1 (x % 2 ^ 16) (out 0x26 5) ∧
    F32Quotient k 0x3F800000 x (out 0x27 0) ∧ F32InvRoot k x (out 0x28 0) ∧
    (f32.isNan x = true → out 0x29 0 = f32.nanCode ∧ out 0x2A 0 = f32.nanCode) ∧
    (f32.isInf x = true → out 0x29 0 = (if f32.neg x then 0 else 0x7F800000) ∧
      out 0x2A 0 = if f32.neg x then f32.nanCode else 0x7F800000) ∧
    (f32.mag (k.reads x) = 0 → out 0x2A 0 = 0xFF800000) ∧
    (f32.isNan x = false → f32.isInf x = false → f32.mag (k.reads x) ≠ 0 → f32.neg x = true → out 0x2A 0 = f32.nanCode) ∧
    ∀ n : Nat, n ≤ 276 →
      (f32.isNan x = false → f32.isInf x = false → f32.int (k.reads x) = ((n : Int) - 149) * 2 ^ 149 →
        F32Exact k false (2 ^ n) 1 (out 0x29 0)) ∧
      (f32.isNan x = false → f32.isInf x = false → f32.int (k.reads x) = 2 ^ n →
        F32Exact k false (((n : Int) - 149) * 2 ^ 149) 1 (out 0x2A 0))

/-! ## Memory instructions -/

/-- R217 to R222: a load, LDA, store or STL that fires as its block's only memory instruction is issued at once: one
access at A + sext9(IMM9) with its size, data and ordering. Memory is as before until the access is performed. R139
and R183: one that fires while a lower LSID of its block's mask is not resolved is held, without an access; when the
last lower LSID is resolved, both accesses are issued, in ascending LSID. -/
def Obligations.LoadsAndStoresIssue : Prop :=
  ∀ (p : Pred) (l : BitVec 5) (imm : BitVec 9) (t0 : Target) (s : State) (h : Here) (a b : Word),
    FiresAt s p h → h.a = some a →
    (∀ (i : Instr) (n : Nat) (acq : Bool),
      ((i = .ldb p l imm t0 ∧ n = 1 ∧ acq = false) ∨ (i = .ldbx p l imm t0 ∧ n = 1 ∧ acq = false) ∨
       (i = .ldh p l imm t0 ∧ n = 2 ∧ acq = false) ∨ (i = .ldhx p l imm t0 ∧ n = 2 ∧ acq = false) ∨
       (i = .ldw p l imm t0 ∧ n = 4 ∧ acq = false) ∨ (i = .ldwx p l imm t0 ∧ n = 4 ∧ acq = false) ∨
       (i = .ldd p l imm t0 ∧ n = 8 ∧ acq = false) ∨ (i = .lda p l imm t0 ∧ n = 8 ∧ acq = true)) →
      MemAlone h i l → MemGoes s h .load n (a + imm.signExtend 64) →
      Issues s h i l .load n (a + imm.signExtend 64) [] acq false .system) ∧
    (∀ (i : Instr) (n : Nat) (rel : Bool), h.b = some b →
      ((i = .stb p l imm ∧ n = 1 ∧ rel = false) ∨ (i = .sth p l imm ∧ n = 2 ∧ rel = false) ∨
       (i = .stw p l imm ∧ n = 4 ∧ rel = false) ∨ (i = .std p l imm ∧ n = 8 ∧ rel = false) ∨
       (i = .stl p l imm ∧ n = 8 ∧ rel = true)) →
      MemAlone h i l → MemGoes s h .store n (a + imm.signExtend 64) →
      Issues s h i l .store n (a + imm.signExtend 64) ((leBytes b.toNat 8).take n) false rel .system) ∧
    (∀ (i : Instr) (kd : AccKind) (n : Nat) (acq rel : Bool), (i, kd, n, acq, rel) ∈ plainMems p l imm t0 →
      h.b = some b → WordIs h.blk h.k i → l.toNat ∉ h.blk.nulled →
      (∀ j, j < l.toNat → h.blk.smask.getLsbD j = true → h.blk.lsidKnown j = false →
        (∀ e, e ∈ h.blk.memWords → e.1 = h.k ∨ e.1 ∉ h.blk.fired) →
        exec i s = .next (s.withBlock h (h.blk.fireAs h.k i))) ∧
      (∀ p2 l2 imm2 t2 i2 kd2 n2 acq2 rel2 a2 k2, (i2, kd2, n2, acq2, rel2) ∈ plainMems p2 l2 imm2 t2 →
        WordIs h.blk k2 i2 → l.toNat < l2.toNat → k2 ∈ h.blk.fired → h.blk.ops = [(k2, i2)] → h.blk.issued = [] →
        h.blk.nulled = [] → h.blk.waitOver = true → h.blk.slotA.look k2 = some a2 →
        (∀ e, e ∈ h.blk.memWords → e.1 = h.k ∨ e.1 = k2) →
        (∀ j, j < l2.toNat → h.blk.smask.getLsbD j = true → j = l.toNat) →
        (∃ o, addrForm (a + imm.signExtend 64) = .part o) → h.ctx.checkAddr {} (a + imm.signExtend 64) n n = none →
        (∃ o, addrForm (a2 + imm2.signExtend 64) = .part o) → h.ctx.checkAddr {} (a2 + imm2.signExtend 64) n2 n2 = none →
        ∃ t x y, exec i s = .next t ∧ t.mem = s.mem ∧ t.accesses = s.accesses ++ [x, y] ∧
          x.kind = kd ∧ x.addr = a + imm.signExtend 64 ∧ x.size = n ∧ x.order = l.toNat ∧ x.acq = acq ∧ x.rel = rel ∧
          y.kind = kd2 ∧ y.addr = a2 + imm2.signExtend 64 ∧ y.size = n2 ∧ y.order = l2.toNat ∧ y.acq = acq2 ∧
          y.rel = rel2))

/-- R223, R224 and R226: an atomic that fires alone is issued as one access at A with operand B; W = 0 has 8 bytes and
W = 1 has 4; the ordering code says whether it acquires and releases. FENCE is recorded in program order at its
scope. -/
def Obligations.AtomicsAndFenceIssue : Prop :=
  ∀ (p : Pred) (l : BitVec 5) (o : Ord) (sc : Scope) (w : Bool) (t0 : Target) (s : State) (h : Here) (a b : Word),
    FiresAt s p h →
    (∀ (i : Instr) (k : AOp) (n : Nat), h.a = some a → h.b = some b →
      ((n = (if w then 4 else 8) ∧
        ((i = .amoadd p l o sc w t0 ∧ k = .add) ∨ (i = .amoswp p l o sc w t0 ∧ k = .swap) ∨
         (i = .amoand p l o sc w t0 ∧ k = .and) ∨ (i = .amoor p l o sc w t0 ∧ k = .or) ∨
         (i = .amoxor p l o sc w t0 ∧ k = .xor) ∨ (i = .amomin p l o sc w t0 ∧ k = .min) ∨
         (i = .amomax p l o sc w t0 ∧ k = .max) ∨ (i = .amominu p l o sc w t0 ∧ k = .minu) ∨
         (i = .amomaxu p l o sc w t0 ∧ k = .maxu))) ∨
       (n = 4 ∧ i = .amocas p l o sc t0 ∧ k = .cas)) →
      MemAlone h i l → MemGoes s h (.atomic k) n a →
      Issues s h i l (.atomic k) n a (leBytes b.toNat 8) (o = .acq ∨ o = .ar) (o = .rel ∨ o = .ar) sc) ∧
    (MemAlone h (.fence p l sc) l →
      Issues s h (.fence p l sc) l .fence 0 0 [] false false sc)

/-- R183, R227 and R415: NULLS resolves an LSID that is not resolved, without an access; an LSID resolved already
faults with 0x08, and the block is left on that step as a fault leaves it. That a second NULLS of one LSID is such a
second resolution is the model's choice (log 42). -/
def Obligations.NullsResolves : Prop :=
  ∀ (p : Pred) (l : BitVec 5) (s : State) (h : Here), FiresAt s p h →
    (h.blk.memWords = [] → h.blk.lsidKnown l.toNat = false →
      exec (.nulls p l) s = .next (s.withBlock h
        { h.blk.fire h.k with nulled := l.toNat :: h.blk.nulled })) ∧
    (h.blk.lsidKnown l.toNat = true → ∀ w, h.blk.words[h.k]? = some w → h.ctx.inh = false → h.ctx.tvec ≠ 0 →
      ∃ t q, exec (.nulls p l) s = .next t ∧ t.ctx? h.c h.x = some q ∧ q.cause = 0x08 ∧ q.epc = h.blk.addr ∧
        q.tval = tvalOf h.k w ∧ q.inh = true ∧ q.next = h.ctx.tvec ∧ q.block = none ∧ q.regs = h.ctx.regs)

/-! ## Exits -/

/-- R229 to R232: the first exit of a block that fires records where the block leads, and nothing else happens until
the block commits. BRI and CALLI lead to the block address + 4 * OFFS20, BR and CALL to A. SCALL and TRAP do so with
STATUS.INH clear, ERET with EPC as the commit will find it, or with a CSRW of it still to fire (log 18). -/
def Obligations.ExitsRecord : Prop :=
  ∀ (p : Pred) (e : BitVec 3) (offs : BitVec 20) (s : State) (h : Here),
    FiresAt s p h → h.blk.exit = none →
    (h.ctx.blockAddrOk (h.blk.addr + offs.signExtend 64 * 4) = true →
      exec (.bri p e offs) s = .next (s.withBlock h { h.blk.fire h.k with
        exit := some { no := e, idx := h.k, kind := .branch, next := h.blk.addr + offs.signExtend 64 * 4 } }) ∧
      exec (.calli p e offs) s = .next (s.withBlock h { h.blk.fire h.k with
        exit := some { no := e, idx := h.k, kind := .call, next := h.blk.addr + offs.signExtend 64 * 4 } })) ∧
    (∀ a, h.a = some a → h.ctx.blockAddrOk a = true →
      exec (.br p e) s = .next (s.withBlock h { h.blk.fire h.k with
        exit := some { no := e, idx := h.k, kind := .branch, next := a } }) ∧
      exec (.call p e) s = .next (s.withBlock h { h.blk.fire h.k with
        exit := some { no := e, idx := h.k, kind := .call, next := a } })) ∧
    (h.ctx.inh = false →
      exec (.scall p e offs) s = .next (s.withBlock h { h.blk.fire h.k with
        exit := some { no := e, idx := h.k, kind := .scall offs, next := 0 } }) ∧
      exec (.trap p e offs) s = .next (s.withBlock h { h.blk.fire h.k with
        exit := some { no := e, idx := h.k, kind := .trap offs, next := 0 } })) ∧
    exec (.halt p e) s = .next (s.withBlock h { h.blk.fire h.k with
      exit := some { no := e, idx := h.k, kind := .halt, next := 0 } }) ∧
    (∀ a, h.epc = some a → h.ctx.blockAddrOk a = true →
      exec (.eret p e) s = .next (s.withBlock h { h.blk.fire h.k with
        exit := some { no := e, idx := h.k, kind := .eret, next := a } })) ∧
    (h.epc = none → exec (.eret p e) s = .next (s.withBlock h { h.blk.fire h.k with
      exit := some { no := e, idx := h.k, kind := .eret, next := 0 } })) ∧
    (h.blk.csrw = [] → h.blk.epcOpen = false → h.epc = some h.ctx.epc)

/-- R394, R415 and R418: a second exit faults with 0x0B, an exit address that is no block of the partition with 0x0C,
and SCALL or TRAP under STATUS.INH with 0x0D; such a fault abandons the block: with a vector and INH clear the context
enters its handler with CAUSE, EPC and TVAL set, and otherwise a FATAL record is written and the allocation is
aborted. -/
def Obligations.ExitFaultsTrap : Prop :=
  ∀ (p : Pred) (e : BitVec 3) (offs : BitVec 20) (s : State) (h : Here) (i : Instr) (cause : BitVec 8) (w : W32),
    FiresAt s p h → h.blk.words[h.k]? = some w →
    ((cause = 0x0B ∧ h.blk.exit.isSome = true ∧
        (i = .bri p e offs ∨ i = .calli p e offs ∨ i = .scall p e offs ∨ i = .trap p e offs ∨ i = .halt p e ∨
         i = .eret p e ∨ (h.a.isSome = true ∧ (i = .br p e ∨ i = .call p e)))) ∨
     (cause = 0x0C ∧ h.blk.exit = none ∧ h.ctx.blockAddrOk (h.blk.addr + offs.signExtend 64 * 4) = false ∧
        (i = .bri p e offs ∨ i = .calli p e offs)) ∨
     (cause = 0x0C ∧ h.blk.exit = none ∧ (∃ a, h.a = some a ∧ h.ctx.blockAddrOk a = false) ∧
        (i = .br p e ∨ i = .call p e)) ∨
     (cause = 0x0C ∧ h.blk.exit = none ∧ (∃ a, h.epc = some a ∧ h.ctx.blockAddrOk a = false) ∧ i = .eret p e) ∨
     (cause = 0x0D ∧ h.blk.exit = none ∧ h.ctx.inh = true ∧ (i = .scall p e offs ∨ i = .trap p e offs))) →
    (h.ctx.inh = false → h.ctx.tvec ≠ 0 →
      ∃ t q, exec i s = .next t ∧ t.ctx? h.c h.x = some q ∧ q.cause = cause ∧ q.epc = h.blk.addr ∧
        q.tval = tvalOf h.k w ∧ q.inh = true ∧ q.next = h.ctx.tvec ∧ q.block = none ∧ q.regs = h.ctx.regs) ∧
    (h.ctx.inh = true ∨ h.ctx.tvec = 0 →
      ∃ t r, exec i s = .next t ∧ t.faultQ = s.faultQ ++ [r] ∧ r.cause = cause ∧ r.src = 0 ∧ r.fatal = true ∧
        r.addr = tvalOf h.k w ∧ r.info = h.blk.addr ∧
        (∀ a, s.alloc? h.ctx.alloc = some a → a.st ≠ .ended →
          ∃ a', t.alloc? h.ctx.alloc = some a' ∧ a'.st = .ending ∧ a'.aborting = true))

/-! ## Engine and synchronisation instructions -/

/-- R253, R258, R260, R266, R251, R252, R270 and R272: the instructions that only answer: CFG.STAT, STR.STAT, STR.WAIT
on a DONE or forgotten binding, RGN.STAT, CFG.SWAP to the CURRENT slot, CFG.RETIRE of an IDLE slot, XA.STAT of the
member's own accumulator and MARK.WAIT for a count that is reached. Memory is unchanged. RGN.STAT tells a region's
freeze image bound, CONF, index, size, empty sections and state; that a number which no region has answers 0, where
the table of refusals names every instruction with LR, is the model's choice (log 63), and so is 0 for sections that
the header does not declare (log 118). -/
def Obligations.EngineAnswers : Prop :=
  ∀ (p : Pred) (lr : BitVec 3) (sl : BitVec 2) (b1 b2 : Bool) (dir : BitVec 2) (ix : BitVec 4) (t0 : Target)
    (s : State) (h : Here) (a : Word) (rn : Nat) (r : Region),
    (EngineAlone s p h (.cfgStat p lr t0) → RegionIs s h lr rn r →
      ∃ t, Accepted s t h (.cfgStat p lr t0) t0 (cfgStat (s.core h.c) rn r) ∧ t.mem = s.mem) ∧
    (EngineAlone s p h (.strStat p false dir ix t0) →
      ∃ t, Accepted s t h (.strStat p false dir ix t0) t0
        (s.port h.c (h.ctx.portOf (dir.toNat * 16 + ix.toNat))).stat ∧ t.mem = s.mem) ∧
    (∀ v, EngineAlone s p h (.strStat p true dir ix t0) → h.ctx.bufs.look ix.toNat = some v →
      ∃ t, Accepted s t h (.strStat p true dir ix t0) t0 v.stat ∧ t.mem = s.mem) ∧
    (EngineAlone s p h (.strWait p t0) → h.a = some a →
      (s.port h.c (h.ctx.portOf (handlePort a))).bindings.find? (fun b => b.seq = handleSeq a) = none →
      (∀ d, (s.port h.c (h.ctx.portOf (handlePort a))).dones.find? (fun d => d.seq = handleSeq a) = some d →
        d.ctx = h.x → ∃ t, Accepted s t h (.strWait p t0) t0 d.word ∧ t.mem = s.mem) ∧
      ((s.port h.c (h.ctx.portOf (handlePort a))).dones.find? (fun d => d.seq = handleSeq a) = none →
        ∃ t, Accepted s t h (.strWait p t0) t0 8 ∧ t.mem = s.mem)) ∧
    (EngineAlone s p h (.rgnStat p lr t0) → s.lrTaken h.c h.x h.ctx.alloc lr.toNat = false →
      ∃ t, Accepted s t h (.rgnStat p lr t0) t0 0 ∧ t.mem = s.mem) ∧
    (EngineAlone s p h (.rgnStat p lr t0) → RegionIs s h lr rn r → r.imageBound < 2 ^ 16 → (r.slot r.cur).conf < 256 →
      r.ireg < 256 → r.rows ≤ 16 → r.cols ≤ 16 → (r.slot r.cur).nsec ≤ 8 →
      ∃ t v, Accepted s t h (.rgnStat p lr t0) t0 v ∧ t.mem = s.mem ∧ (v.extractLsb' 48 16).toNat = r.imageBound ∧
        (v.extractLsb' 40 8).toNat = (r.slot r.cur).conf ∧ (v.extractLsb' 32 8).toNat = r.ireg ∧
        (v.extractLsb' 28 4).toNat = r.rows - 1 ∧ (v.extractLsb' 24 4).toNat = r.cols - 1 ∧
        (∀ i, i < 8 → v.getLsbD (16 + i) =
          (decide (i < (r.slot r.cur).nsec) && decide (r.remaining.lookD i 0 = 0))) ∧
        v.extractLsb' 4 12 = 0 ∧ v.getLsbD 3 = r.spawned ∧ v.getLsbD 0 = false ∧
        (v.extractLsb' 1 2).toNat = match r.phase with
          | .placed => 1
          | .joining => 2
          | .freezing _ _ => 3
          | .aborting => 3) ∧
    (EngineAlone s p h (.cfgSwap p lr sl b1 b2 t0) → RegionIs s h lr rn r → r.demandMode = false → r.cur = sl.toNat →
      ∃ t, Accepted s t h (.cfgSwap p lr sl b1 b2 t0) t0 (sl.setWidth 64) ∧ t.mem = s.mem) ∧
    (EngineAlone s p h (.cfgRetire p lr sl) → RegionIs s h lr rn r → r.demandMode = false →
      (r.slot sl.toNat).st = .idle → ∃ t, Accepted s t h (.cfgRetire p lr sl) 0 0 ∧ t.mem = s.mem) ∧
    (EngineAlone s p h (.xaStat p lr t0) → h.a = some a → RegionIs s h lr rn r →
      r.hasElem (a.toNat % 256) = true → (s.elem h.c (r.elemAt (a.toNat % 256))).priv.xa.gen = h.ctx.gen →
      (s.elem h.c (r.elemAt (a.toNat % 256))).priv.xa.poison = false →
      ∃ t, Accepted s t h (.xaStat p lr t0) t0 (s.elem h.c (r.elemAt (a.toNat % 256))).priv.xa.stat ∧ t.mem = s.mem) ∧
    (EngineAlone s p h (.markWait p b1 t0) → h.a = some a → h.ctx.stream.toNat < 16 →
      ∀ n, n = (if b1 then (s.markView h.c h.ctx.stream.toNat).slot else (s.markView h.c h.ctx.stream.toNat).sym) →
      (n - a.setWidth 32).toNat < 2 ^ 31 →
      ∃ t, Accepted s t h (.markWait p b1 t0) t0 (n.setWidth 64) ∧ t.mem = s.mem)

/-- R240, R249, R250, R262, R264 and R268: CFG.LOAD, CFG.WR, RGN.FREEZE, RGN.ABORT and the accumulator commands are
accepted in order on the configuration path when the context holds fewer than four of its entries and their operands
pass their checks; what they do comes when the loader serves them. CFG.LOAD and CFG.WR of a member bound to a stream
need loader budget too: one that finds none is deferred, which its stream's DEFER counts, and waits in its block
(R328). R188: of two engine instructions of a block the one of lower body index is accepted first, though the other
has fired before. -/
def Obligations.PathCommands : Prop :=
  ∀ (p : Pred) (lr : BitVec 3) (sl : BitVec 2) (full tile evt : Bool) (s : State) (h : Here) (a b : Word) (rn : Nat)
    (r : Region),
    h.a = some a → RegionIs s h lr rn r → s.pathUsed h.c h.x < 4 →
    (EngineAlone s p h (.cfgLoad p lr sl full) → LoadsFreely h → r.demandMode = false →
      h.ctx.checkAddr {} a 4 4 = none →
      OnPath s h (.cfgLoad p lr sl full) rn (.load sl.toNat a full false) false false) ∧
    (EngineAlone s p h (.cfgWr p lr) → LoadsFreely h → r.demandMode = false →
      cwField (a.setWidth 32) < 48 → r.hasElem (cwElem (a.setWidth 32)) = true →
      fieldOk (cwField (a.setWidth 32)) (cwValue (a.setWidth 32)) = true →
      OnPath s h (.cfgWr p lr) rn (.write (a.setWidth 32)) false false) ∧
    (∀ (i : Instr) (m n : Nat), i = .cfgLoad p lr sl full ∨ i = .cfgWr p lr → EngineAlone s p h i →
      h.ctx.stream.toNat = m → m < 16 → h.blk.deferred.look h.k = none → h.ctx.budget.load.limit = some n →
      n ≤ h.ctx.budget.load.used →
      ∃ t q d, exec i s = .next t ∧ t.mem = s.mem ∧ (t.core h.c).cfgPath = (s.core h.c).cfgPath ∧
        (t.stream m).defer = (s.stream m).defer + 1 ∧ t.ctx? h.c h.x = some q ∧ q.regs = h.ctx.regs ∧
        d = h.blk.deferred.put h.k (s.period h.c m) ∧ q.block = some { h.blk.fireAs h.k i with deferred := d }) ∧
    (EngineAlone s p h (.rgnFreeze p lr) → h.ctx.checkAddr { part := false } a 64 64 = none →
      OnPath s h (.rgnFreeze p lr) rn (.freeze a) false false) ∧
    (EngineAlone s p h (.rgnAbort p lr) → OnPath s h (.rgnAbort p lr) rn .abort false false) ∧
    (EngineAlone s p h (.xaClr p lr tile evt) → r.selOk a = true →
      OnPath s h (.xaClr p lr tile evt) rn (.clr a) tile evt) ∧
    (EngineAlone s p h (.xaDrain p lr tile evt false) → r.selOk a = true →
      OnPath s h (.xaDrain p lr tile evt false) rn (.drain a none) tile evt) ∧
    (∀ va, h.b = some b → addrForm b = .virt va → r.selOk a = true →
      (EngineAlone s p h (.xaDrain p lr tile evt true) → b.toNat % 4 = 0 →
        OnPath s h (.xaDrain p lr tile evt true) rn (.drain a (some b)) tile evt) ∧
      (b.toNat % 32 = 0 →
        (EngineAlone s p h (.xaSpill p lr tile evt) → OnPath s h (.xaSpill p lr tile evt) rn (.spill a b) tile evt) ∧
        (EngineAlone s p h (.xaFill p lr tile evt) → OnPath s h (.xaFill p lr tile evt) rn (.fill a b) tile evt) ∧
        (EngineAlone s p h (.xaMerge p lr tile evt) → OnPath s h (.xaMerge p lr tile evt) rn (.merge a b) tile evt))) ∧
    (∀ p2 lr2 rn2 r2 k2 i, i = .rgnAbort p lr → FiresAt s p h → WordIs h.blk h.k i →
      WordIs h.blk k2 (.rgnAbort p2 lr2) → (∀ j f, j ≠ h.k → j ≠ k2 → h.blk.fields j = some f → isEngine f = false) →
      h.blk.memWords = [] → h.blk.done = [] → h.blk.issued = [] → s.recordsWritten h.c h.x h.blk.num = true →
      (k2 < h.k → h.blk.ops = [] → h.blk.declined k2 = false → exec i s = .next (s.withBlock h (h.blk.fireAs h.k i))) ∧
      (h.k < k2 → k2 ∈ h.blk.fired → h.blk.ops = [(k2, .rgnAbort p2 lr2)] → s.pathUsed h.c h.x < 3 →
        RegionIs s h lr2 rn2 r2 →
        ∃ t q, exec i s = .next t ∧ t.mem = s.mem ∧ t.ctx? h.c h.x = some q ∧
          q.block = some { h.blk.fireAs h.k i with done := [k2, h.k], issued := [k2, h.k] } ∧
          (t.core h.c).cfgPath = (s.core h.c).cfgPath ++
            [{ id := s.nextId, ctx := some h.x, region := rn, alloc := h.ctx.alloc, op := .abort },
             { id := s.nextId + 1, ctx := some h.x, region := rn2, alloc := h.ctx.alloc, op := .abort }]))

/-- R255 to R259 and R115: STR.BIND takes a pattern record from the partition and queues a binding under the port's
next sequence number; STR.GO queues a BOUND binding; STR.CANCEL ends one; STR.PUSH and STR.POP move an element of 1,
2, 4 or 8 bytes to and from a buffer allocation, at the offset given or at the queue's pointer. -/
def Obligations.StreamCommands : Prop :=
  ∀ (p : Pred) (dir : BitVec 2) (ix buf : BitVec 4) (lane go base dl : Bool) (sz : BitVec 2) (t0 : Target) (s : State)
    (h : Here) (a b : Word),
    (∀ off q, EngineAlone s p h (.strBind p dir ix lane go base t0) → h.a = some a → (base = true → h.b = some b) →
      addrForm a = .part off → off % 64 = 0 → off + 64 ≤ h.ctx.psize → h.ctx.pbase % 64 = 0 → h.c < 160 →
      h.ctx.pbase + off + 64 ≤ 0x10000 → OwnLines s h.ctx.gen (h.ctx.partPlace h.c off) 64 →
      (∃ rn r, (s.core h.c).regionAt (portElem (h.ctx.portOf (dir.toNat * 16 + ix.toNat))) = some (rn, r) ∧
        r.ctx = h.x ∧ r.alloc = h.ctx.alloc) →
      (s.port h.c (h.ctx.portOf (dir.toNat * 16 + ix.toNat))).bindings.length < 4 →
      q = { patternOf (Memory.readN s.mem (h.ctx.partPlace h.c off) 64) with
        base := if base then b else (patternOf (Memory.readN s.mem (h.ctx.partPlace h.c off) 64)).base } →
      h.ctx.bindCause q = none →
      ∃ t n, n = (s.port h.c (h.ctx.portOf (dir.toNat * 16 + ix.toNat))).seqNext ∧
        Accepted s t h (.strBind p dir ix lane go base t0) t0 (handleOf n (dir.toNat * 16 + ix.toNat) lane) ∧
        (t.port h.c (h.ctx.portOf (dir.toNat * 16 + ix.toNat))).bindings =
          (s.port h.c (h.ctx.portOf (dir.toNat * 16 + ix.toNat))).bindings ++
            [{ seq := n, lane, named := dir.toNat * 16 + ix.toNat, pat := q, ctx := h.x, alloc := h.ctx.alloc,
               gen := h.ctx.gen, st := if go then .queued else .bound }] ∧
        (t.port h.c (h.ctx.portOf (dir.toNat * 16 + ix.toNat))).seqNext = (n + 1) % 2 ^ 24 ∧ t.mem = s.mem) ∧
    (∀ v, h.a = some a → s.binding? h.c (h.ctx.portOf (handlePort a)) (handleSeq a) = some v → v.ctx = h.x →
      v.st = .bound →
      (EngineAlone s p h (.strGo p dl) → (dl = true → h.b = some b) →
        ∃ t, Accepted s t h (.strGo p dl) 0 0 ∧ t.mem = s.mem ∧
          s.binding? h.c (h.ctx.portOf (handlePort a)) (handleSeq a) = some v ∧
          t.binding? h.c (h.ctx.portOf (handlePort a)) (handleSeq a) =
            some { v with st := .queued, deadline := if dl then b.setWidth 32 else 0 }) ∧
      (EngineAlone s p h (.strCancel p) → v.ended = none →
        ∃ t u, Accepted s t h (.strCancel p) 0 0 ∧ t.mem = s.mem ∧
          t.binding? h.c (h.ctx.portOf (handlePort a)) (handleSeq a) = some u ∧ u.ended = some 0 ∧ u.st = .drained)) ∧
    (∀ v, h.ctx.bufs.look buf.toNat = some v →
      (EngineAlone s p h (.strPush p buf sz true) → h.a = some a → h.b = some b → v.queue = false →
        b.toNat % 2 ^ sz.toNat = 0 → b.toNat < v.size →
        ∃ t, Accepted s t h (.strPush p buf sz true) 0 0 ∧
          t.mem = (s.writeAs h.ctx.gen (v.place h.c b.toNat) (leBytes a.toNat (2 ^ sz.toNat))).mem) ∧
      (EngineAlone s p h (.strPush p buf sz false) → h.a = some a → v.queue = true → 2 ^ sz.toNat ≤ v.space →
        ∃ t k, Accepted s t h (.strPush p buf sz false) 0 0 ∧ t.ctx? h.c h.x = some k ∧
          t.mem = (s.pushBuf h.c h.x buf.toNat h.ctx v (leBytes a.toNat (2 ^ sz.toNat)) false).mem ∧
          k.bufs.look buf.toNat = some { v with wptr := (v.wptr + 2 ^ sz.toNat) % (2 * v.size) }) ∧
      (EngineAlone s p h (.strPop p buf sz true t0) → h.a = some a → v.queue = false → a.toNat % 2 ^ sz.toNat = 0 →
        a.toNat < v.size → OwnLines s h.ctx.gen (v.place h.c a.toNat) (2 ^ sz.toNat) →
        ∃ t, Accepted s t h (.strPop p buf sz true t0) t0
            (BitVec.ofNat 64 (leNat (Memory.readN s.mem (v.place h.c a.toNat) (2 ^ sz.toNat)))) ∧ t.mem = s.mem) ∧
      (EngineAlone s p h (.strPop p buf sz false t0) → v.queue = true → 2 ^ sz.toNat ≤ v.fill →
        v.rptr % v.size + 2 ^ sz.toNat ≤ v.size →
        OwnLines s h.ctx.gen (v.place h.c (v.rptr % v.size)) (2 ^ sz.toNat) →
        ∃ t k, Accepted s t h (.strPop p buf sz false t0) t0
            (BitVec.ofNat 64 (leNat (Memory.readN s.mem (v.place h.c (v.rptr % v.size)) (2 ^ sz.toNat)))) ∧
          t.mem = s.mem ∧ t.ctx? h.c h.x = some k ∧
          k.bufs.look buf.toNat = some { v with rptr := (v.rptr + 2 ^ sz.toNat) % (2 * v.size) }))

/-- R261, R263 to R267, R271, R274, R275: RGN.ARM adds to a section's count; RGN.THAW and SPAWN enter the spawn queue;
MARK.RAISE and EVT.SIGNAL send their mark and signal once the context's earlier accesses are performed; EVT.WAIT takes
one signal of a count that is not 0; SEM.WAIT and SEM.POST issue an atomic on their word. -/
def Obligations.RegionAndSyncCommands : Prop :=
  ∀ (p : Pred) (lr sec : BitVec 3) (kind : Bool) (strm : BitVec 5) (ev : BitVec 7) (o : Ord) (sc : Scope) (t0 : Target)
    (s : State) (h : Here) (a b : Word) (rn : Nat) (r : Region) (al : Alloc),
    (EngineAlone s p h (.rgnArm p lr sec) → h.a = some a → RegionIs s h lr rn r →
      ∃ t, Accepted s t h (.rgnArm p lr sec) 0 0 ∧ t.mem = s.mem ∧ t.region? h.c rn = some { r with
        remaining := r.remaining.put sec.toNat
          (min (r.remaining.lookD sec.toNat 0 + min a.toNat 0xFFFFFF) 0xFFFFFF) }) ∧
    (EngineAlone s p h (.rgnThaw p lr) → h.a = some a → s.alloc? h.ctx.alloc = some al → al.spawnQ.length < 16 →
      s.lrTaken h.c h.x h.ctx.alloc lr.toNat = false → h.ctx.checkAddr { part := false } a 64 64 = none →
      ∃ t, Accepted s t h (.rgnThaw p lr) 0 0 ∧ t.mem = s.mem ∧ t.alloc? h.ctx.alloc = some { al with
        spawnQ := al.spawnQ ++ [{ core := h.c, ctx := h.x, region := lr.toNat, lr := lr.toNat, thaw := some a,
                                  subgraph := 0 }] }) ∧
    (∀ n sh, EngineAlone s p h (.spawn p lr t0) → h.a = some a → RegionIs s h lr rn r →
      s.alloc? h.ctx.alloc = some al → al.spawnQ.length < 16 → n < 8 →
      s.lrTaken h.c h.x h.ctx.alloc n = false → (∀ m, m < n → s.lrTaken h.c h.x h.ctx.alloc m = true) →
      al.img.shapes[a.toNat % 2 ^ 16]? = some sh → sh.flags.getLsbD 2 = true →
      ∃ t, Accepted s t h (.spawn p lr t0) t0 (BitVec.ofNat 64 n) ∧ t.mem = s.mem ∧
        t.alloc? h.ctx.alloc = some { al with
          spawnQ := al.spawnQ ++ [{ core := h.c, ctx := h.x, region := lr.toNat, lr := n, thaw := none,
                                    subgraph := a.toNat % 2 ^ 16 }] }) ∧
    (EngineAlone s p h (.rgnQuiet p lr kind t0) → RegionIs s h lr rn r →
      exec (.rgnQuiet p lr kind t0) s = .next (s.withBlock h (h.blk.fireAs h.k (.rgnQuiet p lr kind t0)))) ∧
    ((∀ x ∈ s.accesses, ∀ n k, x.client ≠ .body h.c h.x n k) → h.a = some a →
      (EngineAlone s p h (.markRaise p kind strm) → strm.toNat < 16 →
        ∃ t, Accepted s t h (.markRaise p kind strm) 0 0 ∧ t.mem = s.mem ∧
          t.teasel.marks = s.teasel.marks ++ [{ stream := strm.toNat, kind, index := a.setWidth 16 }]) ∧
      (∀ m, EngineAlone s p h (.evtSignal p ev) → s.alloc? h.ctx.alloc = some al → al.members[a.toNat]? = some m →
        80 ≤ ev.toNat →
        ∃ t, Accepted s t h (.evtSignal p ev) 0 0 ∧ t.mem = s.mem ∧
          t.eventMsgs = s.eventMsgs ++ [{ alloc := h.ctx.alloc, core := m.core, ctx := m.ctx, event := ev.toNat }])) ∧
    (∀ n, EngineAlone s p h (.evtWait p ev t0) → h.ctx.events.lookD ev.toNat 0 = n + 1 →
      ∃ t k, Accepted s t h (.evtWait p ev t0) t0 (BitVec.ofNat 64 n) ∧ t.mem = s.mem ∧ t.ctx? h.c h.x = some k ∧
        k.events.lookD ev.toNat 0 = n) ∧
    (∀ (i : Instr) (k : AOp), h.a = some a → h.b = some b →
      ((i = .semWait p o sc t0 ∧ k = .semWait) ∨ (i = .semPost p o sc t0 ∧ k = .semPost)) →
      EngineAlone s p h i → MemGoes s h (.atomic k) 4 a →
      ∃ t x, exec i s = .next t ∧ t.accesses = s.accesses ++ [x] ∧ x.kind = .atomic k ∧ x.addr = a ∧ x.size = 4 ∧
        x.data = leBytes b.toNat 8 ∧ x.acq = (decide (o = .acq) || decide (o = .ar)) ∧
        x.rel = (decide (o = .rel) || decide (o = .ar)) ∧ x.scope = sc ∧ x.engine = true ∧
        x.client = .body h.c h.x h.blk.num h.k ∧ t.mem = s.mem)

/-- No body word outside the engine instructions writes memory, tags or a g register when it fires, whatever it meets:
g registers change at commit (R182, R186) and bytes when an access is performed (R137). -/
def Obligations.FiringLeavesMemory : Prop :=
  ∀ (i : Instr) (f : Fields) (s t : State), encodeFields i = some f → isEngine f = false → exec i s = .next t →
    t.mem = s.mem ∧ t.gran = s.gran ∧
      ∀ c x k, s.ctx? c x = some k → ∃ q, t.ctx? c x = some q ∧ q.regs = k.regs

/-! ## Blocks -/

/-- R32, R174, R175, R186 and R413: with no block in flight, a running context, in its turn, reads the header and the
body at its next block's address; if every check passes, the block begins to execute with the words read, nothing has
fired, and no register, CSR or byte has changed. If a check fails, the context enters through TVEC with that check's
cause, TVAL naming the word. -/
def Obligations.FetchBeginsTheBlock : Prop :=
  ∀ (c x off n : Nat) (s : State) (k : Ctx) (hd bd : List Byte) (ws : List W32),
    s.ctx? c x = some k → k.run = .running → k.block = none → k.freezing = false →
    (s.core c).fetchTurn x = true → addrForm k.next = .part off → off % 4 = 0 → off + 12 + 4 * n ≤ k.psize →
    hd = Memory.readN s.mem (k.partPlace c off) 12 → bd = Memory.readN s.mem (k.partPlace c (off + 12)) (4 * n) →
    ws = wordsOf n bd → n = Machine.sizeOf (w32At hd 0) + 1 →
    bitsOf (w32At hd 0).toNat 28 4 = 0xA → bitsOf (w32At hd 0).toNat 0 20 = 0 →
    OwnLines s k.gen (k.partPlace c off) 12 → OwnLines s k.gen (k.partPlace c (off + 12)) (4 * n) →
    (blockCause (w32At hd 0) (w32At hd 4) (w32At hd 8) ws = none →
      exec (.blockFetch c x) s = .next ((s.setCtx c x { k with
        blocks := k.blocks + 1
        quiet := none
        block := some { addr := k.next, h0 := w32At hd 0, smask := w32At hd 4, wmask := w32At hd 8, words := ws,
                        num := k.blocks, cycle := s.cycle c, markcnt := s.markcnt c k,
                        markkind := s.markkind c k } }).updCore c fun q => { q with fetchLast := x }).acted) ∧
    (∀ where_ cause, blockCause (w32At hd 0) (w32At hd 4) (w32At hd 8) ws = some (where_, cause) →
      k.inh = false → k.tvec ≠ 0 →
      exec (.blockFetch c x) s = .next ((s.setCtx c x (k.enterTrap (BitVec.ofNat 8 cause) k.next
        (match where_ with
          | none => tvalOf 0x1F (w32At hd 0)
          | some i => tvalOf i (ws.getD i 0)))).updCore c fun q => { q with fetchLast := x }).acted)

/-- R130, R173, R185, R186 and R229 to R232: when a block is complete, its commit writes exactly the g registers that
its WRITEs named, under the member's generation, sets LEXIT, and goes on as its exit says: at the exit's address;
after a call with g30 the address behind the block; for SCALL and TRAP through TVEC with causes 0x00 and 0x1F; a HALT
ends the context; ERET clears INH and goes to EPC. Memory is unchanged. -/
def Obligations.CommitWritesAndContinues : Prop :=
  ∀ (c x : Nat) (s : State) (k : Ctx) (b : Block) (e : Exit),
    s.ctx? c x = some k → k.block = some b → b.exit = some e → b.complete = true →
    s.accesses.any (holdsCommit c x b.num) = false → b.csrw = [] → (b.regw.map (·.1)).Nodup →
    (e.kind = .eret → k.blockAddrOk k.epc = true) →
    ∃ t q, exec (.blockCommit c x) s = .next t ∧ t.mem = s.mem ∧ t.gran = s.gran ∧ t.ctx? c x = some q ∧
      q.block = none ∧ q.lexit = e.no ∧ q.scratch = k.scratch ∧ q.tvec = k.tvec ∧ q.gen = k.gen ∧
      (∀ j v, b.regw.look j = some (some v) → (e.kind = .call → j ≠ 30) →
        q.reg j = { val := v, tag := k.gen, poison := false }) ∧
      (∀ j, (∀ v, b.regw.look j ≠ some (some v)) → (e.kind = .call → j ≠ 30) → q.reg j = k.reg j) ∧
      (e.kind = .call → q.reg 30 = { val := b.after, tag := k.gen, poison := false }) ∧
      (e.kind = .branch ∨ e.kind = .call →
        q.next = e.next ∧ q.run = k.run ∧ q.inh = k.inh ∧ q.cause = k.cause ∧ q.epc = k.epc ∧ q.tval = k.tval) ∧
      (∀ code, e.kind = .scall code →
        q.next = k.tvec ∧ q.inh = true ∧ q.cause = 0x00 ∧ q.epc = b.after ∧ q.tval = code.setWidth 64) ∧
      (∀ code, e.kind = .trap code →
        q.next = k.tvec ∧ q.inh = true ∧ q.cause = 0x1F ∧ q.epc = b.addr ∧ q.tval = code.setWidth 64) ∧
      (e.kind = .halt → q.run = .halted ∧ q.inh = k.inh) ∧
      (e.kind = .eret → q.next = k.epc ∧ q.inh = false ∧ q.cause = k.cause)

/-- R171 to R173, R186, R233 and R354: the commit of a block writes each register that a CSRW of it names, with the
value of the last of them in ascending body index (the order of the list): CAUSE, EPC, TVAL, TVEC with [1:0] read as
0, the fields of FPCTL, of which RND keeps its value when a reserved mode is written, and SCRATCH. A register that no
CSRW names, and every read-only one (STATUS but for LEXIT, GEN, ALLOC, STREAM, FEAT0, FEAT1, SEED0, SEED1), keeps its
value, also when a CSRW names it. -/
def Obligations.ControlRegisterWrites : Prop :=
  ∀ (c x : Nat) (s : State) (k : Ctx) (b : Block) (e : Exit),
    s.ctx? c x = some k → k.block = some b → b.exit = some e → b.complete = true →
    s.accesses.any (holdsCommit c x b.num) = false → e.kind = .branch ∨ e.kind = .call →
    ∃ t q, exec (.blockCommit c x) s = .next t ∧ t.mem = s.mem ∧ t.ctx? c x = some q ∧ q.block = none ∧
      q.next = e.next ∧ q.lexit = e.no ∧ q.inh = k.inh ∧ q.strict = k.strict ∧ q.gen = k.gen ∧ q.alloc = k.alloc ∧
      q.stream = k.stream ∧ q.seed0 = k.seed0 ∧ q.seed1 = k.seed1 ∧ t.feat0 = s.feat0 ∧
      (∀ n, (∀ z, z ∈ b.csrw → z.2.1 ≠ n) →
        (n = 0x001 → q.cause = k.cause) ∧ (n = 0x002 → q.epc = k.epc) ∧ (n = 0x003 → q.tval = k.tval) ∧
        (n = 0x004 → q.tvec = k.tvec) ∧ (n = 0x030 → q.ftz = k.ftz ∧ q.daz = k.daz ∧ q.rnd = k.rnd) ∧
        ∀ i, i < 16 → n = BitVec.ofNat 12 (0x100 + i) → q.scratch.look i = k.scratch.look i) ∧
      ∀ pre post j n w, b.csrw = pre ++ (j, n, w) :: post → (∀ z, z ∈ post → z.2.1 ≠ n) →
        (n = 0x001 → q.cause = w.setWidth 8) ∧ (n = 0x002 → q.epc = w) ∧ (n = 0x003 → q.tval = w) ∧
        (n = 0x004 → q.tvec = w &&& ~~~3) ∧
        (n = 0x030 → q.ftz = w.getLsbD 4 ∧ q.daz = w.getLsbD 3 ∧
          ((w.extractLsb' 0 3).toNat ≤ 4 → q.rnd = w.extractLsb' 0 3) ∧
          (4 < (w.extractLsb' 0 3).toNat → (∀ z, z ∈ pre → z.2.1 ≠ n) → q.rnd = k.rnd)) ∧
        ∀ i, i < 16 → n = BitVec.ofNat 12 (0x100 + i) → q.scratch.look i = some w

/-- R393, R394, R411 and R417: a faulted block is abandoned with the fault of lowest body index, and a stalled one
with cause 0x09 or 0x0A. The context enters through TVEC with the cause, the block's address and TVAL; with INH set or
TVEC 0 a FATAL record is written, the context stops and its allocation is aborted. No g register and no byte
changes. -/
def Obligations.FaultsEnterThroughTvec : Prop :=
  ∀ (c x : Nat) (s : State) (k : Ctx) (b : Block) (i : Instr) (cause : BitVec 8) (tval : Word),
    s.ctx? c x = some k → k.block = some b →
    (∃ f, i = .blockAbandon c x ∧ worstFault b.faults = some f ∧ cause = f.cause ∧ tval = f.tval) ∨
      (i = .stallDetect c x ∧ stalled s c x b = true ∧ tval = tvalOf 0x1F b.h0 ∧
        cause = if b.exit = none then 0x09 else 0x0A) →
    (k.inh = false → k.tvec ≠ 0 →
      ∃ t, exec i s = .next t ∧ t.mem = s.mem ∧ t.gran = s.gran ∧
        t.ctx? c x = some { k with
          cause := cause, epc := b.addr, tval := tval, inh := true, next := k.tvec, block := none, quiet := none }) ∧
    (∀ al, k.inh = true ∨ k.tvec = 0 → s.alloc? k.alloc = some al → al.st ≠ .ended →
      ∃ t q, exec i s = .next t ∧ t.mem = s.mem ∧ t.gran = s.gran ∧ t.ctx? c x = some q ∧ q.run = .stopped ∧
        q.block = none ∧ q.regs = k.regs ∧ t.alloc? k.alloc = some { al with st := .ending, aborting := true } ∧
        LastRecord s t { s.recordFor c k.alloc k.gen cause.toNat 0 with
          unit := BitVec.ofNat 8 x, fatal := true, addr := tval, info := b.addr })

/-- R42, R184, R240, R241, R251, R265 and R274: engine instructions that could not be accepted at once are accepted
later. An RGN.ABORT that found no room on the configuration path takes its place there, and so does a CFG.LOAD that
was deferred in an earlier period (R329); an EVT.WAIT takes a signal that has come; a CFG.SWAP is satisfied when its
slot is READY and becomes CURRENT, with the number of the slot before; an RGN.QUIET keeps the totals of its first wave
and answers with the second, 1 if both agree and are balanced. -/
def Obligations.WaitingInstructionsEnd : Prop :=
  ∀ (p : Pred) (lr : BitVec 3) (ev : BitVec 7) (sl : BitVec 2) (dr rs sp : Bool) (t0 : Target) (s : State) (h : Here)
    (rn : Nat) (r : Region), RegionIs s h lr rn r →
    (EnginePending s h (.rgnAbort p lr) → s.pathUsed h.c h.x < 4 →
      ∃ t k, exec (.engineAccept h.c h.x h.k) s = .next t ∧ t.mem = s.mem ∧ t.ctx? h.c h.x = some k ∧
        k.block = some (h.accepted 0 0) ∧ (t.core h.c).cfgPath = (s.core h.c).cfgPath ++
          [{ id := s.nextId, ctx := some h.x, region := rn, alloc := h.ctx.alloc, op := .abort }]) ∧
    (∀ full a d, EnginePending s h (.cfgLoad p lr sl full) → s.pathUsed h.c h.x < 4 → r.demandMode = false →
      h.a = some a → h.ctx.checkAddr {} a 4 4 = none → h.blk.deferred.look h.k = some d →
      d ≠ s.period h.c h.ctx.stream.toNat →
      ∃ t k, exec (.engineAccept h.c h.x h.k) s = .next t ∧ t.mem = s.mem ∧ t.ctx? h.c h.x = some k ∧
        k.block = some (h.accepted 0 0) ∧ (t.core h.c).cfgPath = (s.core h.c).cfgPath ++
          [{ id := s.nextId, ctx := some h.x, region := rn, alloc := h.ctx.alloc,
             op := .load sl.toNat a full false }]) ∧
    (∀ n, EnginePending s h (.evtWait p ev t0) → h.ctx.events.lookD ev.toNat 0 = n + 1 →
      ∃ t k, exec (.waitSatisfied h.c h.x) s = .next t ∧ t.mem = s.mem ∧ t.ctx? h.c h.x = some k ∧
        k.events.lookD ev.toNat 0 = n ∧ k.block = some (h.accepted t0 (BitVec.ofNat 64 n))) ∧
    (EnginePending s h (.cfgSwap p lr sl dr rs t0) → r.phase = .placed → r.stopped = false →
      (r.slot sl.toNat).st = .ready → r.lr = lr.toNat → r.ctx = h.x →
      (s.core h.c).unserved h.x rn sl.toNat true = false →
      ∃ t k q, exec (.swapTakesEffect h.c rn) s = .next t ∧ t.mem = s.mem ∧ t.ctx? h.c h.x = some k ∧
        k.block = some (h.accepted t0 (BitVec.ofNat 64 r.cur)) ∧ t.region? h.c rn = some q ∧ q.cur = sl.toNat ∧
        (q.slot sl.toNat).st = .current ∧ q.steps = r.steps + 1) ∧
    (∀ now, EnginePending s h (.rgnQuiet p lr sp t0) →
      now = s.totals (if sp then s.spanning h.c rn r else [(h.c, rn, r)]) →
      (h.ctx.quiet = none → exec (.quiescenceWaveComplete h.c h.x) s =
        .next (s.setCtx h.c h.x { h.ctx with quiet := some now }).acted) ∧
      (∀ before, h.ctx.quiet = some before →
        ∃ t k, exec (.quiescenceWaveComplete h.c h.x) s = .next t ∧ t.mem = s.mem ∧ t.ctx? h.c h.x = some k ∧
          k.quiet = none ∧ k.block = some (h.accepted t0 (if (sumTotals before).1 = (sumTotals before).2 ∧
            (sumTotals now).1 = (sumTotals now).2 ∧ sumTotals before = sumTotals now then 1 else 0))))
/-! ## Firings of elements -/

/-- R48, R53, R61, R64, R289 and R291 to R293, R296 and R298: with its operands present and no ERROR among them, a
computing operation takes one token from each input that lanes feed, emits its word on the F4 route, and keeps the
word as its own output. The word is the operation's over the values of its inputs. -/
def Obligations.ComputingFirings : Prop :=
  ∀ (c e rn sl : Nat) (s : State) (r : Region) (v : View) (i : Instr) (op : Nat) (w : W32),
    ReadyElem s c e rn r sl → v = s.viewOf c r sl e → v.clean → v.g.op = op →
    ((i, op) ∈ [(Instr.iadd c e, 0x10), (.isub c e, 0x11), (.imul c e, 0x12), (.imac c e, 0x13), (.iand c e, 0x14),
        (.ior c e, 0x15), (.ixor c e, 0x16), (.ishl c e, 0x17), (.ishr c e, 0x18), (.isra c e, 0x19), (.imin c e, 0x1A),
        (.imax c e, 0x1B), (.iabs c e, 0x1C), (.isat c e, 0x1D), (.icmp c e, 0x1E)] ∧
      w = intWord op v.g.variant v.g.sub v.g.sat (v.val 0) (v.val 1) (v.val 2)) ∨
    ((i, op) ∈ [(Instr.elemFadd c e, 0x20), (.elemFmul c e, 0x21), (.ffma c e, 0x22), (.elemFmin c e, 0x23),
        (.elemFmax c e, 0x24), (.elemFcmp c e, 0x25), (.elemFcvt c e, 0x26), (.frcp c e, 0x27), (.frsq c e, 0x28),
        (.fexp2 c e, 0x29), (.flog2 c e, 0x2A)] ∧
      w = f32Op op v.g.variant v.g.fctl (v.val 0) (v.val 1) (v.val 2)) ∨
    ((i, op) ∈ [(Instr.cadd c e, 0x40), (.csub c e, 0x41), (.cmul c e, 0x42), (.cconj c e, 0x44), (.cabs2 c e, 0x45),
        (.cscl c e, 0x46)] ∧ w = complexOp v.g (v.val 0) (v.val 1)) ∨
    (i = .perm c e ∧ op = 0x51 ∧ w = permWord v.g (v.val 0) (v.val 1)) →
    ∃ fd, Fires i s c e rn r sl fd ∧ fd.take = v.takes v.ins ∧ fd.outs = outTo v.g.prim (v.token w) ∧
      fd.priv.own = EReg.set w v.gen ∧ fd.pulses = [] ∧ fd.pool = none ∧ fd.records = []

/-- R289, R293, R294, R296 and R298: the words of the operations on integers, fixed-point and complex values and of
PERM. Integer and fixed-point words are given by their subword k, in every width: sums, products and shifts with and
without saturation, ISAT to any length, and the six comparisons. Quotients and inverse roots round once. SIDE[1] says
that an edge case met a subword, SIDE[0] that every subword accepted its warm start. -/
def Obligations.ElementIntegerWords : Prop :=
  (∀ (sub w k : Nat) (sat : Bool) (a b c : W32) (x y z : BitVec w) (lo hi top : Int) (out : Nat → Nat → Bool → BitVec w),
    (sub, w) ∈ [(0, 32), (1, 16), (2, 8)] → w * (k + 1) ≤ 32 → x = a.extractLsb' (w * k) w →
    y = b.extractLsb' (w * k) w → z = c.extractLsb' (w * k) w → lo = -2 ^ (w - 1) → hi = 2 ^ (w - 1) - 1 →
    top = 2 ^ w - 1 → out = (fun op v sat => (intWord op v sub sat a b c).extractLsb' (w * k) w) →
    (out 0x10 0 false = x + y ∧ out 0x10 8 false = x + y ∧
      out 0x10 0 true = BitVec.ofInt w (max lo (min hi (x.toInt + y.toInt))) ∧
      out 0x10 8 true = BitVec.ofInt w (min top (x.toNat + y.toNat))) ∧
    (out 0x11 0 false = x - y ∧ out 0x11 8 false = x - y ∧
      out 0x11 0 true = BitVec.ofInt w (max lo (min hi (x.toInt - y.toInt))) ∧
      out 0x11 8 true = BitVec.ofInt w (max 0 ((x.toNat : Int) - y.toNat))) ∧
    (out 0x12 0 false = x * y ∧ out 0x12 0 true = BitVec.ofInt w (max lo (min hi (x.toInt * y.toInt))) ∧
      out 0x12 1 sat = BitVec.ofInt w (x.toInt * y.toInt / 2 ^ w) ∧
      out 0x12 2 sat = BitVec.ofNat w (x.toNat * y.toNat / 2 ^ w)) ∧
    (out 0x13 0 false = x * y + z ∧ out 0x13 8 false = x * y + z ∧
      out 0x13 0 true = BitVec.ofInt w (max lo (min hi (x.toInt * y.toInt + z.toInt))) ∧
      out 0x13 8 true = BitVec.ofInt w (min top ((x.toNat : Int) * y.toNat + z.toNat))) ∧
    (out 0x14 0 sat = x &&& y ∧ out 0x15 0 sat = x ||| y ∧ out 0x16 0 sat = x ^^^ y) ∧
    (out 0x17 0 false = x <<< y.toNat ∧ out 0x18 0 sat = x >>> y.toNat ∧
      out 0x19 0 sat = x.sshiftRight (min y.toNat w) ∧
      (y.toNat < w → out 0x17 0 true = BitVec.ofInt w (max lo (min hi (x.toInt * 2 ^ y.toNat))) ∧
        out 0x17 8 true = BitVec.ofInt w (min top ((x.toNat : Int) * 2 ^ y.toNat))) ∧
      (w ≤ y.toNat → out 0x17 0 true = BitVec.ofInt w (if x = 0 then 0 else if x.toInt < 0 then lo else hi) ∧
        out 0x17 8 true = BitVec.ofInt w (if x = 0 then 0 else top))) ∧
    (out 0x1A 0 sat = (if x.sle y then x else y) ∧ out 0x1A 8 sat = (if x ≤ y then x else y) ∧
      out 0x1B 0 sat = (if x.sle y then y else x) ∧ out 0x1B 8 sat = (if x ≤ y then y else x) ∧
      out 0x1C 0 false = (if x.msb then -x else x) ∧ out 0x1C 0 true = BitVec.ofInt w (min hi x.toInt.natAbs)) ∧
    (∀ m, m = y.toNat % 32 + 1 →
      out 0x1D 0 sat = BitVec.ofInt w (max (-2 ^ (m - 1)) (min (2 ^ (m - 1) - 1) x.toInt)) ∧
      out 0x1D 8 sat = BitVec.ofInt w (max 0 (min (2 ^ m - 1) x.toInt))) ∧
    (out 0x1E 0 sat = (if x = y then 1 else 0) ∧ out 0x1E 1 sat = (if x = y then 0 else 1) ∧
      out 0x1E 2 sat = (if x.slt y then 1 else 0) ∧ out 0x1E 3 sat = (if x.sle y then 1 else 0) ∧
      out 0x1E 4 sat = (if x.ult y then 1 else 0) ∧ out 0x1E 5 sat = (if x.ule y then 1 else 0))) ∧
  (∀ (g : Cfg) (a b : W32) (c : Option (W32 × BitVec 8)) (w k fa fb fo : Nat) (x y r : BitVec w) (lo hi : Int),
    (g.sub, w) ∈ [(0, 32), (1, 16)] → w * (k + 1) ≤ 32 → x = a.extractLsb' (w * k) w → y = b.extractLsb' (w * k) w →
    fa = g.opt 0 % 32 → fb = g.opt 0 / 32 % 32 → fo = g.opt 0 / 1024 % 32 → lo = -2 ^ (w - 1) → hi = 2 ^ (w - 1) - 1 →
    r = (fixWord g a b c).1.extractLsb' (w * k) w →
    (g.op = 0x30 → (fixWord g a b c).2 = 0 ∧
      r = BitVec.ofInt w (max lo (min hi (rounded g.rnd (x.toInt * y.toInt * 2 ^ fo) (2 ^ (fa + fb)))))) ∧
    (g.op = 0x31 →
      (x.toInt ≤ 0 → r = BitVec.ofInt w hi ∧ (fixWord g a b c).2.getLsbD 1 = true) ∧
      (∀ q : Nat, 0 < x.toInt → (q : Int) * q * x.toInt ≤ 2 ^ (2 * fo + fa) →
        (2 ^ (2 * fo + fa) : Int) < (q + 1) * (q + 1) * x.toInt →
        r = BitVec.ofInt w (min hi ((if (q : Int) * q * x.toInt ≠ 2 ^ (2 * fo + fa) ∧
          takesUpper g.rnd false (q % 2 = 1)
            (compare (4 * 2 ^ (2 * fo + fa) : Int) ((2 * q + 1) * (2 * q + 1) * x.toInt)) = true
          then q + 1 else q : Nat) : Int)))) ∧
    (g.op = 0x32 →
      (y = 0 → r = BitVec.ofInt w (if 0 ≤ x.toInt then hi else lo) ∧ (fixWord g a b c).2.getLsbD 1 = true) ∧
      (y ≠ 0 → r = BitVec.ofInt w (max lo (min hi
        (rounded g.rnd (x.toInt * y.toInt.sign * 2 ^ (fo + fb)) (y.toInt.natAbs * 2 ^ fa)))))) ∧
    ((fixWord g a b none).2.getLsbD 0 = false ∧
      ∀ v s, s.toNat ≠ g.opt 1 % 256 → (fixWord g a b (some (v, s))).2.getLsbD 0 = false) ∧
    ∀ v s, w = 32 → s.toNat = g.opt 1 % 256 →
      (g.op = 0x32 → (fixWord g a b (some (v, s))).2.getLsbD 0 =
        decide (16 * (v.toInt * y.toInt * 2 ^ fa - x.toInt * 2 ^ (fo + fb)).natAbs ≤ x.toInt.natAbs * 2 ^ (fo + fb))) ∧
      (g.op = 0x31 → (fixWord g a b (some (v, s))).2.getLsbD 0 =
        decide (16 * (v.toInt * v.toInt * x.toInt - 2 ^ (2 * fo + fa)).natAbs ≤ 2 ^ (2 * fo + fa)))) ∧
  (∀ (g : Cfg) (a b : W32) (ar ai br bi : Int) (near s16 : Int → Int) (pack : Int → Int → W32),
    ar = (a.extractLsb' 0 16).toInt → ai = (a.extractLsb' 16 16).toInt → br = (b.extractLsb' 0 16).toInt →
    bi = (b.extractLsb' 16 16).toInt → near = (fun x => rounded g.rnd x (2 ^ (g.opt 0 % 16))) →
    s16 = (fun x => max (-32768) (min 32767 x)) → pack = (fun r i => BitVec.ofInt 16 i ++ BitVec.ofInt 16 r) →
    (g.op = 0x40 → complexOp g a b =
      if g.sat then pack (s16 (ar + br)) (s16 (ai + bi)) else pack (ar + br) (ai + bi)) ∧
    (g.op = 0x41 → complexOp g a b =
      if g.sat then pack (s16 (ar - br)) (s16 (ai - bi)) else pack (ar - br) (ai - bi)) ∧
    (∀ s, g.op = 0x42 → s = (if g.variant % 2 = 1 then -ai else ai) → complexOp g a b =
      pack (s16 (near (ar * br - s * bi))) (s16 (near (ar * bi + s * br)))) ∧
    (g.op = 0x44 → complexOp g a b = pack ar (s16 (-ai))) ∧
    (g.op = 0x45 → complexOp g a b =
      BitVec.ofInt 32 (max (-2147483648) (min 2147483647 (near (ar * ar + ai * ai))))) ∧
    (g.op = 0x46 → complexOp g a b = pack (s16 (near (ar * br))) (s16 (near (ai * br))))) ∧
  ∀ (g : Cfg) (a b : W32) (i k e : Nat), i < 32 → k < 4 → e = g.opt 0 / 16 ^ k % 16 →
    (g.variant = 0 → (permWord g a b).getLsbD i = a.getLsbD (((List.range 5).map fun j =>
      if (g.opt ((5 * i + j) / 16)).testBit ((5 * i + j) % 16) then 2 ^ j else 0).sum)) ∧
    (g.variant = 1 → (permWord g a b).extractLsb' (8 * k) 8 =
      if 8 ≤ e then 0 else (b ++ a : BitVec 64).extractLsb' (8 * e) 8)

/-- R293, R294, R297, R300 and R308: fixed-point words with the operation's own SIDE, a rotation of the word of one
element, sums of log-likelihood ratios with their hard decisions on F5, and the generator's two words. -/
def Obligations.ComputingFiringsWithSides : Prop :=
  ∀ (c e rn sl : Nat) (s : State) (r : Region) (v : View) (i : Instr) (op : Nat),
    ReadyElem s c e rn r sl → v = s.viewOf c r sl e → v.clean → v.g.op = op →
    ((i, op) ∈ [(Instr.qmul c e, 0x30), (.qrsq c e, 0x31), (.qdiv c e, 0x32)] →
      ∀ w, w = fixWord v.g (v.val 0) (v.val 1) ((v.tok 2).map fun t => (t.pay, t.side)) →
      ∃ fd, Fires i s c e rn r sl fd ∧ fd.take = v.takes v.ins ∧ fd.outs = outTo v.g.prim (v.result w.1 (some w.2))) ∧
    (i = .rotz c e → op = 0x50 → ∀ k,
      k = (if v.g.variant % 2 = 1 then v.g.k0.toNat else (v.val 1).toNat) % (v.g.opt 0 % 512) →
      ∃ fd w, Fires i s c e rn r sl fd ∧ fd.take = v.takes v.ins ∧ fd.outs = outTo v.g.prim (v.token w) ∧
        w = BitVec.ofNat 32 (rotz v.g 32 (v.val 0).toNat k)) ∧
    (i = .llrs c e → op = 0x53 →
      ∃ fd, Fires i s c e rn r sl fd ∧ fd.take = v.takes v.ins ∧
        fd.outs = outTo v.g.prim (v.token (llrsWord v.g (v.val 0) (v.val 1)).1) ++
          outTo v.g.sec (v.token (llrsWord v.g (v.val 0) (v.val 1)).2)) ∧
    (i = .rng c e → op = 0x70 → ∀ z, z = rngWord v.seed0 v.seed1 v.g.k0 (v.val 0) →
      ∃ fd, Fires i s c e rn r sl fd ∧ fd.take = v.takes v.ins ∧
        fd.outs = if v.g.variant = 1 then outTo v.g.prim (v.token (rngFloat z))
          else outTo v.g.prim (v.token (z.setWidth 32)) ++ outTo v.g.sec (v.token (z.extractLsb' 32 32)))

/-- R80, R95 to R98, R295, R296, R299, R301 to R303 and R306: operations that keep a value from token to token. PIVG
adds its offset to the subwords below its threshold, clamped, counts them in CTR, and says in SIDE[7] whether there
was one, with SIDE[6:0] of A; CMAC, XORR, CRCS and MINS keep their sum, word, remainder or group; MMA and XACC add to
the exact accumulator and forward their tokens. What a block addition adds: the exact products of its pairs, or their
NaN and infinities. -/
def Obligations.KeepingFirings : Prop :=
  (∀ (x o y : Xa) (pairs : List (FVal × FVal)) (mx : Option (Nat × Nat)) (g : BitVec 12) (f26 f27 : BitVec 16) (k : Int)
      (bad : Bool),
    y = blockAdd x pairs mx g f26 f27 →
    o = (if x.gen = g then x else { x with v := 0, nan := false, pinf := false, ninf := false, guarded := false,
                                           count := 0, poison := false, gen := g }) →
    k = (match mx with | some (sa, sb) => (sa : Int) + sb - 254 | none => 0) →
    bad = (match mx with | some (sa, sb) => sa = 0xFF || sb = 0xFF | none => false) →
    y.gen = g ∧ y.poison = o.poison ∧ y.count.toNat = min (o.count.toNat + 1) 0xFFFFFFFF ∧
    y.dfmt = f26.extractLsb' 12 4 ∧ y.drnd = f26.extractLsb' 9 3 ∧ y.dftz = f26.getLsbD 8 ∧ y.klen = f27 ∧
    y.guarded = (o.guarded || !(y.v.extractLsb' 631 9 == 0 || y.v.extractLsb' 631 9 == BitVec.allOnes 9)) ∧
    (bad = true → y.v = o.v ∧ y.nan = true ∧ y.pinf = o.pinf ∧ y.ninf = o.ninf) ∧
    (bad = false →
      y.v = o.v + (pairs.map fun p => exactTerm k p.1 p.2).foldl (· + ·) 0 ∧
      y.nan = (o.nan || pairs.any fun p => p.1.isNan || p.2.isNan || (p.1.isInf && p.2.isZero) ||
        (p.1.isZero && p.2.isInf)) ∧
      y.pinf = (o.pinf || pairs.any fun p => infTerm p.1 p.2 && p.1.isNeg == p.2.isNeg) ∧
      y.ninf = (o.ninf || pairs.any fun p => infTerm p.1 p.2 && p.1.isNeg != p.2.isNeg))) ∧
  (∀ (f : FloatFmt) (code e m : Nat), f ∈ [f32, bf16, fp16, e5m2, e4m3, fp4] → code < 2 ^ f.bits →
    m = code % 2 ^ f.mbits → e = code / 2 ^ f.mbits % 2 ^ f.ebits →
    decodeFloat f code = if f.isNan code then .nan else if f.isInf code then .inf (f.neg code)
      else .fin (f.neg code) (if e = 0 then m else 2 ^ f.mbits + m) ((max e 1 : Nat) - (f.bias : Int) - f.mbits)) ∧
  (∀ (a b : W32) (two : FloatFmt → FloatFmt → List (FVal × FVal)),
    two = (fun f g => [(decodeFloat f (a.extractLsb' 0 8).toNat, decodeFloat g (b.extractLsb' 0 8).toNat),
      (decodeFloat f (a.extractLsb' 8 8).toNat, decodeFloat g (b.extractLsb' 8 8).toNat)]) →
    mmaPairs 0 a b = ([0, 4, 8, 12].map fun i =>
      (decodeFloat fp4 (a.extractLsb' i 4).toNat, decodeFloat fp4 (b.extractLsb' i 4).toNat)) ∧
    mmaPairs 1 a b = two e4m3 e4m3 ∧ mmaPairs 2 a b = two e5m2 e5m2 ∧ mmaPairs 3 a b = two e4m3 e5m2 ∧
    mmaPairs 4 a b = two e5m2 e4m3 ∧
    mmaPairs 5 a b = ([0, 8].map fun i => (wholeVal (a.extractLsb' i 8).toInt, wholeVal (b.extractLsb' i 8).toInt)) ∧
    mmaPairs 6 a b = [(decodeFloat bf16 (a.extractLsb' 0 16).toNat, decodeFloat bf16 (b.extractLsb' 0 16).toNat)] ∧
    mmaPairs 7 a b = [(decodeFloat fp16 (a.extractLsb' 0 16).toNat, decodeFloat fp16 (b.extractLsb' 0 16).toNat)] ∧
    xaccPairs 0 a = [(decodeFloat f32 a.toNat, wholeVal 1)] ∧
    xaccPairs 1 a = [(decodeFloat bf16 (a.extractLsb' 0 16).toNat, wholeVal 1)] ∧
    xaccPairs 2 a = [(decodeFloat fp16 (a.extractLsb' 0 16).toNat, wholeVal 1)] ∧
    xaccPairs 3 a = [(wholeVal a.toInt, wholeVal 1)]) ∧
  ∀ (c e rn sl : Nat) (s : State) (r : Region) (v : View),
    ReadyElem s c e rn r sl → v = s.viewOf c r sl e → v.clean →
    (∀ (w n : Nat) (low : Nat → Bool), v.g.op = opPivg → (v.g.sub, w) ∈ [(0, 32), (1, 16)] →
      low = (fun k => decide (((v.val 0).extractLsb' (w * k) w).toInt.natAbs < (v.g.k0.extractLsb' (w * k) w).toNat)) →
      n = (List.range (32 / w)).countP low →
      ∃ fd t res, Fires (.pivg c e) s c e rn r sl fd ∧ fd.take = v.takes v.ins ∧ fd.outs = outTo v.g.prim t ∧
        t.pay = (v.result res none).pay ∧ fd.priv.own = EReg.set res v.gen ∧
        (∀ k, w * (k + 1) ≤ 32 → res.extractLsb' (w * k) w =
          if low k then BitVec.ofInt w (max (-2 ^ (w - 1)) (min (2 ^ (w - 1) - 1)
            (((v.val 0).extractLsb' (w * k) w).toInt + (v.g.k1.extractLsb' (w * k) w).toInt)))
          else (v.val 0).extractLsb' (w * k) w) ∧
        t.side.getLsbD 7 = decide (n ≠ 0) ∧ (∀ a, v.tok 0 = some a → t.side.setWidth 7 = a.side.setWidth 7) ∧
        fd.priv.ctr.tag = v.gen ∧ fd.priv.ctr.val =
          (if v.priv.ctr.tag = v.gen then v.priv.ctr.val else 0) + BitVec.ofNat 32 n) ∧
    (v.g.op = opCmac →
      ∃ fd, Fires (.cmac c e) s c e rn r sl fd ∧ fd.take = v.takes v.ins ∧ fd.outs = [] ∧
        fd.priv.op.sumR = v.priv.op.sumR + BitVec.ofInt 64 (cProd v.g (v.val 0) (v.val 1)).1 ∧
        fd.priv.op.sumI = v.priv.op.sumI + BitVec.ofInt 64 (cProd v.g (v.val 0) (v.val 1)).2) ∧
    (v.g.op = opMins → v.priv.op.group.length + 1 ≠ v.g.cntA → ∀ t, v.tok 0 = some t →
      ∃ fd, Fires (.mins c e) s c e rn r sl fd ∧ fd.take = v.takes v.ins ∧ fd.outs = [] ∧
        fd.priv.op.group = v.priv.op.group ++ [t]) ∧
    (v.g.op = opMins → v.priv.op.group.length + 1 = v.g.cntA → ∀ t, v.tok 0 = some t →
      ∃ fd, Fires (.mins c e) s c e rn r sl fd ∧ fd.outs = v.minsOuts (v.priv.op.group ++ [t]) ∧
        fd.priv.op.group = []) ∧
    (v.g.op = opXorr →
      ∃ fd, Fires (.xorr c e) s c e rn r sl fd ∧ fd.take = v.takes v.ins ∧
        (v.g.cntA = 0 ∨ v.priv.op.xCount + 1 ≠ v.g.cntA →
          fd.outs = [] ∧ fd.priv.op.x = v.priv.op.x ^^^ v.val 0 ∧ fd.priv.op.xCount = v.priv.op.xCount + 1) ∧
        (v.g.cntA ≠ 0 → v.priv.op.xCount + 1 = v.g.cntA →
          fd.outs = outTo v.g.prim (v.token (xorrOut v.g (v.priv.op.x ^^^ v.val 0))) ∧ fd.priv.op.x = 0 ∧
            fd.priv.op.xCount = 0)) ∧
    (v.g.op = opCrcs → ∀ t, v.tok 0 = some t →
      ∃ fd, Fires (.crcs c e) s c e rn r sl fd ∧ fd.take = v.takes v.ins ∧
        fd.outs = outTo v.g.sec { t with ctx := v.x } ∧ fd.priv.op.live = true ∧
        fd.priv.op.crc = crcWord v.g (if v.priv.op.live then v.priv.op.crc else crcInit v.g) (v.val 0)) ∧
    (v.g.op = opMma → ∀ ta tb mx, v.tok 0 = some ta → v.tok 1 = some tb →
      mx = (if 8 ≤ v.g.variant then some (ta.side.toNat, tb.side.toNat) else none) →
      ∃ fd, Fires (.mma c e) s c e rn r sl fd ∧ fd.take = v.takes v.ins ∧
        fd.outs = outTo v.g.prim { ta with ctx := v.x } ++ outTo v.g.sec { tb with ctx := v.x } ∧
        fd.priv.xa = blockAdd v.priv.xa (mmaPairs (v.g.variant % 8) (v.val 0) (v.val 1)) mx v.gen v.g.f26 v.g.f27) ∧
    (v.g.op = opXacc → ∀ ta, v.tok 0 = some ta →
      ∃ fd, Fires (.xacc c e) s c e rn r sl fd ∧ fd.take = v.takes v.ins ∧
        fd.outs = outTo v.g.prim { ta with ctx := v.x } ∧
        fd.priv.xa = blockAdd v.priv.xa (xaccPairs v.g.variant (v.val 0)) none v.gen v.g.f26 v.g.f27)

/-- R280 and R286: PASS, FILT, EXPD, REP, GATE, JOIN, CONST and CNT. Forwarded tokens keep their TAG and SIDE and take
the slot's context; REP, CONST and CNT go on with a run that is under way, one token a firing; a CNT node enables its
children one pulse a firing and ends when they have finished; under ENV a CNT takes and discards what stands on A
beside its run. -/
def Obligations.ForwardingFirings : Prop :=
  ∀ (c e rn sl : Nat) (s : State) (r : Region) (v : View),
    ReadyElem s c e rn r sl → v = s.viewOf c r sl e →
    (v.g.op = opPass → ∀ t, v.tok 0 = some t →
      ∃ fd, Fires (.pass c e) s c e rn r sl fd ∧ fd.take = [(0, t)] ∧
        fd.outs = outTo v.both { t with ctx := v.x } ∧ fd.priv = v.priv) ∧
    (v.g.op = opFilt → v.clean → ∀ t, v.tok 0 = some t →
      ∃ fd, Fires (.filt c e) s c e rn r sl fd ∧ fd.take = v.takes v.ins ∧ fd.priv = v.priv ∧
        fd.outs = outTo (if (v.val 1).getLsbD 0 then v.g.prim else if v.g.variant = 1 then v.g.sec else [])
          { t with ctx := v.x }) ∧
    (v.g.op = opExpd → ∀ b, v.tok 1 = some b → b.kind = .data →
      (b.pay.getLsbD 0 = true → ∀ t, v.tok 0 = some t →
        ∃ fd, Fires (.expd c e) s c e rn r sl fd ∧ fd.take = [(0, t), (1, b)] ∧
          fd.outs = outTo v.g.prim { t with ctx := v.x }) ∧
      (b.pay.getLsbD 0 = false →
        ∃ fd t, Fires (.expd c e) s c e rn r sl fd ∧ fd.take = [(1, b)] ∧ fd.outs = outTo v.g.prim t ∧
          t.tag = (if v.g.tmode = 2 then v.g.tagK else b.tag) ∧ (v.ecc = false → t.pay = v.g.k0 ∧ t.kind = .data))) ∧
    (v.g.op = opRep →
      (v.clean → v.priv.op.repTok = none → ∀ t n, v.tok 0 = some t →
        n = (if v.g.kind 1 = 0 then v.g.cntA else (v.val 1).toNat) →
        ∃ fd, Fires (.rep c e) s c e rn r sl fd ∧ fd.take = v.takes v.ins ∧
          fd.outs = (if n = 0 then [] else outTo v.g.prim { t with ctx := v.x }) ∧ fd.priv.op.rep = n - 1 ∧
          fd.priv.op.repTok = if 1 < n then some t else none) ∧
      (∀ t, v.priv.op.repTok = some t → t.ctx = v.x →
        ∃ fd, Fires (.rep c e) s c e rn r sl fd ∧ fd.take = [] ∧ fd.outs = outTo v.g.prim { t with ctx := v.x } ∧
          fd.priv.op.rep = v.priv.op.rep - 1 ∧ fd.priv.op.repTok = if 1 < v.priv.op.rep then some t else none)) ∧
    (v.g.op = opGate → ∀ t, v.tok 0 = some t → v.g.env = false ∨ v.priv.op.grants ≠ 0 →
      ∃ fd, Fires (.gate c e) s c e rn r sl fd ∧ fd.take = [(0, t)] ∧ fd.outs = outTo v.g.prim { t with ctx := v.x } ∧
        fd.priv.op.grants = if v.g.env then v.priv.op.grants - 1 else v.priv.op.grants) ∧
    (v.g.op = opJoin → v.clean → ∀ ta tb, v.tok 0 = some ta → v.tok 1 = some tb →
      ∃ fd, Fires (.join c e) s c e rn r sl fd ∧ fd.take = v.takes v.ins ∧
        fd.outs = outTo v.g.prim { ta with ctx := v.x } ++ outTo v.g.sec { tb with ctx := v.x }) ∧
    (v.g.op = opConst →
      (v.g.env = false → v.g.cntA = 0 → r.cur = sl →
        ∃ fd, Fires (.const c e) s c e rn r sl fd ∧ fd.take = [] ∧ fd.outs = outTo v.g.prim (v.sourceTok v.g.k0)) ∧
      (∀ n, v.g.env = true ∨ v.g.cntA ≠ 0 → v.priv.op.run = some (v.x, n) →
        ∃ fd, Fires (.const c e) s c e rn r sl fd ∧ fd.take = [] ∧
          (n + 1 < max v.g.cntA 1 →
            fd.outs = outTo v.g.prim (v.sourceTok v.g.k0) ∧ fd.priv.op.run = some (v.x, n + 1)) ∧
          (max v.g.cntA 1 ≤ n + 1 →
            fd.outs = outTo v.g.prim (v.sourceTok v.g.k0) ++ v.runEnd ∧ fd.priv.op.run = none))) ∧
    (v.g.op = opCnt → ∀ n off, v.priv.op.run = some (v.x, n) →
      (v.g.env = true → ∀ t, v.tok 0 = some t → t.kind = .data) →
      off = (if v.g.env then (v.tok 0).toList.map fun t => (0, t) else []) →
      (v.g.node = 0 → n < v.g.cntA →
        ∃ fd, Fires (.cnt c e) s c e rn r sl fd ∧ fd.take = off ∧
          (n + 1 < v.g.cntA →
            fd.outs = outTo v.g.prim (v.sourceTok (v.g.k0 + BitVec.ofInt 32 ((n : Int) * v.g.cntB))) ∧
            fd.priv.op.run = some (v.x, n + 1) ∧ fd.pulses = []) ∧
          (n + 1 = v.g.cntA → fd.priv.op.run = none ∧ fd.pulses = if v.g.upv then [v.g.upRoute] else [])) ∧
      (v.g.node ≠ 0 → ∀ kids, kids = setBits v.g.enOut →
        (nodeDone v.g v.priv.op kids.length = true →
          ∃ fd, Fires (.cnt c e) s c e rn r sl fd ∧ fd.take = off ∧ fd.outs = v.runEnd ∧ fd.priv.op.run = none ∧
            fd.pulses = if v.g.upv then [v.g.upRoute] else []) ∧
        (∀ k i, nodeDone v.g v.priv.op kids.length = false → nextEnable v.g v.priv.op kids.length = some (k, i) →
          ∃ fd, Fires (.cnt c e) s c e rn r sl fd ∧ fd.take = off ∧ fd.pulses = [kids.getD k 0] ∧
            fd.priv.op.enabled = bump v.priv.op.enabled kids.length k)))

/-- R281 to R285, R288 and R307: STEER and SWCH choose a route, with direction tokens, sequence numbers and free slots
where they are configured; MERGE takes the arm that its direction token names and AMRG the next input in turn; a
loop-exit STEER takes iterations in the order of its issue tokens, and its first exit squashes those behind; TAGA
hands out the lowest free tag and takes returned ones, and TAGF sends a thread's tag back and forgets its count; REORD
releases by SIDE, and a SIDE that its window holds already is an ERROR and a record (R431); REQ issues a request or
returns a response. That the token that TAGF returns carries the tag in TAG too, and SIDE 0, is the model's choice
(log 51). -/
def Obligations.RoutingFirings : Prop :=
  ∀ (c e rn sl : Nat) (s : State) (r : Region) (v : View),
    ReadyElem s c e rn r sl → v = s.viewOf c r sl e →
    (v.g.op = opSteer → v.g.variant = 0 → (v.g.dirv = true → v.priv.op.outst < v.g.dqd) → v.clean → ∀ t, v.tok 0 = some t →
      ∃ fd, Fires (.steer c e) s c e rn r sl fd ∧ fd.take = v.takes v.ins ∧
        fd.outs = outTo (if (v.val 1).getLsbD 0 then v.g.prim else v.g.sec) { t with ctx := v.x } ++
          outTo v.g.dirLanes { kind := .data, ctx := v.x, tag := t.tag, side := 0, pay := (v.val 1) &&& 1 } ∧
        fd.priv.op.outst = if v.g.dirv then v.priv.op.outst + 1 else v.priv.op.outst) ∧
    (v.g.op = opSwch → v.clean → ∀ t k, v.tok 0 = some t → k = min ((v.val 1).toNat % 8) (v.g.ways - 1) →
      v.g.wayFree k = 0 ∨ v.priv.op.free.lookD k 0 ≠ 0 →
      ∃ fd, Fires (.swch c e) s c e rn r sl fd ∧ fd.take = v.takes v.ins ∧
        fd.outs = outTo (v.g.wayLanes k)
          { t with ctx := v.x, side := if 8 ≤ v.g.variant then v.priv.op.seq else t.side } ∧
        fd.priv.op.seq = (if 8 ≤ v.g.variant then v.priv.op.seq + 1 else v.priv.op.seq) ∧
        (v.g.wayFree k ≠ 0 → fd.priv.op.free.lookD k 0 = v.priv.op.free.lookD k 0 - 1)) ∧
    (v.g.op = opMerge → ∀ d t, v.tok 2 = some d → d.kind = .data →
      v.tok (if d.pay.getLsbD 0 then 0 else 1) = some t →
      ∃ fd, Fires (.merge c e) s c e rn r sl fd ∧ fd.take = [(if d.pay.getLsbD 0 then 0 else 1, t), (2, d)] ∧
        fd.outs = outTo v.g.prim { t with ctx := v.x } ∧ fd.pulses = v.g.credit) ∧
    (v.g.op = opAmrg → v.dete = false → ∀ k t, k ∈ v.ins → v.tok k = some t →
      (∀ j, j ∈ v.ins → (v.tok j).isSome = true →
        (k + 2 - v.priv.op.amrgLast % 3) % 3 ≤ (j + 2 - v.priv.op.amrgLast % 3) % 3) →
      ∃ fd, Fires (.amrg c e) s c e rn r sl fd ∧ fd.take = [(k, t)] ∧ fd.outs = outTo v.g.prim { t with ctx := v.x } ∧
        fd.priv.op.amrgLast = k) ∧
    (v.g.isLoopExit = true → v.priv.op.sq = false →
      (∀ d, v.tok 2 = some d →
        ∃ fd, Fires (.loopExitSteer c e) s c e rn r sl fd ∧ fd.take = [(2, d)] ∧ fd.outs = [] ∧
          fd.priv.op.issue = v.priv.op.issue ++ [d.tag]) ∧
      (∀ t d rest ts, v.tok 2 = none → v.g.isTok 1 = true → v.priv.op.issue = t.tag :: rest →
        v.seg 0 = t :: ts → t.kind = .data → v.seg 1 = [d] → d.kind = .data → d.tag = t.tag →
        (d.pay.getLsbD 0 = true →
          ∃ fd, Fires (.loopExitSteer c e) s c e rn r sl fd ∧ fd.take = [(0, t), (1, d)] ∧
            fd.outs = outTo v.g.prim { t with ctx := v.x } ∧ fd.priv.op.issue = rest ∧ fd.priv.op.sq = false) ∧
        (d.pay.getLsbD 0 = false →
          ∃ fd, Fires (.loopExitSteer c e) s c e rn r sl fd ∧ fd.take = [(0, t), (1, d)] ∧
            fd.outs = outTo v.g.sec { t with ctx := v.x } ++
              rest.map (fun u => { lanes := v.both, tok := { kind := .squash, ctx := v.x, tag := u } }) ∧
            fd.priv.op.issue = [] ∧ fd.priv.op.sq = true))) ∧
    (v.g.op = opTaga →
      (∀ b bs, v.seg 1 = b :: bs → b.kind = .data →
        ∃ fd, Fires (.taga c e) s c e rn r sl fd ∧ fd.take = [(1, b)] ∧ fd.outs = [] ∧
          fd.pool = some (v.pool &&& ~~~ ((1 : BitVec 64) <<< (b.pay.toNat % 64)))) ∧
      (∀ a, v.seg 1 = [] → v.tok 0 = some a →
        (∀ t, v.priv.op.tagaPos = 0 → v.pool.getLsbD t = false → t < 64 → (∀ u, u < t → v.pool.getLsbD u = true) →
          ∃ fd, Fires (.taga c e) s c e rn r sl fd ∧ fd.take = [(0, a)] ∧ fd.pool = some (v.pool ||| ((1 : BitVec 64) <<< t)) ∧
            fd.outs = outTo v.g.prim { a with ctx := v.x, tag := BitVec.ofNat 6 t } ++
              outTo v.g.sec { kind := .data, ctx := v.x, tag := BitVec.ofNat 6 t, pay := BitVec.ofNat 32 t }) ∧
        (v.priv.op.tagaPos ≠ 0 →
          ∃ fd, Fires (.taga c e) s c e rn r sl fd ∧ fd.take = [(0, a)] ∧ fd.pool = none ∧
            fd.outs = outTo v.g.prim { a with ctx := v.x, tag := v.priv.op.tagaTag }))) ∧
    (v.g.op = opTagf → ∀ a n, v.tok 0 = some a → n = v.priv.op.tagf.lookD a.tag.toNat 0 + 1 →
      ∃ fd, Fires (.tagf c e) s c e rn r sl fd ∧ fd.take = [(0, a)] ∧
        (n ≤ v.g.opt 0 % 16 →
          fd.outs = outTo v.g.prim { a with ctx := v.x } ∧ fd.priv.op.tagf.lookD a.tag.toNat 0 = n) ∧
        (v.g.opt 0 % 16 < n →
          fd.outs = outTo v.g.prim { a with ctx := v.x } ++
            outTo v.g.sec { kind := .data, ctx := v.x, tag := a.tag, pay := a.tag.setWidth 32 } ∧
          ((v.priv.op.tagf.map (·.1)).Nodup → fd.priv.op.tagf.lookD a.tag.toNat 0 = 0))) ∧
    (v.g.op = opReord →
      (∀ t, v.priv.op.window.find? (fun t => t.side = v.priv.op.next && t.ctx = v.x) = some t →
        ∃ fd, Fires (.reord c e) s c e rn r sl fd ∧ fd.take = [] ∧ fd.outs = outTo v.g.prim { t with ctx := v.x } ∧
          fd.priv.op.next = t.side + 1 ∧ fd.priv.op.window = v.priv.op.window.erase t) ∧
      (∀ a, v.priv.op.window.find? (fun t => t.side = v.priv.op.next && t.ctx = v.x) = none → v.tok 0 = some a →
        v.priv.op.window.length < v.g.opt 0 % 64 + 1 →
        ((∃ t, t ∈ v.priv.op.window ∧ t.side = a.side) →
          ∃ fd, Fires (.reord c e) s c e rn r sl fd ∧ fd.take = [(0, a)] ∧
            fd.outs = outTo v.g.prim { kind := .error, ctx := v.x, tag := a.tag, side := a.side,
                                       pay := errorPay 0x4A v.pos v.c } ∧
            fd.records = [(0x4A, a.side.toNat * 65536)] ∧ fd.priv = v.priv) ∧
        ((∀ t, t ∈ v.priv.op.window → t.side ≠ a.side) →
          (a.side = v.priv.op.next →
            ∃ fd, Fires (.reord c e) s c e rn r sl fd ∧ fd.take = [(0, a)] ∧
              fd.outs = outTo v.g.prim { a with ctx := v.x } ∧ fd.priv.op.next = a.side + 1) ∧
          (a.side ≠ v.priv.op.next →
            ∃ fd, Fires (.reord c e) s c e rn r sl fd ∧ fd.take = [(0, a)] ∧ fd.outs = [] ∧
              fd.priv.op.next = v.priv.op.next ∧ fd.priv.op.window = v.priv.op.window ++ [a])))) ∧
    (v.g.op = opReq →
      (∀ b, v.tok 1 = some b →
        ∃ fd, Fires (.req c e) s c e rn r sl fd ∧ fd.take = [(1, b)] ∧ fd.outs = outTo v.g.sec { b with ctx := v.x } ∧
          fd.priv.op.reqOut = if v.g.variant % 2 = 0 then v.priv.op.reqOut - 1 else v.priv.op.reqOut) ∧
      (∀ a fence, v.tok 1 = none → v.tok 0 = some a → a.kind = .data → (∀ j, j ∈ v.ins → j ≠ 1 → v.present j = true) →
        fence = decide (v.g.variant.testBit 1 = true ∨ (v.g.variant.testBit 2 = true ∧ v.priv.op.fenceNext = true)) →
        (v.g.variant % 2 = 0 → v.priv.op.reqOut < v.g.opt 0 % 64 + 1 →
          ∃ fd, Fires (.req c e) s c e rn r sl fd ∧ fd.take = v.takes (v.ins.filter (· ≠ 1)) ∧
            fd.outs = outTo v.g.prim
              { kind := .data, ctx := v.x, tag := a.tag, side := if fence then 0x80 else 0, pay := a.pay } ∧
            fd.priv.op.reqOut = v.priv.op.reqOut + 1) ∧
        (∀ d, v.g.variant % 2 = 1 → v.tok 2 = some d → v.err (v.ins.filter (· ≠ 1)) = none →
          ∃ fd, Fires (.req c e) s c e rn r sl fd ∧ fd.take = [(0, a), (2, d)] ∧
            fd.outs = outTo (v.g.prim.filter fun l => l % 2 = 0)
                { kind := .data, ctx := v.x, tag := a.tag, side := if fence then 0x80 else 0, pay := a.pay } ++
              outTo (v.g.prim.filter fun l => l % 2 = 1) { d with ctx := v.x })))


/-! ## The fabric beside firings -/

/-- R57, R59, R62, R63 and R305: a token at the head of a lane that a switchbox passes goes on to the next element; a
marker that heads every input of an element, a ROUND or an END before which the operation has nothing to say, leaves
all of them and goes out once, and an END clears CTR (R279); a SQUASH removes the DATA of its tag and context from the
inputs that the lane feeds and from the pending updates, and every other token there stays; a drained value leaves on
the drain route. That the SQUASH takes the DATA of its tag out of the lane behind it too is the model's choice (log
57). -/
def Obligations.TokensPassElements : Prop :=
  ∀ (c e rn out n key : Nat) (s : State) (r : Region) (t : Token), LiveElem s c e rn r →
    LeadsTo s c e out n key rn →
    (∀ k ts, s.headOf c e k = some t → t.kind = .data → t.void = false → ((s.core c).cfg t.ctx.toNat e).passTo k = [out] →
      ((s.core c).cfg t.ctx.toNat e).takers k = [] → s.laneSpace c e out t = true → r.crosses e k = false →
      ((s.elem c e).lane k).pre = [] → s.stageOf c e k = t :: ts →
      ∃ u, exec (.switchboxPass c e k) s = .next u ∧ u.mem = s.mem ∧ u.stageOf c e k = ts ∧
        u.stageOf c n key = s.stageOf c n key ++ [t]) ∧
    (∀ sl v ins, ReadyElem s c e rn r sl → v = s.viewOf c r sl e → markerSides v.g = [(ins, [out], 8)] →
      v.g.op ≠ opReord → v.g.op ≠ opRep → v.g.op ≠ opCnt → v.g.isLoopExit = false → ownMarkers v.g.op = false →
      v.dete = false → v.sideMarker ins = some t →
      t.kind = .round ∨ (t.kind = .endTile ∧ (s.elem c e).pend = [] ∧
        v.g.op ∉ [opPivg, opCmac, opMins, opXorr, opCrcs]) →
      s.laneSpace c e out t = true →
      (∀ q, q ∈ (s.elem c e).bufA ++ (s.elem c e).bufB ++ (s.elem c e).bufC → q.void = false) →
      ∃ u, exec (.markerConsume c e) s = .next u ∧ u.mem = s.mem ∧
        (∀ i, i ∈ ins → (u.elem c e).buf i = eraseMarker sl t.kind ((s.elem c e).buf i)) ∧
        u.stageOf c n key = s.stageOf c n key ++ [t] ∧ (t.kind = .round → (u.elem c e).priv = (s.elem c e).priv) ∧
        (t.kind = .endTile → (u.elem c e).priv.ctr = EReg.set 0 v.gen ∧
          (u.elem c e).priv.own = (s.elem c e).priv.own)) ∧
    (∀ k drop, s.headOf c e k = some t → t.kind = .squash →
      s.allSpace c e (((s.core c).cfg t.ctx.toNat e).passTo k) t = true →
      drop = (fun q : Token => q.kind = .data && q.ctx = t.ctx && q.tag = t.tag) →
      ∃ u, exec (.squashArrival c e k) s = .next u ∧ u.mem = s.mem ∧
        (∀ q, q ∈ u.stageOf c e k → drop q = false) ∧
        (∀ ts, ((s.elem c e).lane k).pre = [] → r.crosses e k = false → s.stageOf c e k = t :: ts →
          u.stageOf c e k = ts.filter fun q => !drop q) ∧
        (∀ i, i < 3 → (u.elem c e).buf i = if i ∈ ((s.core c).cfg t.ctx.toNat e).takers k
          then ((s.elem c e).buf i).filter fun q => !drop q else (s.elem c e).buf i) ∧
        ∀ p, p ∈ (u.elem c e).pend → p.waits = true → p.tag ≠ t.tag) ∧
    (∀ ts, (s.elem c e).drains = t :: ts → t.kind = .data → ((s.core c).cfg t.ctx.toNat e).drainLanes = [out] →
      ((s.core c).cfg t.ctx.toNat e).chainLane = none → s.laneSpace c e out t = true →
      ∃ u, exec (.drainChainForward c e) s = .next u ∧ u.mem = s.mem ∧ (u.elem c e).drains = ts ∧
        u.stageOf c n key = s.stageOf c n key ++ [t])

/-- R28, R30, R60, R103, R280, R281, R284, R286, R287 and R451: a pulse is taken by its meaning at the element: it
grants a GATE its tokens, starts a run of CONST or CNT, counts for a child of a CNT node, makes the oldest pending
update permanent, or returns a credit to a STEER or a way of a SWCH; on a route with several meanings it does all of
them (the model's choice, log 49). A full KLEN drains the accumulator. A TAGA whose pool stays empty leaves one
record. -/
def Obligations.PulsesAndDrains : Prop :=
  ∀ (c e rn : Nat) (s : State) (r : Region) (p : Pulse) (g : Cfg), LiveElem s c e rn r →
    g = (s.core c).cfg p.ctx.toNat e →
    (∀ i, (s.elem c e).pulses = [p] →
      (i, pulseRole (s.core c) r e p) ∈ [(Instr.enablePulse c e, PulseRole.enable), (.donePulse c e p.route, .done),
        (.commitPulse c e, .commit), (.creditPulse c e p.route, .credit)] →
      ∃ u, exec i s = .next u ∧ u.mem = s.mem ∧ (u.elem c e).pulses = [] ∧
        (g.op = opGate → g.env = true → p.route = g.enRoute → (u.elem c e).priv.op.grants =
          min 65535 ((s.elem c e).priv.op.grants + if g.cntA = 0 then 1 else g.cntA)) ∧
        (g.op = opConst ∨ g.op = opCnt → g.env = true → p.route = g.enRoute →
          (u.elem c e).priv.op.runsDue = (s.elem c e).priv.op.runsDue ++ [p.ctx]) ∧
        (g.op = opCnt → g.node ≠ 0 → g.doneIn.testBit p.route = true → (u.elem c e).priv.op.doneCnt =
          bump (s.elem c e).priv.op.doneCnt (setBits g.doneIn).length (childOf g.doneIn p.route)) ∧
        (g.op = opSteer → g.variant = 0 → g.dirv = true → p.route = g.crin →
          (r.slot p.ctx.toNat).st = .current ∨ (r.slot p.ctx.toNat).st = .retiring →
          (u.elem c e).priv.op.outst = (s.elem c e).priv.op.outst - 1) ∧
        (g.op = opSwch → p.route < g.ways → g.wayFree p.route ≠ 0 → (u.elem c e).priv.op.free.lookD p.route 0 =
          min 255 ((s.elem c e).priv.op.free.lookD p.route 0 + 1)) ∧
        ∀ a as, pulseRole (s.core c) r e p = .commit → (s.elem c e).pend = a :: as →
          a.waits = true → (∀ b bs, as = b :: bs → b.waits = true ∧ b.tag ≠ a.tag) →
          (u.elem c e).priv = (s.elem c e).priv.apply ((s.core c).cfg a.slot e) (s.genOf c r.ctx) a ∧
            (u.elem c e).pend = as) ∧
    (∀ x, (s.elem c e).pend = [] → (s.elem c e).priv.due = some x → (s.elem c e).priv.xa.poison = false →
      ((s.core c).cfg x.toNat e).drainLanes ≠ [] →
      ∃ u pay, exec (.klenDrain c e) s = .next u ∧ u.mem = s.mem ∧ (u.elem c e).priv.due = none ∧
        (u.elem c e).priv.xa = (s.elem c e).priv.xa.latchedOnly ∧ DrainsTo (s.elem c e).priv.xa pay ∧
        (u.elem c e).drains = (s.elem c e).drains ++ [{ kind := .data, ctx := x, pay }]) ∧
    (∀ sl v t, sl < 4 → v = s.viewOf c r sl e → v.g.op = opTaga → v.g.works = true → r.serves sl = true →
      v.tok 0 = some t → v.priv.op.tagaPos = 0 → v.pool = BitVec.allOnes 64 → v.seg 1 = [] → (s.elem c e).dry = false →
      ∃ u, exec (.tagdry c e) s = .next u ∧ u.mem = s.mem ∧ (u.elem c e).dry = true ∧
        LastRecord s u { s.recordFor c r.alloc (s.genOf c r.ctx) 0x66 2 with
          place := BitVec.ofNat 8 (r.posOf e), info := 64 })

/-! ## The loader, the region scheduler and accumulator commands -/

/-- R34, R72, R73, R240, R249, R250, R262, R264 and R423: the loader serves the head of its core's path. A
configuration word is written at once, a load opens its slot, FREEZE and ABORT set the region's phase, an accumulator
command goes to its elements. A stream whose checks pass leaves its slot READY with what it wrote; one that could not
be read leaves the slot IDLE and one record. -/
def Obligations.LoaderServesThePath : Prop :=
  ∀ (c : Nat) (s : State) (k : CfgCmd) (ks : List CfgCmd) (r : Region) (l : Loading),
    s.region? c k.region = some r →
    ((s.core c).loading = none → (s.core c).cfgPath = k :: ks → r.phase = .placed →
      ∃ t, exec (.loaderServe c) s = .next t ∧ t.mem = s.mem ∧ (t.core c).cfgPath = ks ∧
        (∀ w, k.op = .write w → (t.core c).config =
          writeConfig (s.core c).config r (bitsOf w.toNat 30 2) [(cwElem w, cwField w, cwValue w)]) ∧
        (∀ slot a sch, k.op = .load slot a true sch → (r.slot slot).st ≠ .current → (r.slot slot).st ≠ .retiring →
          (t.core c).loading = some { cmd := k, slot } ∧
          (t.core c).config = clearConfig (s.core c).config r.elems slot ∧
          t.region? c k.region = some (r.setSlot slot { st := .loading })) ∧
        (∀ a, k.op = .freeze a → t.region? c k.region = some { r with phase := .freezing a false }) ∧
        (k.op = .abort → t.region? c k.region = some { r with phase := .aborting }) ∧
        (∀ sel, k.op = .clr sel ∨ k.op = .drain sel none →
          (t.core c).xaCmds = (s.core c).xaCmds ++ [reached r k sel])) ∧
    ((s.core c).loading = some l → l.ended = true → l.cmd = k → (∃ a full, k.op = .load l.slot a full false) →
      (∀ p, l.cause = none → parseStream r (r.slot l.slot).hasHeader l.words = .ok p →
        contentsBad (s.applyStream c k.region l.slot p) c r l.slot = none →
        ∃ t q, exec (.configLoadComplete c) s = .next t ∧ t.mem = s.mem ∧ (t.core c).loading = none ∧
          (t.core c).config = writeConfig (s.core c).config r l.slot p.writes ∧ t.region? c k.region = some q ∧
          (q.slot l.slot).st = .ready ∧ (q.slot l.slot).header = p.header.getD (r.slot l.slot).header) ∧
      (∀ cause, l.cause = some cause →
        ∃ t f, exec (.configLoadComplete c) s = .next t ∧ t.mem = s.mem ∧ (t.core c).loading = none ∧
          (t.core c).config = clearConfig (s.core c).config r.elems l.slot ∧
          t.region? c k.region = some (r.setSlot l.slot {}) ∧ LastRecord s t f ∧ f.cause = BitVec.ofNat 8 cause ∧
          f.src = 3))

/-- R39: a region in demand mode whose CURRENT configuration has neither waiting threads nor tokens in flight, or has
been current for its quantum, swaps to the configuration with the most waiting threads when a slot holds it READY and
no other region of the core is to be served (R334). What counts as a waiting thread (`threads`), and that the choice
leaves the CURRENT configuration out, are the model's choice (log 27). -/
def Obligations.SchedulerSwapsOnDemand : Prop :=
  ∀ (c rn best i n : Nat) (s : State) (r : Region) (al : Alloc) (sh : Shape),
    s.region? c rn = some r → r.demandMode = true → r.stopped = false →
    (r.quantumUp = false →
      exec (.quantumExpiry c rn) s = .next (s.updRegion c rn fun r => { r with quantumUp := true }).acted) ∧
    (r.phase = .placed → r.wantConf = none → (∀ j, j < 4 → (r.slot j).st ≠ .loading) →
      (∀ e, e ∈ (s.core c).regions → e.1 ≠ rn → s.decide c e.1 = none) →
      r.quantumUp = true ∨ (s.threads c r (r.slot r.cur).conf = 0 ∧ s.inFlight c r = false) →
      s.alloc? r.alloc = some al → al.img.shapes[r.ireg]? = some sh →
      bestConf (fun m => if m = (r.slot r.cur).conf then 0 else s.threads c r m) sh.nconf = some (best, n) →
      r.slotOf best [.ready, .retiring] = some i → (r.slot i).st = .ready →
      ∃ t q, exec (.regionSchedulerDecision c rn) s = .next t ∧ t.mem = s.mem ∧ t.region? c rn = some q ∧ q.cur = i ∧
        (q.slot i).st = .current)

/-- R97, R100, R102, R104 to R106, R268 and R269: an accumulator command acts once at each of its elements, between
two firings. XA.CLR leaves the accumulator empty under the element's F26 and F27; a drain sends its value, or writes
it, and empties it; XA.SPILL writes its record and leaves it as it is; XA.FILL and XA.MERGE ask for their record and
install or add it when it has come, or leave the accumulator as it is with one record when it could not be read. When
every element has been served the command ends, with its event if it asked for one. -/
def Obligations.AccumulatorCommandsAct : Prop :=
  ∀ (c e k : Nat) (s : State) (x : XaCmd) (r : Region) (q : Ctx) (a : Xa) (g : Cfg),
    s.region? c x.cmd.region = some r → s.ctx? c r.ctx = some q → a = (s.elem c e).priv.xa →
    g = (s.core c).cfg r.cur e →
    ((s.core c).nextXa e = some x → x.left.find? (fun p => p.1 = e) = some (e, k) → e ∈ x.armed →
      (s.elem c e).settled = true → r.live = true → x.outbox = [] →
      (∀ sel, x.cmd.op = .clr sel →
        ∃ t, exec (.xaCommandAct c e) s = .next t ∧ t.mem = s.mem ∧ ActedAt t c e x ∧
          (t.elem c e).priv.xa = { gen := q.gen, dfmt := g.f26.extractLsb' 12 4, drnd := g.f26.extractLsb' 9 3,
                                   dftz := g.f26.getLsbD 8, klen := g.f27 }) ∧
      (∀ sel, x.cmd.op = .drain sel none → a.gen = q.gen → a.poison = false → g.drainLanes ≠ [] →
        ∃ t pay, exec (.xaCommandAct c e) s = .next t ∧ t.mem = s.mem ∧ ActedAt t c e x ∧
          (t.elem c e).priv.xa = a.latchedOnly ∧ DrainsTo a pay ∧
          (t.elem c e).drains = (s.elem c e).drains ++ [{ kind := .data, ctx := BitVec.ofNat 2 r.cur, pay }]) ∧
      ((s.core c).xaCmds = [x] → (r.selected x.cmd.op.sel)[k]? = some e →
        (∀ sel b, x.cmd.op = .drain sel (some b) → a.gen = q.gen → a.poison = false →
          ∃ t pay, exec (.xaCommandAct c e) s = .next t ∧ t.mem = s.mem ∧ ActedAt t c e x ∧
            (t.elem c e).priv.xa = a.latchedOnly ∧ DrainsTo a pay ∧ (t.elem c e).drains = (s.elem c e).drains ∧
            XaWrites s t c e k x 4 b (leBytes pay.toNat 4) false) ∧
        (∀ sel b, x.cmd.op = .spill sel b → a.gen = q.gen →
          ∃ t bs, exec (.xaCommandAct c e) s = .next t ∧ t.mem = s.mem ∧ ActedAt t c e x ∧
            (t.elem c e).priv.xa = a ∧ SpillsAs a bs ∧ XaWrites s t c e k x 96 b bs a.poison) ∧
        (∀ sel b, x.cmd.op = .fill sel b ∨ x.cmd.op = .merge sel b → x.recordOf k = none → x.asked = k →
          ∃ t, exec (.xaCommandAct c e) s = .next t ∧ t.mem = s.mem ∧ (t.elem c e).priv.xa = a ∧
            (t.core c).xaCmds = [{ x with asked := k + 1 }] ∧
            XaAsks s t c e k x 96 (b + BitVec.ofNat 64 (96 * k)) .load [] false)) ∧
      (∀ sel b bs po, x.recordOf k = some (bs, po, none) →
        (x.cmd.op = .fill sel b → ∃ t, exec (.xaCommandAct c e) s = .next t ∧ t.mem = s.mem ∧ ActedAt t c e x ∧
          FillsTo a (t.elem c e).priv.xa bs po q.gen g.f27) ∧
        (x.cmd.op = .merge sel b → ∃ t, exec (.xaCommandAct c e) s = .next t ∧ t.mem = s.mem ∧ ActedAt t c e x ∧
          MergesTo a (t.elem c e).priv.xa bs po q.gen)) ∧
      (∀ sel b bs po cause, x.recordOf k = some (bs, po, some cause) →
        x.cmd.op = .fill sel b ∨ x.cmd.op = .merge sel b →
        ∃ t f, exec (.xaCommandAct c e) s = .next t ∧ t.mem = s.mem ∧ ActedAt t c e x ∧ (t.elem c e).priv.xa = a ∧
          LastRecord s t f ∧ f.cause = BitVec.ofNat 8 cause ∧ f.addr = b + BitVec.ofNat 64 (96 * k))) ∧
    ((s.core c).xaCmds.find? (fun y => y.cmd.id = x.cmd.id) = some x → x.left = [] → x.outbox = [] → x.guardAt = none →
      x.badAt = none → s.accesses.any (Access.ofXa c x.cmd.id) = false →
      ∃ t p, exec (.xaCommandComplete c x.cmd.id) s = .next t ∧ t.mem = s.mem ∧ t.faultQ = s.faultQ ∧
        (t.core c).xaCmds = (s.core c).xaCmds.filter (fun y => y.cmd.id ≠ x.cmd.id) ∧ t.ctx? c r.ctx = some p ∧
        p.events.lookD (72 + r.lr) 0 =
          if x.cmd.evt then min (q.events.lookD (72 + r.lr) 0 + 1) 0xFFFF else q.events.lookD (72 + r.lr) 0)

/-! ## Freezing, thawing, aborting, spawning -/

/-- R44 to R47, R242, R262 to R264, R404, R408 and R411. A RGN.FREEZE first stops the region, then writes its image at
its address, where the allocation's tables put it, gives the region back and signals its event; a thawed region takes
the content of its image, each element, port and configuration word at its place in the new rectangle, under the new
generation, and is placed; an aborted one stops, its bindings end, what the logs of rounds hold of them goes, and when
they have left it is given back with its event. What the model keeps beside an image's bytes (`frozen`, `installs`) is
the model's choice (log 17). -/
def Obligations.RegionsComeAndGo : Prop :=
  ∀ (c rn : Nat) (s : State) (r : Region) (k : Ctx), s.region? c rn = some r → s.ctx? c r.ctx = some k →
    (∀ addr, r.phase = .freezing addr false →
      (r.stopped = false → (s.core c).loadingFor rn = false → s.xaUnderWay c rn = false →
        ∃ t, exec (.freezeWave c rn) s = .next t ∧ t.mem = s.mem ∧ t.region? c rn = some { r with stopped := true }) ∧
      (r.stopped = true → s.quietPorts c r = true →
        ∃ t q f, exec (.freezeImageWritten c rn) s = .next t ∧ (t.core c).regions = (s.core c).regions.del rn ∧
          t.frozen = s.frozen ++ [f] ∧ f.bytes = s.regionImage c r ∧
          f.bytes.take 8 = leBytes 0x4746_5A52_325A_4C47 8 ∧
          (f.bytes.drop 12).take 3 = [r.rows - 1, r.cols - 1, r.ireg].map (BitVec.ofNat 8 ·) ∧
          (∀ pa, MapsImage s c r.alloc (addr.extractLsb' 0 48).toNat pa f.bytes.length →
            ∀ y, Memory.read t.mem y =
              if pa ≤ y ∧ y < pa + f.bytes.length then f.bytes.getD (y - pa) 0 else Memory.read s.mem y) ∧
          t.ctx? c r.ctx = some q ∧ q.regs = k.regs ∧
          q.events.lookD (64 + r.lr) 0 = min (k.events.lookD (64 + r.lr) 0 + 1) 0xFFFF)) ∧
    (∀ f al, (s.core c).installs.look rn = some f → r.phase = .joining → s.alloc? r.alloc = some al →
      al.st ≠ .frozen →
      ∃ t q w, exec (.thawInstall r.alloc c rn) s = .next t ∧ t.mem = s.mem ∧
        (t.core c).installs = (s.core c).installs.del rn ∧ t.region? c rn = some w ∧ w.phase = .placed ∧ w.cur = r.cur ∧
        w.slots = r.slots ∧ t.ctx? c r.ctx = some q ∧ q.regs = k.regs ∧
        q.events.lookD (64 + r.lr) 0 = min (k.events.lookD (64 + r.lr) 0 + 1) 0xFFFF ∧
        ((f.elems.map fun v => r.elemAt v.1).Nodup → ∀ p v, (p, v) ∈ f.elems →
          Reinstalled v (t.elem c (r.elemAt p)) f.gen k.gen (f.config.lookD (cfgKey r.cur (f.region.elemAt p) 27) 0)) ∧
        ((f.ports.map fun v => movedPort f.region (r.rect c) v.1).Nodup → ∀ p v, (p, v) ∈ f.ports →
          (t.port c (movedPort f.region (r.rect c) p)).out0 = v.out0 ∧
          (t.port c (movedPort f.region (r.rect c) p)).out1 = v.out1 ∧
          (t.port c (movedPort f.region (r.rect c) p)).bindings.map (fun b => (b.seq, b.moved, b.items)) =
            v.bindings.map fun b => (b.seq, b.moved, b.items)) ∧
        (∀ g : Nat × BitVec 16 → Nat,
          g = (fun h => cfgKey (h.1 / 64 / 256) (r.elemAt (f.region.posOf (h.1 / 64 % 256))) (h.1 % 64)) →
          (f.config.map g).Nodup → ∀ h, h ∈ f.config → (t.core c).config.look (g h) = some h.2)) ∧
    (r.phase = .aborting →
      (r.stopped = false →
        ∃ t l, exec (.abortComplete r.alloc c rn) s = .next t ∧ t.mem = s.mem ∧ List.Sublist l r.log ∧
          t.region? c rn = some { r with stopped := true, log := l } ∧
          ∀ p b, p ∈ r.ports → (s.port c p).bindings = [b] →
            (∃ w, (t.port c p).bindings = [w] ∧ w.seq = b.seq ∧ w.ended.isSome = true) ∧
            (b.ended = none → (s.core c).regionAt (portElem p) = some (rn, r) →
              ∀ e, e ∈ l → ¬(e.port = p ∧ e.seq = b.seq))) ∧
      (r.stopped = true → (∀ p, p ∈ r.ports → (s.port c p).bindings = []) → s.regionAccesses c r = [] →
        (∀ w x, w ∈ s.accesses → x ∈ (s.core c).xaCmds → x.cmd.region = rn → w.ofXa c x.cmd.id = false) →
        s.stillLoads c rn = false →
        ∃ t q, exec (.abortComplete r.alloc c rn) s = .next t ∧ t.mem = s.mem ∧
          (t.core c).regions = (s.core c).regions.del rn ∧ t.ctx? c r.ctx = some q ∧ q.regs = k.regs ∧
          q.events.lookD (64 + r.lr) 0 = min (k.events.lookD (64 + r.lr) 0 + 1) 0xFFFF))

/-- R43, R267 and R324: the spawn queue of a running allocation. A spawned region that is quiet and whose context has
executed HALT gives its area back (log 124); otherwise the oldest SPAWN gets its region in a free area of its
requester's core, which joins when its INIT load, sent with it, has completed. -/
def Obligations.SpawnQueueServes : Prop :=
  ∀ (a : Nat) (s : State) (al : Alloc), s.alloc? a = some al →
    (∀ c rn r, s.leavingSpawn a = some (c, rn, r) →
      ∃ t, exec (.spawnQueueService a) s = .next t ∧ t.mem = s.mem ∧
        ((t.core c).regions = (s.core c).regions ∨ (t.core c).regions = (s.core c).regions.del rn) ∧
        (s.region? c rn = some r → (t.core c).regions = (s.core c).regions.del rn)) ∧
    (∀ q qs h n w t0, al.spawnQ = q :: qs → al.st = .running → s.packetFreeze a = false →
      s.leavingSpawn a = none → q.thaw = none → al.img.shapes[q.subgraph]? = some h →
      freeNo (s.core q.core).regions 16 = some n → s.spawnRect a al q.core q.subgraph h = some (w, t0) →
      ∃ t v al', exec (.spawnQueueService a) s = .next t ∧ t.mem = s.mem ∧ t.alloc? a = some al' ∧ al'.spawnQ = qs ∧
        t.region? q.core n = some v ∧ v.alloc = a ∧ v.lr = q.lr ∧ v.ireg = q.subgraph ∧ v.row0 = t0.row ∧
        v.col0 = t0.col ∧ v.spawned = true ∧ v.phase = .joining ∧
        (t.core q.core).cfgPath = (s.core q.core).cfgPath ++
          [{ id := s.nextId, ctx := none, region := n, alloc := a,
             op := .init (BitVec.ofNat 64 (al.segbase + h.init)) }])

/-! ## Streams -/

/-- R154, R246, R247, R254, R324, R397 and R437: the one binding of a port of a live region. A QUEUED one becomes
ACTIVE. In the turn of its engine, a load issues its next read at the address of its pattern and offers what has been
read to the region; a store takes the token at the port and issues its bytes. The pattern's BASE lies in a buffer
allocation, whose accesses need no walk. -/
def Obligations.BindingsMoveTokens : Prop :=
  ∀ (c p i o l : Nat) (s : State) (b : Binding) (k : Ctx) (v : Buf) (a : Word),
    s.portLive c p = true → (s.port c p).bindings = [b] → s.ctx? c b.ctx = some k →
    ((s.port c p).out 0).head?.map (·.kind) ≠ some .round → ((s.port c p).out 1).head?.map (·.kind) ≠ some .round →
    l = (if b.lane then 1 else 0) →
    (b.st = .queued →
      ∃ t, exec (.bindingActivate c p) s = .next t ∧ t.mem = s.mem ∧ t.accesses = s.accesses ∧
        (t.port c p).bindings = [b.activate]) ∧
    (b.st = .active → b.ended = none → s.engineTurn c p = true → b.issued < b.pat.totalMoves →
      a = b.pat.addrAt (b.pat.moveOffset b.issued) →
      (b.pat.dir = 0 → ∀ f fs t ts, b.fetched = f :: fs → f.ready = true → f.toks = t :: ts →
        s.portSpace c p l = true →
        ∃ u w, exec (.streamMove c p) s = .next u ∧ u.mem = s.mem ∧ u.accesses = s.accesses ∧
          u.stageOf c (portElem p) (portLane p l) = s.stageOf c (portElem p) (portLane p l) ++ [t] ∧
          (u.port c p).bindings = [w] ∧ w.fetched = if ts = [] then fs else { f with toks := ts } :: fs) ∧
      (addrForm a = .buf i o → k.bufs.look i = some v → o + b.pat.tb ≤ v.size → k.queueOf b.pat = none →
        b.pat.hasScale = false →
        (b.pat.dir = 0 → b.fetched = [] →
          ∃ u x w, exec (.streamMove c p) s = .next u ∧ u.mem = s.mem ∧ u.accesses = s.accesses ++ [x] ∧
            x.kind = .load ∧ x.addr = a ∧ x.size = b.pat.tb ∧ x.place = some (v.place c o, .normal) ∧
            x.granted = ownMemory c (v.place c o) ∧ (u.port c p).bindings = [w] ∧ w.issued = b.issued + 1) ∧
        (∀ t ts, b.pat.dir = 1 → (s.port c p).out l = t :: ts → t.kind = .data → b.half = [] → b.pat.perMove = 1 →
          b.endsAt = false → b.discard = false →
          ∃ u x w, exec (.streamMove c p) s = .next u ∧ u.mem = s.mem ∧ u.accesses = s.accesses ++ [x] ∧
            x.kind = (if b.pat.clear then .clear else .store) ∧ x.addr = a ∧ x.size = b.pat.tb ∧
            x.data = b.pat.toBytes [t.pay] ∧ x.place = some (v.place c o, .normal) ∧ x.poisoned = false ∧
            (u.port c p).out l = ts ∧ (u.port c p).bindings = [w] ∧ w.moved = b.moved + 1 ∧
            w.issued = b.issued + 1)))

/-- R158, R247, R324, R440: in its engine's turn a gather port reads at the index that it takes, and a scatter port
writes the value of its lane 1 at the index of its lane 0. R124: a binding keeps the translation of the next page of
its pattern, or asks for it when the TLB misses, in the order in which the pattern meets its pages and up to 16 of
them (log 66). R248, R254, R258 and R397: an item that is over finishes and is counted, with one record when it is
FAILED or POISONED and has no status area; a binding whose items have all finished leaves its port, and the port keeps
its status. -/
def Obligations.RequestsAndItems : Prop :=
  ∀ (c p i o : Nat) (s : State) (b : Binding) (k : Ctx) (v : Buf) (a : Word) (t d : Token),
    s.portLive c p = true → (s.port c p).bindings = [b] → s.ctx? c b.ctx = some k →
    (b.st = .active → b.ended = none → b.pat.cnt0 = 0 → t.kind = .data → t.side.getLsbD 7 = false →
      k.indexAddr b.pat t.pay.toNat = some a → addrForm a = .buf i o → k.bufs.look i = some v →
      o + b.pat.tb ≤ v.size → b.pat.hasScale = false → s.engineTurn c p = true →
      (∀ ts, b.pat.dir = 2 → (s.port c p).out (if b.lane then 1 else 0) = t :: ts →
        ∃ u x, exec (.gatherRequest c p) s = .next u ∧ u.mem = s.mem ∧ u.accesses = s.accesses ++ [x] ∧ x.kind = .load ∧
          x.addr = a ∧ x.size = b.pat.tb ∧ x.place = some (v.place c o, .normal) ∧
          (u.port c p).out (if b.lane then 1 else 0) = ts) ∧
      (∀ ts ds, b.pat.dir = 3 → (s.port c p).out0 = t :: ts → (s.port c p).out1 = d :: ds → d.kind = .data →
        ∃ u x, exec (.scatterRequest c p) s = .next u ∧ u.mem = s.mem ∧ u.accesses = s.accesses ++ [x] ∧
          x.kind = (if b.pat.clear then .clear else .store) ∧ x.addr = a ∧ x.data = b.pat.toBytes [d.pay] ∧
          x.place = some (v.place c o, .normal) ∧ (u.port c p).out0 = ts ∧ (u.port c p).out1 = ds)) ∧
    (∀ g seen, b.wantsPage k = some (g, seen) →
      ∃ xs ys, b.translated = xs ++ ys ∧ (∀ y, y ∈ ys → y.1 ∉ seen) ∧ (∀ x, xs.getLast? = some x → x.1 ∈ seen) ∧
      (∀ e, (s.core c).tlb.find? (·.hits b.alloc (g * 65536)) = some e → e.rd = true → e.wr = true →
        ∃ u, exec (.translateAhead c p) s = .next u ∧ u.mem = s.mem ∧ u.accesses = s.accesses ∧
          (u.port c p).bindings = [{ b with translated :=
            (xs ++ (g, PageEnd.placed (e.place (g * 65536)) e.attr) :: ys).take 16 }]) ∧
      ((s.core c).tlb.find? (·.hits b.alloc (g * 65536)) = none →
        ∃ u x, exec (.translateAhead c p) s = .next u ∧ u.mem = s.mem ∧ u.accesses = s.accesses ++ [x] ∧
          x.client = .ahead c p b.seq g ∧ x.missing = some (g * 65536) ∧
          (u.port c p).bindings = [{ b with translated := (xs ++ (g, PageEnd.asked) :: ys).take 16 }])) ∧
    (∀ j, b.items.find? Item.allOver = some j → b.pat.logn = 0 → b.deadline = 0 →
      ∃ u w, exec (.itemFinish c p) s = .next u ∧ u.mem = s.mem ∧ (u.port c p).bindings = [w] ∧
        w.items = b.items.filter (fun z => z.no ≠ j.no) ∧ w.finished = b.finished + 1 ∧
        w.failAny = (b.failAny || j.failed || j.poisoned) ∧ w.lateAny = b.lateAny ∧
        (j.failed = false → j.poisoned = false → u.faultQ = s.faultQ) ∧
        (j.failed = true ∨ j.poisoned = true → ∃ f, LastRecord s u f ∧ f.cause = j.cause ∧ f.item = true ∧ f.src = 1 ∧
          f.addr = j.addr)) ∧
    (b.through (s.port c p) = true → b.items = [] → b.ended = none →
      ∃ u ds, exec (.bindingDone c p) s = .next u ∧ u.mem = s.mem ∧ (u.port c p).bindings = [] ∧
        (u.port c p).dones = ds ++ [{ seq := b.seq, ctx := b.ctx, items := b.finished, failAny := b.failAny,
                                      lateAny := b.lateAny, cancelled := false }])

/-! ## Ring channels, ENDs and rounds -/

/-- R41, R66, R75, R115, R157, R167, R350 and R438: a token goes into the free slot of its ring as 8 bytes with CTX 0
(log 120), once the receiving region has a CURRENT configuration, and is delivered from there to the receiving port;
eight freed slots start back to a sender on another die; a held END is released once the writes before it are
performed; when every port whose ROUNDs publish a region's log (in DET mode, or for a DET scatter) has closed a round,
the round's log entries are written. -/
def Obligations.RingsAndRounds : Prop :=
  ∀ (c p : Nat) (s : State),
    (∀ x t ts rn r rm m q v, (s.port c p).tx = some x → (s.port c p).out0 = t :: ts → (s.port c p).out1 = [] →
      t.kind = .data → LiveElem s c (portElem p) rn r → dieOf c = dieOf x.core →
      (s.core x.core).regionAt (portElem x.port) = some (rm, m) → (m.slot m.cur).st = .current →
      s.ctx? x.core x.ctx = some q → q.bufs.look x.buf = some v → 8 ≤ v.space → v.wptr % v.size + 8 ≤ v.size →
      ∃ u w, exec (.ringSend c p) s = .next u ∧ (u.port c p).out0 = ts ∧
        u.mem = (s.writeAs q.gen (v.place x.core (v.wptr % v.size)) (leBytes ({ t with ctx := 0 } : Token).word 8)).mem ∧
        u.ctx? x.core x.ctx = some w ∧ w.bufs.look x.buf = some { v with wptr := (v.wptr + 8) % (2 * v.size) }) ∧
    (∀ x k v, (s.port c p).rx = some x → s.ctx? c x.ctx = some k → k.bufs.look x.buf = some v → 8 ≤ v.fill →
      s.portSpace c p 0 = true → v.rptr % v.size + 8 ≤ v.size →
      OwnLines s k.gen (v.place c (v.rptr % v.size)) 8 →
      ∃ u w, exec (.ringDeliver c p) s = .next u ∧ u.mem = s.mem ∧
        u.stageOf c (portElem p) (portLane p 0) = s.stageOf c (portElem p) (portLane p 0) ++
          [tokenOf (leNat (Memory.readN s.mem (v.place c (v.rptr % v.size)) 8))] ∧
        u.ctx? c x.ctx = some w ∧ w.bufs.look x.buf = some { v with rptr := (v.rptr + 8) % (2 * v.size) }) ∧
    (∀ x, (s.port c p).rx = some x → 8 ≤ x.owed →
      ∃ u, exec (.ringSlotReturn c p) s = .next u ∧ u.mem = s.mem ∧
        (u.port c p).rx = some { x with owed := x.owed - 8 } ∧
        u.slotReturns = s.slotReturns ++ [{ core := x.core, port := x.port, rxCore := c, ctx := x.ctx, buf := x.buf,
                                            units := 1, hops := s.route (dieOf c) (dieOf x.core) }]) ∧
    (∀ h, h.released = false → s.holdOver c h = true →
      ((s.port c p).hold = some h → ∃ u, exec (.endRelease c (256 + p)) s = .next u ∧ u.mem = s.mem ∧
        (u.port c p).hold = some { h with released := true }) ∧
      (∀ e, e < 256 → (s.elem c e).hold = some h → (s.elem c e).out = [] →
        ∃ u, exec (.endRelease c e) s = .next u ∧ u.mem = s.mem ∧ (u.elem c e).hold = some { h with released := true }) ∧
      (∀ e key l, e < 256 → (s.elem c e).hold = none → (s.elem c e).lanes = [(key, l)] → l.hold = some h →
        ∃ u, exec (.endRelease c e) s = .next u ∧ u.mem = s.mem ∧
          ((u.elem c e).lane key).hold = some { h with released := true })) ∧
    (∀ rn r, s.allocRegions r.alloc = [(c, rn, r)] → s.region? c rn = some r → s.logs c r = true →
      s.spanning c rn r = [(c, rn, r)] → s.logLanes c r ≠ [] → s.published c r r.applied = true →
      s.lastLogs r.alloc = false →
      ((∀ e, e ∈ r.log → e.round.toNat ≠ r.applied % 2 ^ 32) →
        ∃ u w, exec (.detRoundApply r.alloc) s = .next u ∧ u.mem = s.mem ∧ u.region? c rn = some w ∧
          w.applied = r.applied + 1 ∧ w.log = r.log) ∧
      (∀ e h, r.log = [e] → e.round.toNat = r.applied % 2 ^ 32 → e.op = none → e.poisoned = false → e.attr = .normal →
        r.elems.count e.elem = 1 → s.accesses = [] → s.entryQueue c r e = none → homeOf e.place = some h → h ≠ .regs →
        ∃ u w, exec (.detRoundApply r.alloc) s = .next u ∧ u.region? c rn = some w ∧ w.applied = r.applied + 1 ∧
          w.log = [] ∧
          u.mem = (s.writeAs (s.genAt r.alloc (s.genOf c r.ctx) e.place) e.place (leBytes e.value.toNat e.size)).mem))

/-! ## Memory accesses at their homes -/

/-- R118, R128, R137, R219, R220 and R224: an access that nothing holds back is performed at its home. A load's bytes
go to its targets, extended as its instruction says, and memory is unchanged. A store writes its bytes; the rest of
its granule, if the granule carried another generation, becomes zero, and every other byte is unchanged. An atomic
answers with the old value, sign-extended, and writes its operation's result, an AMOCAS only when the old value is the
one compared with, and every other byte is unchanged. -/
def Obligations.AccessesArePerformed : Prop :=
  ∀ (s : State) (a : Access) (c x num idx pa : Nat) (k : Ctx) (b : Block) (f : Fields) (i : Instr) (g : BitVec 12)
    (p : Pred) (l : BitVec 5) (imm : BitVec 9) (t0 : Target) (od : Ord) (sc : Scope) (wd : Bool),
    MemOk s → AtHome s a pa → a.client = .body c x num idx → a.engine = false → s.ctx? c x = some k →
    k.block = some b → b.num = num → b.fields idx = some f → b.ops.look idx = some i →
    g = s.genAt a.alloc (s.clientGen a) pa →
    (∀ n sgn v, (i, n, sgn) ∈ [(Instr.ldb p l imm t0, 1, false), (.ldbx p l imm t0, 1, true), (.ldh p l imm t0, 2, false),
        (.ldhx p l imm t0, 2, true), (.ldw p l imm t0, 4, false), (.ldwx p l imm t0, 4, true), (.ldd p l imm t0, 8, false),
        (.lda p l imm t0, 8, false)] →
      a.kind = .load → a.size = n → OwnLines s g pa n → v = BitVec.ofNat (8 * n) (leNat (Memory.readN s.mem pa n)) →
      ∃ t q, exec (.accessPerformed a.id) s = .next t ∧ t.mem = s.mem ∧ t.accesses = [] ∧ t.ctx? c x = some q ∧
        q.regs = k.regs ∧ q.block = some (({ b with done := idx :: b.done } : Block).send f.c
          (if sgn then v.signExtend 64 else v.setWidth 64))) ∧
    (a.kind = .store → a.poisoned = false → a.data.length = a.size →
      ∃ t q, exec (.accessPerformed a.id) s = .next t ∧ t.accesses = [] ∧ t.ctx? c x = some q ∧ q.regs = k.regs ∧
        q.block = some { b with done := idx :: b.done } ∧
        ∀ y, Memory.read t.mem y =
          if pa ≤ y ∧ y < pa + a.size then a.data.getD (y - pa) 0
          else if y / 64 = pa / 64 ∧ taggedAt (pa / 64 * 64) = true ∧ (s.granule (pa / 64)).tag ≠ g then 0
          else Memory.read s.mem y) ∧
    (∀ (o : AOp) (n : Nat) (old bv : BitVec (8 * n)) (new : Option (BitVec (8 * n))),
      ((i, o) ∈ [(Instr.amoadd p l od sc wd t0, AOp.add), (.amoswp p l od sc wd t0, .swap), (.amoand p l od sc wd t0, .and),
          (.amoor p l od sc wd t0, .or), (.amoxor p l od sc wd t0, .xor), (.amomin p l od sc wd t0, .min),
          (.amomax p l od sc wd t0, .max), (.amominu p l od sc wd t0, .minu), (.amomaxu p l od sc wd t0, .maxu)] ∧
          n = (if wd then 4 else 8)) ∨
        (i = .amocas p l od sc t0 ∧ o = .cas ∧ n = 4) →
      a.kind = .atomic o → a.size = n → a.data.length = 8 → a.poisoned = false → OwnLines s g pa n →
      old = BitVec.ofNat (8 * n) (leNat (Memory.readN s.mem pa n)) → bv = BitVec.ofNat (8 * n) (leNat a.data) →
      (o, new) ∈ [(.add, some (old + bv)), (.swap, some bv), (.and, some (old &&& bv)), (.or, some (old ||| bv)),
        (.xor, some (old ^^^ bv)), (.min, some (if old.sle bv then old else bv)),
        (.max, some (if old.sle bv then bv else old)), (.minu, some (if old ≤ bv then old else bv)),
        (.maxu, some (if old ≤ bv then bv else old)),
        (.cas, if old.toNat = leNat (a.data.drop 4) then some bv else none)] →
      ∃ t q, exec (.accessPerformed a.id) s = .next t ∧ t.accesses = [] ∧ t.ctx? c x = some q ∧ q.regs = k.regs ∧
        q.block = some (({ b with done := idx :: b.done } : Block).send f.c (old.signExtend 64)) ∧
        (∀ v, new = some v → ∀ y, Memory.read t.mem y =
          if pa ≤ y ∧ y < pa + n then (leBytes v.toNat n).getD (y - pa) 0 else Memory.read s.mem y) ∧
        (new = none → ∀ y, Memory.read t.mem y = Memory.read s.mem y))

/-- R121, R123, R275, R327 to R330: an access whose page a TLB entry maps gets its place; without one its miss starts
a walk, which reads the entry of its first table as an access of the walker; a leaf read ends the walk and fills the
TLB. The arbiter grants the one access that waits, line by line within its payer's quota and, with its last line, onto
the die links if its home lies on another die; one over its budget is deferred and counted. That one flit carries a
whole access, with a unit for each of its lines, is the model's choice (logs 26 and 80). The home of a semaphore tests
a waiting SEM.WAIT again: it takes its amount when the word holds enough, and waits on otherwise. -/
def Obligations.WalksArbiterAndSemaphores : Prop :=
  ∀ (s : State) (a : Access) (c : Nat), MemOk s → s.accesses = [a] → a.client.core = c →
    (∀ va, a.missing = some va → (s.die (dieOf c)).walks = [] → (∀ d p q g, a.client ≠ .ahead d p q g) →
      (∀ e pl, (s.core c).tlb.find? (·.hits a.alloc va) = some e →
        placeOf a.kind (e.place va) e.attr e.rd e.wr = .ok pl →
        ∃ t, exec (.walk (dieOf c) a.id) s = .next t ∧ t.mem = s.mem ∧ t.accesses = [a.put (.ok pl)]) ∧
      (∀ al pa n, (s.core c).tlb.find? (·.hits a.alloc va) = none → s.alloc? a.alloc = some al →
        pa = tableEntry 0 al.root va → homeOf pa = some (.dram n) →
        ∃ t x, exec (.walk (dieOf c) a.id) s = .next t ∧ t.mem = s.mem ∧ t.accesses = [a, x] ∧
          x.client = .walk c a.id ∧ x.kind = .load ∧ x.size = 8 ∧ x.place = some (pa, .normal) ∧ x.payer = a.payer ∧
          (t.die (dieOf c)).walks = [{ id := a.id, core := c, alloc := a.alloc, va, payer := a.payer,
                                       note := s.accessRecord a }])) ∧
    (∀ w pa g p big attr rd wr, a.client = .walk c w.id → (s.die (dieOf c)).walks = [w] → AtHome s a pa →
      a.kind = .load → a.size = 8 → g = s.genAt a.alloc (s.clientGen a) pa → OwnLines s g pa 8 →
      walkNext w.level (leNat (Memory.readN s.mem pa 8)) w.va = .ends (.page p big attr rd wr) →
      ∃ t, exec (.accessPerformed a.id) s = .next t ∧ t.mem = s.mem ∧ t.accesses = [] ∧
        (t.die (dieOf c)).walks = [] ∧ (t.core w.core).tlb.any (·.hits w.alloc w.va) = true) ∧
    (s.waiting c = [a] →
      (s.arbStanding a = .go → a.parts.length ≤ a.grants + 1 →
        ∃ t, exec (.arbitrationRound c) s = .next t ∧ t.mem = s.mem ∧
          (a.homeDie = dieOf c →
            t.accesses = [{ a with granted := true, grants := a.grants + 1, deferred := none }] ∧ t.flights = s.flights) ∧
          (a.homeDie ≠ dieOf c →
            t.accesses = [{ a with granted := true, grants := a.grants + 1, deferred := none, crossing := true }] ∧
            t.flights = s.flights ++
              [{ what := .request a.id, cls := flitClass a.client, core := c, src := sourceKey a.client,
                 payer := a.payer, units := max 1 a.parts.length, hops := s.route (dieOf c) a.homeDie }])) ∧
      (s.arbStanding a = .go → a.grants + 1 < a.parts.length → s.quotaOf a.payer = 1 →
        ∃ t, exec (.arbitrationRound c) s = .next t ∧ t.mem = s.mem ∧ t.flights = s.flights ∧
          t.accesses = [{ a with grants := a.grants + 1, deferred := none }]) ∧
      (∀ m, s.arbStanding a = .defer → s.payerStream a.payer = some m →
        ∃ t, exec (.arbitrationRound c) s = .next t ∧ t.mem = s.mem ∧
          t.accesses = [{ a with deferred := some (s.payPeriod a.payer), deferNo := s.nextId }] ∧
          (t.stream m).defer = (s.stream m).defer + 1)) ∧
    (∀ x num idx pa k b f g old v, a.client = .body c x num idx → a.kind = .atomic .semWait → a.engine = true →
      s.teasel.packets = [] → AtHome s a pa → a.poisoned = false → a.size = 4 →
      s.ctx? c x = some k → k.block = some b → b.num = num → b.fields idx = some f → isEngine f = true →
      (∃ i, b.ops = [(idx, i)]) → b.memWords = [] → g = s.genAt a.alloc (s.clientGen a) pa → OwnLines s g pa 4 →
      old = leNat (Memory.readN s.mem pa 4) → v = leNat (a.data.take 4) →
      (v ≤ old →
        ∃ t q, exec (.semRetest a.id) s = .next t ∧ t.accesses = [] ∧ t.ctx? c x = some q ∧
          q.block = some (({ b with done := idx :: b.done, issued := idx :: b.issued } : Block).send f.c
            (BitVec.ofNat 64 old)) ∧
          leNat (Memory.readN t.mem pa 4) = old - v ∧
          ∀ y, ¬(pa ≤ y ∧ y < pa + 4) → Memory.read t.mem y = Memory.read s.mem y) ∧
      (old < v → exec (.semRetest a.id) s = .next s))

/-! ## Campion's upkeep -/

/-- R132 and R133: a sweep makes every granule of its memory zero whose generation is no live member's, and leaves
every other byte as it was. -/
def Obligations.SweepsClearDeadGranules : Prop :=
  (∀ (c : Nat) (s : State), c < 160 → (s.core c).sweepDue = true →
    ∃ t, exec (.sweep c) s = .next t ∧ (t.core c).genNext = 1 ∧ (t.core c).sweepDue = false ∧
      ∀ y, Memory.read t.mem y =
        if ((sbufAddr c 0 ≤ y ∧ y < sbufAddr c 0x10_0000) ∨ (cpAddr c 0 ≤ y ∧ y < cpAddr c 0x1_0000)) ∧
          (s.granule (y / 64)).tag ∉ (s.core c).live then 0 else Memory.read s.mem y) ∧
  ∀ (d : Nat) (s : State), d < 4 → (s.die d).sweepDue = true →
    ∃ t, exec (.stagingSweep d) s = .next t ∧ (t.die d).sgenNext = 1 ∧ (t.die d).sweepDue = false ∧
      ∀ y, Memory.read t.mem y =
        if (stagingBase + d * 0x80_0000 ≤ y ∧ y < stagingBase + (d + 1) * 0x80_0000) ∧
          (∀ a ∈ s.allocs, a.2.st ≠ .ended → a.2.sgens[d]? ≠ some (s.granule (y / 64)).tag)
        then 0 else Memory.read s.mem y

/-- R135, R351, R389, R390, R398 and R462: an uncorrectable error stands in its line until a read finds it, which
poisons the line and writes one record; a register whose error is found is poisoned; the next fault record of the
queue goes into the ring as 32 bytes and every other byte is unchanged, or, with the ring disabled or full, is counted
as lost; the service path reads and writes a granule or register with its tag. That a line's error waits for a read
while a register's is found at once, and the SRC and UNIT of a register's record, are the model's choice (logs 83 and
84), and so is the layout of the service path's answer (log 85). -/
def Obligations.ErrorsRecordsAndService : Prop :=
  ∀ (s : State), MemOk s →
    (∀ g, exec (.softErrorDetect (.line g)) s =
      .next (s.setGranule g { s.granule g with bad := true }).acted) ∧
    (∀ c x j k, s.ctx? c x = some k →
      ∃ t q, exec (.softErrorDetect (.register c x j)) s = .next t ∧ t.mem = s.mem ∧ t.ctx? c x = some q ∧
        q.reg j = { k.reg j with poison := true } ∧
        LastRecord s t { s.recordFor c k.alloc k.gen 0x87 0 with unit := BitVec.ofNat 8 x }) ∧
    (∀ l, s.dev.campionUp = true → ((s.granule l).bad = false → exec (.patrolScrub l) s = .next s.acted) ∧
      ((s.granule l).bad = true → (s.granule l).reported = false →
        ∃ t, exec (.patrolScrub l) s = .next t ∧ t.mem = s.mem ∧
          t.granule l = { s.granule l with bad := false, poison := true, reported := true } ∧
          LastRecord s t { cause := 0x26, src := 4, info := BitVec.ofNat 64 (l * 64) })) ∧
    (∀ r rs a, s.faultQ = r :: rs → s.dev.campionUp = true → a = portBase + s.dev.offset.toNat +
        32 * (s.dev.tail.toNat % 2 ^ s.dev.log2n.toNat) →
      (s.dev.ringOn = true → (s.dev.tail - s.dev.head).toNat ≠ 2 ^ s.dev.log2n.toNat →
        ∃ t, exec .faultRecordWrite s = .next t ∧ t.faultQ = rs ∧
          Memory.readN t.mem a 32 = r.bytes s.dev.seq s.dev.ovf ∧
          (∀ y, ¬(a ≤ y ∧ y < a + 32) → Memory.read t.mem y = Memory.read s.mem y) ∧
          t.dev.tail = s.dev.tail + 1 ∧ t.dev.seq = s.dev.seq + 1 ∧ t.dev.ovf = false) ∧
      (s.dev.ringOn = false ∨ (s.dev.tail - s.dev.head).toNat = 2 ^ s.dev.log2n.toNat →
        ∃ t, exec .faultRecordWrite s = .next t ∧ t.faultQ = rs ∧ t.mem = s.mem ∧ t.dev.tail = s.dev.tail ∧
          t.dev.seq = s.dev.seq + 1 ∧ t.dev.ovf = true ∧
          t.dev.lost.toNat = min (s.dev.lost.toNat + 1) 0xFFFF)) ∧
    (∀ g data tag poison presence, s.dev.campionUp = true → data.length = 64 →
      (∀ a, a ∈ s.accesses → a.parked = false) →
      ∃ t, exec (.serviceAccess (.writeGranule g data tag poison presence)) s = .next t ∧
        Memory.readN t.mem (g * 64) 64 = data ∧ t.granule g = { tag, poison, presence } ∧
        ∀ y, ¬(g * 64 ≤ y ∧ y < g * 64 + 64) → Memory.read t.mem y = Memory.read s.mem y) ∧
    (∀ c x j k, s.dev.campionUp = true → s.ctx? c x = some k →
      exec (.serviceAccess (.readReg c x j)) s = .next { s with
        serviceOut := leBytes (k.reg j).val.toNat 8 ++ leBytes (k.reg j).tag.toNat 2 }.acted)

/-! ## Marks and events -/

/-- R271, R274, R313 and R326: the mark unit counts the next mark in its stream's registers, a slot mark putting the
written limits in force, and sends it to the cores of the stream's members; a core applies it, and at a slot mark its
members take new shares; an event signal adds to its context's count. -/
def Obligations.MarksAndEvents : Prop :=
  ∀ (s : State),
    (∀ k ks m, s.teasel.marks = k :: ks → m = k.stream →
      ∃ t, exec .markUnitApply s = .next t ∧ t.mem = s.mem ∧ t.teasel.marks = ks ∧
        (k.kind = false → (t.stream m).view = { (s.stream m).view with
          sym := (s.stream m).view.sym + 1, kind := false, index := k.index }) ∧
        (k.kind = true → (t.stream m).view =
          { sym := (s.stream m).view.sym, slot := (s.stream m).view.slot + 1, kind := true, index := k.index,
            ldram := (s.stream m).ldram, llink := (s.stream m).llink, lload := (s.stream m).lload,
            latepol := (s.stream m).latepol, wt := (s.stream m).wt }) ∧
        ∀ b, b ∈ s.boundMembers m → (t.core b.core).markQ = (s.core b.core).markQ ++
          [{ stream := m, slotMark := k.kind, view := (t.stream m).view }]) ∧
    (∀ c k ks, (s.core c).markQ = k :: ks → (k.slotMark = true → s.lateBindings c k.stream k.view.slot = []) →
      ∃ t, exec (.markApply c) s = .next t ∧ t.mem = s.mem ∧ (t.core c).markQ = ks ∧
        (t.core c).marks.lookD k.stream {} = k.view ∧
        ∀ x q, k.slotMark = true → s.boundMembers k.stream = [{ core := c, ctx := x }] → s.ctx? c x = some q →
          t.ctx? c x = some { q with budget :=
            { dram := { limit := limitOf k.view.ldram }, link := { limit := limitOf k.view.llink },
              load := { limit := limitOf k.view.lload } } }) ∧
    (∀ n e k, s.eventMsgs[n]? = some e → s.ctx? e.core e.ctx = some k → k.alloc = e.alloc →
      ∃ t q, exec (.eventDelivery n) s = .next t ∧ t.mem = s.mem ∧ t.eventMsgs = s.eventMsgs.eraseIdx n ∧
        t.ctx? e.core e.ctx = some q ∧ q.regs = k.regs ∧
        q.events.lookD e.event 0 = min (k.events.lookD e.event 0 + 1) 0xFFFF)

/-! ## Teasel -/

/-- R311, R318, R336, R337, R443 and R445: row 0 reads the line at HEAD of the queue it chooses into the strip and
advances HEAD; a packet that fails a check is refused: it counts as finished, has no effect, and one record names its
cause. A queue's pending TAIL is noticed and Teasel wakes; one assertion of IRQ_N serves every completion that is
due. -/
def Obligations.PacketsAreReadOrRefused : Prop :=
  ∀ (s : State) (q : Nat),
    (∀ turn addr bs, s.dev.boot = .ready → s.inStrip < 4 → s.chooseQueue = some (q, turn) → s.openIndirect q = none →
      addr = portBase + (s.queue q).base.toNat + 64 * ((s.queue q).head.toNat % (s.queue q).size) →
      (s.granule (addr / 64)).bad = false → bs = Memory.readN s.mem addr 64 → leNat (bs.take 8) % 256 ≤ 0x0C →
      ∃ t, exec .packetRead s = .next t ∧ t.mem = s.mem ∧ (t.queue q).head = (s.queue q).head + 1 ∧
        (t.queue q).cur = some s.nextId ∧ t.teasel.packets = s.teasel.packets ++
          [{ id := s.nextId, queue := q, addr,
             d := (List.range 8).map fun i => BitVec.ofNat 64 (leNat ((bs.drop (8 * i)).take 8)) }]) ∧
    (∀ i ty p cause, (i, ty) ∈ [(Instr.nop q, 0), (.launch q, 1), (.mark q, 2), (.signal q, 3), (.wait q, 4), (.copy q, 5),
        (.fencePacket q, 6), (.budget q, 7), (.freeze q, 8), (.thaw q, 9), (.abort q, 10), (.attest q, 11),
        (.indirect q, 12)] →
      InStrip s q ty p → s.packetCheck p = some cause →
      ∃ t f, exec i s = .next t ∧ t.mem = s.mem ∧ t.packet? p.id = some { p with st := .finished, refused := true } ∧
        (t.queue q).refused = true ∧ LastRecord s t f ∧ f.cause = BitVec.ofNat 8 cause ∧ f.src = 6 ∧
        f.addr = BitVec.ofNat 64 p.addr) ∧
    ((s.queue q).noticed = false →
      ∃ t, exec (.teaselWake q) s = .next t ∧ t.mem = s.mem ∧ t.teasel.asleep = false ∧ (t.queue q).noticed = true) ∧
    ((s.queue q).irqDue = true →
      ∃ t, exec (.irqToleranceExpiry q) s = .next t ∧ t.mem = s.mem ∧ (∀ n, (t.queue n).irqDue = false) ∧
        (s.dev.irqMask.getLsbD q = true → (s.queue q).done = true → q < 20 → t.dev.irqN = true))

/-- R164, R271, R314 to R317, R356, R404, R408, R411 and R439: what a packet whose checks pass does as it starts. NOP
and BUDGET are finished at once, ATTEST with its report written; MARK enters the mark unit; WAIT, FENCE, LAUNCH and
THAW hold their queue; LAUNCH makes its allocation, in PLACING; COPY is cut into pieces; FREEZE makes every context
stop; ABORT aborts the allocation; INDIRECT opens its buffer. On which die and engine a COPY's piece runs (`pieceDie`,
`Config.copyEngine`, log 37), and that a packet counts in INFL from the step in which it leaves the strip (log 95),
are the model's choice. -/
def Obligations.PacketsStart : Prop :=
  ∀ (s : State) (q : Nat) (p : Packet), MemOk s → s.packetCheck p = none →
    (InStrip s q 0 p → ∃ t, exec (.nop q) s = .next t ∧ t.mem = s.mem ∧ LeftStrip s t q p .finished false) ∧
    (∀ root g, InStrip s q 1 p → root = (p.arg 1).toNat →
      s.readImageFile root (bitsOf (p.arg 3).toNat 0 48) = (s, some g) → s.everFits g = true →
      ∃ t a, exec (.launch q) s = .next t ∧ t.mem = s.mem ∧ LeftStrip s t q p .started true ∧
        t.teasel.placing = s.teasel.placing ++ [p.id] ∧ t.alloc? p.alloc = some a ∧ a.st = .placing ∧ a.strm = p.strm ∧
        a.strict = p.d0.testBit 21 ∧ a.root = root ∧ a.segbase = (p.arg 2).toNat ∧ a.args = p.arg 4 ∧
        a.seed0 = p.arg 5 ∧ a.seed1 = p.arg 6 ∧ a.img = g) ∧
    (InStrip s q 2 p → ∃ t, exec (.mark q) s = .next t ∧ t.mem = s.mem ∧ LeftStrip s t q p .started false ∧
      t.teasel.marks = s.teasel.marks ++
        [{ stream := p.strm, kind := p.d0.testBit 21, index := (p.arg 1).setWidth 16, packet := some p.id }]) ∧
    (InStrip s q 3 p → ∃ t, exec (.signal q) s = .next t ∧ t.mem = s.mem ∧ LeftStrip s t q p .started false) ∧
    (InStrip s q 4 p → ∃ t, exec (.wait q) s = .next t ∧ t.mem = s.mem ∧ LeftStrip s t q p .started true) ∧
    (∀ a b n d u, InStrip s q 5 p → a = (p.arg 1).toNat → b = (p.arg 2).toNat → n = (p.arg 3).toNat → 0 < n →
      a % 4096 + n ≤ 4096 → b % 4096 + n ≤ 4096 → d = pieceDie a b →
      u = (Config.copyEngine d + (s.die d).copyNext) % 640 →
      ∃ t, exec (.copy q) s = .next t ∧ t.mem = s.mem ∧ t.packet? p.id = some { p with st := .started, pieces := 1 } ∧
        t.teasel.pieces = s.teasel.pieces ++
          [{ id := s.nextId, packet := p.id, core := 40 * d + u / 16, unit := u % 16, src := a, dst := b, len := n,
             clear := (p.arg 5).getLsbD 0, strm := p.strm }]) ∧
    (InStrip s q 6 p → ∃ t, exec (.fencePacket q) s = .next t ∧ t.mem = s.mem ∧ LeftStrip s t q p .started true) ∧
    (InStrip s q 7 p → ∃ t, exec (.budget q) s = .next t ∧ t.mem = s.mem ∧ LeftStrip s t q p .finished false ∧
      t.stream p.strm = { s.stream p.strm with
        ldram := (p.arg 1).setWidth 32, llink := (p.arg 2).setWidth 32, lload := (p.arg 3).setWidth 32,
        latepol := (p.arg 4).extractLsb' 4 2, wt := (p.arg 4).extractLsb' 0 4, pend := true }) ∧
    (∀ al, InStrip s q 8 p → s.alloc? p.alloc = some al → s.areaBound p.alloc al ≤ (p.arg 2).toNat →
      ∃ t, exec (.freeze q) s = .next t ∧ t.mem = s.mem ∧ LeftStrip s t q p .started false ∧
        ∀ m k, m ∈ al.members → s.ctx? m.core m.ctx = some k →
          t.ctx? m.core m.ctx = some { k with freezing := true }) ∧
    (∀ f al, InStrip s q 9 p → s.alloc? p.alloc = some al → s.areaAt p.alloc al (p.arg 1) = (s, .ok f) →
      (∀ m, m ∈ f.members → ∃ c, c < 160 ∧ m.runsOn s c = true) →
      ∃ t, exec (.thaw q) s = .next t ∧ t.mem = s.mem ∧ LeftStrip s t q p .started true ∧
        t.teasel.placing = s.teasel.placing ++ [p.id]) ∧
    (∀ al, InStrip s q 10 p → s.alloc? p.alloc = some al → al.st = .running → s.teasel.placing = [] →
      ∃ t, exec (.abort q) s = .next t ∧ t.mem = s.mem ∧ LeftStrip s t q p .started false ∧
        t.alloc? p.alloc = some { al with st := .ending, aborting := true } ∧
        ∀ c x k, s.ctx? c x = some k → k.alloc = p.alloc → ∃ w, t.ctx? c x = some w ∧ w.block = none ∧
          w.run ≠ .running) ∧
    (∀ a, InStrip s q 11 p → a = (p.arg 1).toNat → a + 0x8E40 ≤ portEnd →
      ∃ t, exec (.attest q) s = .next t ∧ LeftStrip s t q p .finished false ∧
        Memory.readN t.mem a 48 = leBytes 0x5453_4554_5441 8 ++ leBytes 0x8E40 8 ++ leBytes (p.arg 2).toNat 8 ++
          leBytes (p.arg 3).toNat 8 ++ leBytes (p.arg 4).toNat 8 ++ leBytes (p.arg 5).toNat 8) ∧
    (InStrip s q 12 p → ∃ t, exec (.indirect q) s = .next t ∧ t.mem = s.mem ∧
      t.packet? p.id = some { p with st := .started, left := (p.arg 2).toNat % 2 ^ 13 })

/-- R21, R164, R275, R314, R315, R317, R322, R323 and R356: how packets end. A SIGNAL adds to its word when the
packets before it have completed, a WAIT takes its amount from a word that holds enough, and a completed packet posts
its completion word; no other byte changes. A LAUNCH is placed where the search finds room: each region joins on the
rectangle that the search gave it, and each of its cores has a member; a rectangle is free, on the edges that its ring
channels name, on a core that has the features and lies on die AFFIN; and a single region takes the first core in
ascending order, and the first origin on it, that will do. A piece of a COPY reads what goes into the next line of its
destination and writes it there (log 92), and at its end its packet counts it and the bytes that it has moved. -/
def Obligations.PacketsComplete : Prop :=
  ∀ (s : State) (p : Packet), MemOk s → s.packet? p.id = some p → s.teasel.packets = [p] →
    (∀ pa v, p.st = .started → p.refused = false → p.arg 7 = 0 → p.irq = false → s.accesses = [] →
      pa = (p.arg 1).toNat → v = (p.arg 2).toNat % 2 ^ 32 → (s.granule (pa / 64)).bad = false →
      (s.granule (pa / 64)).poison = false →
      (p.type = 3 → ∃ t, exec (.packetComplete p.id) s = .next t ∧ t.word pa = (s.word pa + v) % 2 ^ 32 ∧
        SameBut s t pa 4 ∧ t.teasel.packets = []) ∧
      (p.type = 4 → 0 < v → v ≤ s.word pa →
        ∃ t, exec (.packetComplete p.id) s = .next t ∧ t.word pa = s.word pa - v ∧ SameBut s t pa 4 ∧
          t.teasel.packets = [] ∧ (t.queue p.queue).waiting = false) ∧
      (p.type = 4 → s.word pa < v → exec (.packetComplete p.id) s = .next s)) ∧
    (∀ pa, p.st = .finished → p.refused = false → pa = (p.arg 7).toNat → pa ≠ 0 → (s.granule (pa / 64)).bad = false →
      (s.granule (pa / 64)).poison = false →
      ∃ t, exec (.packetComplete p.id) s = .next t ∧ t.word pa = (s.word pa + 1) % 2 ^ 32 ∧ SameBut s t pa 4 ∧
        t.teasel.packets = [] ∧ (p.irq = true → (t.queue p.queue).done = true)) ∧
    (∀ al w, p.type = 1 → s.teasel.placing = [p.id] → s.alloc? p.alloc = some al → al.st = .placing →
      s.plan al.img 0 = some w → s.gensReady w.cores true = true →
      (∃ t b, exec .placement s = .next t ∧ t.teasel.placing = [] ∧ t.alloc? p.alloc = some b ∧
        b.count = w.cores.length ∧ b.inits = w.regions.length ∧ b.sgens.length = 4 ∧
        (∀ i r, (i, r) ∈ w.regions → ∃ rn v, t.region? r.core rn = some v ∧ v.alloc = p.alloc ∧ v.ireg = i ∧
          v.row0 = r.row ∧ v.col0 = r.col ∧ v.rows = r.rows ∧ v.cols = r.cols ∧ v.phase = .joining) ∧
        ∀ c, c ∈ w.cores → ∃ x k, t.ctx? c x = some k ∧ k.alloc = p.alloc) ∧
      (∀ i r, (i, r) ∈ w.regions → ∃ h, al.img.shapes[i]? = some h ∧ h.flags.getLsbD 2 = false ∧ r.rows = h.rows ∧
        r.cols = h.cols ∧ r.row + r.rows ≤ 16 ∧ r.col + r.cols ≤ 16 ∧ r.core ∈ w.cores ∧
        s.hasFeatures r.core al.img.feat0 al.img.feat1 = true ∧ s.available r.core = true ∧
        (∀ d, al.img.affin = some d → dieOf r.core = d) ∧ (∀ x, x ∈ s.taken r.core → x.meets r = false) ∧
        ∀ d, d ∈ al.img.ringSides i → r.onEdge d = true) ∧
      (∀ i r c y x, w.regions = [(i, r)] → c < r.core ∨ (c = r.core ∧ y * 16 + x < r.row * 16 + r.col) →
        y + r.rows ≤ 16 → x + r.cols ≤ 16 → s.hasFeatures c al.img.feat0 al.img.feat1 = true → s.available c = true →
        (∀ d, al.img.affin = some d → dieOf c = d) → s.memberRoom al.img {} c = true →
        (∀ d, d ∈ al.img.ringSides i → ({ r with core := c, row := y, col := x } : Rect).onEdge d = true) →
        ∃ z, z ∈ s.taken c ∧ z.meets { r with core := c, row := y, col := x } = true)) ∧
    (∀ k n, s.teasel.pieces = [k] → k.packet = p.id → n = min (k.len - k.off) (64 - (k.dst + k.off) % 64) →
      (s.accesses = [] → s.pieceReaches k = true → k.off < k.len →
        (k.line = none →
          ∃ t x, exec (.copyPiece k.id) s = .next t ∧ t.mem = s.mem ∧ t.accesses = [x] ∧
            x.client = .piece k.core k.unit k.id ∧ x.kind = .load ∧ x.place.map (·.1) = some (k.src + k.off) ∧
            x.size = min n (64 - (k.src + k.off) % 64)) ∧
        (∀ bs, k.line = some (.bytes bs none) → bs.length = n →
          ∃ t x, exec (.copyPiece k.id) s = .next t ∧ t.mem = s.mem ∧ t.accesses = [x] ∧
            x.client = .piece k.core k.unit k.id ∧ x.kind = (if k.clear then .clear else .store) ∧
            x.place.map (·.1) = some (k.dst + k.off) ∧ x.size = n ∧ x.data = bs ∧ x.poisoned = false)) ∧
      (∀ a pa, AtHome s a pa → a.client = .piece k.core k.unit k.id → (s.granule (pa / 64)).bad = false →
        (s.granule (pa / 64)).poison = false →
        (a.kind = .load → k.line = none →
          ∃ t, exec (.accessPerformed a.id) s = .next t ∧ t.mem = s.mem ∧ t.accesses = [] ∧
            t.teasel.pieces = [{ k with line := some (.bytes (Memory.readN s.mem pa a.size) none) }]) ∧
        (a.kind = .store → a.poisoned = false → a.data.length = a.size →
          ∃ t, exec (.accessPerformed a.id) s = .next t ∧ t.mem = Memory.writeN s.mem pa a.data ∧ t.accesses = [] ∧
            t.teasel.pieces = [{ k with line := none, off := k.off + a.size, moved := k.moved + a.size }])) ∧
      (s.accesses = [] → k.len ≤ k.off → k.failed = false → k.poisoned = false →
        ∃ t, exec (.copyPiece k.id) s = .next t ∧ t.mem = s.mem ∧ t.teasel.pieces = [] ∧
          t.packet? p.id = some { p with pieces := p.pieces - 1, bytes := p.bytes + k.moved }))

/-! ## The host port and the register pages -/

/-- R15, R341 to R345, R398, R458 and R459, and the model's choices for mode registers and FIFOs (log 9): a READ or
WRITE goes to the row open in its bank, which an ACTIVATE that leads it opens and a PRECHARGE closes (log 127). A
WRITE burst that is performed stores, in port memory, the bytes that its mask lets through and no others; a READ burst
returns the bytes there; a refused one does neither. Mode registers read as written but for the identification
registers; the FIFOs keep their order; the other commands change nothing but the port. -/
def Obligations.HostPortCommands : Prop :=
  ∀ (s : State) (h : HostCmd) (ch row : Nat), MemOk s →
    (∀ data mask, s.hostCause h = none → s.openRow h = some row → h.start row < 0x100_0000 → data.length = h.bytes →
      mask.length = h.bytes →
      ∃ t, exec (.hostWrite h data mask) s = .next t ∧ t.faultQ = s.faultQ ∧
        ∀ y, Memory.read t.mem y =
          if portBase + h.start row ≤ y ∧ y < portBase + h.start row + h.bytes ∧
            mask.getD (y - (portBase + h.start row)) false = true
          then data.getD (y - (portBase + h.start row)) 0 else Memory.read s.mem y) ∧
    (s.hostCause h = none → s.openRow h = some row → h.start row < 0x100_0000 →
      (s.granule ((portBase + h.start row) / 64)).bad = false →
      ∃ t, exec (.hostRead h) s = .next t ∧ t.mem = s.mem ∧ t.faultQ = s.faultQ ∧
        t.host.readData = Memory.readN s.mem (portBase + h.start row) h.bytes) ∧
    ((∀ n, h.lead = .activate n → s.openRow h = some n) ∧ (h.lead = .precharge → s.openRow h = none) ∧
      (h.lead = .stay → s.openRow h = s.host.rows.look (h.channel * 16 + h.bankNo)) ∧
      ((s.host.rows.map (·.1)).Nodup → ∃ t, exec (.hostRead h) s = .next t ∧
        t.host.rows.look (h.channel * 16 + h.bankNo) = s.openRow h)) ∧
    (∀ cause data mask, s.hostCause h = some cause → s.host.quietFor = [] → s.host.missed = [] →
      (∃ t f, exec (.hostRead h) s = .next t ∧ t.mem = s.mem ∧ t.host.readData = List.replicate h.bytes 0 ∧
        LastRecord s t f ∧ f.cause = BitVec.ofNat 8 cause ∧ f.src = 8) ∧
      ∃ t f, exec (.hostWrite h data mask) s = .next t ∧ t.mem = s.mem ∧ LastRecord s t f ∧
        f.cause = BitVec.ofNat 8 cause ∧ f.src = 8) ∧
    (∀ n v, n ∈ [10, 11, 13, 15, 20, 32, 40] →
      (∃ t, exec (.modeRegisterWrite ⟨ch, BitVec.ofNat 7 n⟩ v) s = .next t ∧ t.host.mrs.lookD n 0 = v ∧ t.mem = s.mem) ∧
      ∃ t, exec (.modeRegisterRead ⟨ch, BitVec.ofNat 7 n⟩) s = .next t ∧ t.host.readData = [s.host.mrs.lookD n 0] ∧
        t.host.mrs = s.host.mrs ∧ t.mem = s.mem) ∧
    (∃ t, exec (.modeRegisterRead ⟨ch, 5⟩) s = .next t ∧ t.host.readData = [0xE7]) ∧
    (∃ t, exec (.modeRegisterRead ⟨ch, 6⟩) s = .next t ∧ t.host.readData = [0xB1]) ∧
    (∀ i, i ∈ [Instr.refresh ch, .commandBusTraining ch, .wck2ckLevelling ch] →
      exec i s = .next (s.hostCommand ch).acted) ∧
    (∀ on, (∃ t, exec (.powerDown ch on) s = .next t ∧ t.host.down.lookD ch (!on) = on ∧ t.mem = s.mem) ∧
      ∃ t, exec (.selfRefresh ch on) s = .next t ∧ t.host.selfRef.lookD ch (!on) = on ∧ t.mem = s.mem) ∧
    (∃ t, exec (.readDqCalibration ch) s = .next t ∧ t.mem = s.mem ∧
      t.host.readData = [s.host.mrs.lookD 15 0, s.host.mrs.lookD 20 0, s.host.mrs.lookD 32 0, s.host.mrs.lookD 40 0]) ∧
    (∀ data, ∃ t, exec (.writeFifo ch data) s = .next t ∧ t.mem = s.mem ∧
      t.host.fifo.lookD ch [] = s.host.fifo.lookD ch [] ++ data) ∧
    ∃ t, exec (.readFifo ch) s = .next t ∧ t.mem = s.mem ∧ t.host.readData = (s.host.fifo.lookD ch []).take 32 ∧
      t.host.fifo.lookD ch [] = (s.host.fifo.lookD ch []).drop 32

/-- R310 to R313, R346, R347, R351, R353, R390, R443 and R466: what a write of all eight bytes of a register does once
the device is READY. Bits that are written as 1 to clear clear; a QSIZE write empties its queue; MARKW delivers a
mark; limits and BCTL wait for the next slot mark; FEATH0 takes only what FEATD0 has, and only while every queue is
IDLE. START begins at VERIFY while the device waits for firmware and is cooler than LIMIT. That QSIZE keeps a reserved
code as it is written is the model's choice (log 25). -/
def Obligations.RegisterWrites : Prop :=
  ∀ (s : State) (q m : Nat) (v : Word), q < 20 → m < 16 → s.dev.boot = .ready →
    (∃ t, exec (.qtailWrite q v 0xFF) s = .next t ∧ t.mem = s.mem ∧ (t.queue q).tail = v.setWidth 32 ∧
      (t.queue q).head = (s.queue q).head) ∧
    (∃ t, exec (.qsizeWrite q v 0xFF) s = .next t ∧ t.mem = s.mem ∧ (t.queue q).log2n = v.setWidth 4 ∧
      (t.queue q).head = 0 ∧ (t.queue q).tail = 0) ∧
    (∃ t, exec (.qbaseWrite q v 0xFF) s = .next t ∧ t.mem = s.mem ∧ (t.queue q).base = v.setWidth 24) ∧
    (∃ t, exec (.qstatWrite q v 0xFF) s = .next t ∧ t.mem = s.mem ∧
      (t.queue q).done = ((s.queue q).done && !v.getLsbD 8) ∧
      (t.queue q).refused = ((s.queue q).refused && !v.getLsbD 3) ∧ (t.queue q).infl = (s.queue q).infl) ∧
    (exec (.markwWrite m v 0xFF) s = .next (s.updTeasel fun t => { t with
      marks := t.marks ++ [{ stream := m, kind := v.getLsbD 16, index := v.setWidth 16 }] }).acted) ∧
    ((exec (.limitWrite m 0 v 0xFF) s = .next (s.updStream m fun k =>
        { k with ldram := v.setWidth 32, pend := true }).acted) ∧
      (exec (.limitWrite m 1 v 0xFF) s = .next (s.updStream m fun k =>
        { k with llink := v.setWidth 32, pend := true }).acted) ∧
      exec (.limitWrite m 2 v 0xFF) s = .next (s.updStream m fun k =>
        { k with lload := v.setWidth 32, pend := true }).acted) ∧
    (∃ t, exec (.bctlWrite m v 0xFF) s = .next t ∧ t.mem = s.mem ∧ (t.stream m).wt = v.setWidth 4 ∧
      (t.stream m).pend = true ∧ ((v.extractLsb' 4 2 : BitVec 2) ≠ 3 → (t.stream m).latepol = v.extractLsb' 4 2) ∧
      (t.stream m).view = (s.stream m).view) ∧
    (exec (.bootctlStart v 0xFF) s = .next s.acted) ∧
    (∀ b, b = { s with dev := { s.dev with boot := .waitfw, reason := 0 } } → v.getLsbD 0 = true →
      (∀ x, x ∈ s.dev.temps → x.toInt < s.dev.tlim.toInt) →
      ∃ t, exec (.bootctlStart v 0xFF) b = .next t ∧ t.mem = s.mem ∧ t.dev.boot = .verify ∧ t.dev.irqBoot = true) ∧
    (∃ t, exec (.feath0Write v 0xFF) s = .next t ∧ t.mem = s.mem ∧
      (s.allIdle = true → t.dev.feath = v &&& s.dev.featd ∧ t.dev.feathNext = none) ∧
      (s.allIdle = false → t.dev.feath = s.dev.feath ∧ t.dev.feathNext = some (v &&& s.dev.featd))) ∧
    (∃ t, exec (.pwrcapWrite v 0xFF) s = .next t ∧ t.mem = s.mem ∧ t.dev.pwrcap = v.setWidth 16 ∧
      t.dev.capNow = s.dev.capNow) ∧
    (∃ t, exec (.irqstatWrite v 0xFF) s = .next t ∧ t.mem = s.mem ∧ t.dev.irqBoot = (s.dev.irqBoot && !v.getLsbD 20) ∧
      t.dev.irqPwr = (s.dev.irqPwr && !v.getLsbD 21)) ∧
    (∃ t, exec (.irqmaskWrite v 0xFF) s = .next t ∧ t.mem = s.mem ∧ t.dev.irqMask = v.setWidth 22 ∧
      (v.setWidth 22 = 0#22 → t.dev.irqN = false)) ∧
    (∃ t, exec (.fltringWrite v 0xFF) s = .next t ∧ t.mem = s.mem ∧ t.dev.offset = v.setWidth 24 ∧
      t.dev.log2n = v.extractLsb' 28 4 ∧ t.dev.qsel = v.extractLsb' 32 5 ∧
      (t.dev.offset ≠ s.dev.offset → t.dev.head = 0 ∧ t.dev.tail = 0 ∧ t.dev.lost = 0)) ∧
    (∃ t, exec (.fltptrWrite v 0xFF) s = .next t ∧ t.mem = s.mem ∧ t.dev.head = v.extractLsb' 32 32 ∧
      t.dev.tail = s.dev.tail) ∧
    ∃ t, exec (.registerWrite (q * 64 + 0x28) v 0xFF) s = .next t ∧ t.mem = s.mem ∧ (t.queue q).tol = v.setWidth 16 ∧
      (t.queue q).tail = (s.queue q).tail

/-! ## Die links -/

/-- R67, R328, R348, R349, R350, R460 and R461: a flit that its class's credits admit crosses the link in its 256
bytes and spends a credit; one over its payer's budget is deferred, holding its credit; the receiver takes the oldest
flit of a class and owes its credit, which the next flit back returns together with ring slots; an access that has
reached its home's die has crossed. A retrain leaves one record and loses nothing. A link whose retrains fail is down,
with one record; an allocation that it cuts off is aborted, with a FATAL one. That what stood in its buffers is what
was unacknowledged, and is lost, an access with cause 0x84, is the model's choice (log 38), and so are what a flit's
fields hold where the table leaves it open (log 80) and that a flit takes along one return of ring slots (log 81). -/
def Obligations.LinksCarryFlits : Prop :=
  ∀ (s : State) (l cls : Nat) (down : Bool), cls < 4 →
    (∀ f key, s.flights = [f] → f.hops.head? = some (l, down) → f.cls = cls → key = linkKey cls down →
      (s.link l).down = false →
      (s.flitStanding (l, down) f = .go →
        ∃ t flit, exec (.linkArbitrationRound l down) s = .next t ∧ t.mem = s.mem ∧ t.flights = [] ∧
          (t.link l).buffers.lookD key [] = (s.link l).buffers.lookD key [] ++
            [{ f with deferred := none, credit := false, sent := if f.sent = 0 then s.nextId + 1 else f.sent }] ∧
          (t.link l).creditsOf key = (s.link l).creditsOf key - (if f.credit then 0 else 1) ∧
          (t.link l).wire.look (if down then 1 else 0) = some flit ∧ flit.length = 256 ∧
          leNat (flit.take 8) / 2 ^ 60 = cls ∧
          ∀ a c x b no k, f.what = .token a c x b no k → c < 256 →
            leNat (flit.take 8) / 2 ^ 44 % 256 = c ∧ leNat (flit.take 8) / 2 ^ 52 % 256 = 1 ∧
              (flit.drop 16).take 8 = leBytes k.word 8) ∧
      (∀ m, s.flitStanding (l, down) f = .defer → s.payerStream f.payer = some m →
        ∃ t, exec (.linkArbitrationRound l down) s = .next t ∧ t.mem = s.mem ∧
          t.flights = [{ f with deferred := some (s.payPeriod f.payer), deferNo := s.nextId, credit := true }] ∧
          (t.link l).creditsOf key = (s.link l).creditsOf key - (if f.credit then 0 else 1) ∧
          (t.stream m).defer = (s.stream m).defer + 1)) ∧
    (∀ f fs key, key = linkKey cls down → (s.link l).buffers.lookD key [] = f :: fs →
      (∀ a, f.hops = [(l, down)] → s.accesses = [a] → f.what = .request a.id →
        ∃ t, exec (.flitReceive l down cls) s = .next t ∧ t.mem = s.mem ∧ t.accesses = [{ a with crossing := false }] ∧
          (t.link l).buffers.lookD key [] = fs ∧
          (t.link l).owed.lookD key 0 = (s.link l).owed.lookD key 0 + 1) ∧
      (∀ h hs, f.hops = (l, down) :: h :: hs → (∀ n, (s.link n).down = false) →
        ∃ t, exec (.flitReceive l down cls) s = .next t ∧ t.mem = s.mem ∧ (t.link l).buffers.lookD key [] = fs ∧
          t.flights = s.flights ++ [{ f with hops := h :: hs }])) ∧
    (∀ key, key = linkKey cls (!down) → (s.link l).owed.lookD key 0 ≠ 0 → (s.link l).owed.lookD key 0 ≤ 63 →
      ((s.link l).owed.map (·.1)).Nodup → (s.link l).down = false →
      ∃ t, exec (.creditFlit l down) s = .next t ∧ t.mem = s.mem ∧ (t.link l).owed.lookD key 0 = 0 ∧
        (t.link l).creditsOf key = (s.link l).creditsOf key + (s.link l).owed.lookD key 0) ∧
    (∀ r x, (s.link l).down = false → s.slotReturns = [r] → r.hops = [(l, down)] → 0 < r.units → r.units < 4096 →
      (s.port r.core r.port).tx = some x → x.core = r.rxCore → x.ctx = r.ctx → x.buf = r.buf →
      ∃ t, exec (.creditFlit l down) s = .next t ∧ t.mem = s.mem ∧ t.slotReturns = [] ∧
        (t.port r.core r.port).tx = some { x with slots := x.slots + 8 * r.units }) ∧
    ((s.link l).down = false → s.dev.campionUp = true →
      exec (.linkretrain l) s = .next (s.report (linkRecord 0x83 l)).acted ∧
      (l < 8 → s.allocs = [] →
        ∃ t, exec (.linkdown l) s = .next t ∧ t.mem = s.mem ∧ (t.link l).down = true ∧ (t.link l).buffers = [] ∧
          LastRecord s t (linkRecord 0x84 l) ∧
          ∀ key f a, (s.link l).buffers = [(key, [f])] → f.what = .request a.id → s.accesses = [a] → s.flights = [] →
            t.accesses = [{ a with crossing := false, got := none, fault := some 0x84 }]) ∧
      (∀ a al, l < 8 → s.allocs = [(a, al)] → al.st = .running →
        (4 ≤ l → (∃ m, m ∈ al.members ∧ dieOf m.core = l - 4) →
          ∃ t al' f, exec (.linkdown l) s = .next t ∧ t.mem = s.mem ∧ (t.link l).down = true ∧
            t.alloc? a = some al' ∧ al'.st = .ending ∧ al'.aborting = true ∧
            t.faultQ = s.faultQ ++ [linkRecord 0x84 l, f] ∧ f.cause = 0x84 ∧ f.src = 5 ∧ f.unit = BitVec.ofNat 8 l ∧
            f.alloc = BitVec.ofNat 8 a ∧ f.fatal = true) ∧
        (l < 4 → (s.link l).buffers = [] →
          ∃ t, exec (.linkdown l) s = .next t ∧ t.mem = s.mem ∧ t.allocs = s.allocs ∧
            LastRecord s t (linkRecord 0x84 l))))

/-! ## Power, start-up and reset -/

/-- R339, R346, R351, R352, R359, R360, R464 and R466: the power ladder goes up by one step when an estimate passes
the cap or a die is at its limit, and never above 9; a trip at 125 degrees holds the device in MINIMAL with everything
lost; START's bundle passes its checks into INIT or the start fails with its reason (which of the two, the opaque
signature and fuses of log 10 decide); INIT ends in READY with tagged memory zero under generation 0, or fails;
power-on leaves the state of reset, with the reason 0x20 when the fuses cannot be read. That memory without tags reads
as zero after power-on (log 4), that a core and its registers stand as reset until a member comes (log 5), and that a
trip drops the packets of Teasel without a word (log 39) are the model's choice. -/
def Obligations.PowerAndStartUp : Prop :=
  ∀ (s : State),
    (∀ est temps, capOf s.dev.pwrcap < est.toNat ∨ (∃ t, t ∈ (temps ++ List.replicate 5 0).take 5 ∧ s.dev.tlim.toInt ≤ t.toInt) →
      ∃ t, exec (.powerEstimate est temps) s = .next t ∧ t.mem = s.mem ∧ t.dev.est = est ∧
        t.dev.pstep = min (s.dev.pstep + 1) 9 ∧ (s.dev.pstep = 5 → t.dev.irqPwr = true)) ∧
    ((∃ t, t ∈ s.dev.temps ∧ 125 ≤ t.toInt) → s.dev.boot ≠ .minimal →
      ∃ t, exec .thermalTrip s = .next t ∧ t.dev.boot = .minimal ∧ t.dev.reason = 0x30 ∧ t.cores = [] ∧
        t.allocs = [] ∧ t.teasel.packets = []) ∧
    (∃ t, exec .powerOn s = .next t ∧ t.dev.boot = .waitfw ∧ t.mem = [] ∧ t.cores = [] ∧ t.allocs = [] ∧
      (Config.fusesReadable = true → t.dev = State.reset.dev) ∧
      (Config.fusesReadable = false → t.dev.reason = 0x20 ∧ t.dev.tries = 1)) ∧
    (s.dev.boot = .verify → ∃ t, exec .bundleVerify s = .next t ∧ t.mem = s.mem ∧
      (∀ svn a b, s.bundle = .ok (svn, a, b) → t.dev.boot = .init ∧ t.dev.svn = svn ∧ t.dev.irqBoot = true) ∧
      ∀ reason, s.bundle = .error reason → s.dev.tries.toNat < 2 → s.dev.fromMinimal = false →
        t.dev.boot = .waitfw ∧ t.dev.reason = reason ∧ t.dev.tries = s.dev.tries + 1) ∧
    (s.dev.boot = .init →
      (∃ t, exec (.initComplete .ready) s = .next t ∧ t.dev.boot = .ready ∧ t.dev.tries = 0 ∧ t.cores = [] ∧
        ∀ y, Memory.read t.mem y = if taggedAt y then 0 else Memory.read s.mem y) ∧
      (2 ≤ s.dev.tries.toNat → s.dev.tries.toNat < 255 →
        ∃ t, exec .campionTimeout s = .next t ∧ t.mem = s.mem ∧ t.dev.boot = .minimal ∧ t.dev.reason = 0x10))

/-- R312, R346, R347, R351 and R390: what reset leaves in the registers for which the rules give a value. -/
def Obligations.ResetRegisters : Prop :=
  State.reset.dev.boot = .waitfw ∧ State.reset.dev.pwrcap = 600 ∧ State.reset.dev.tlim = 105 ∧
  State.reset.dev.irqMask = 0x3FFFFF ∧ State.reset.dev.irqBoot = false ∧ State.reset.dev.irqPwr = false ∧
  State.reset.dev.feath = 0 ∧ State.reset.dev.qsel = 0x1F ∧ State.reset.dev.log2n = 0 ∧ State.reset.dev.offset = 0 ∧
  State.reset.dev.head = 0 ∧ State.reset.dev.tail = 0 ∧ State.reset.dev.reason = 0 ∧ State.reset.dev.tries = 0 ∧
  (∀ m, (State.reset.stream m).ldram = 0xFFFFFFFF ∧ (State.reset.stream m).llink = 0xFFFFFFFF ∧
    (State.reset.stream m).lload = 0xFFFFFFFF ∧ (State.reset.stream m).wt = 0 ∧ (State.reset.stream m).latepol = 0 ∧
    (State.reset.stream m).view.sym = 0 ∧ (State.reset.stream m).view.slot = 0) ∧
  ∀ q, (State.reset.queue q).base = 0 ∧ (State.reset.queue q).log2n = 0 ∧ (State.reset.queue q).tail = 0 ∧
    (State.reset.queue q).head = 0 ∧ (State.reset.queue q).tol = 0 ∧ (State.reset.queue q).done = false
end

