-- ==== Sys2Proof/Laws/State.lean ====
section
/-! SUPPORT. What each update of the state writes and what it leaves: one lemma per field per update, and sparse tables
read back. -/

namespace Sys2Proof

/-! ## Sparse tables -/

@[simp] theorem SMap.look_put_same {α : Type} (m : SMap α) (i : Nat) (v : α) : (m.put i v).look i = some v := by
  induction m with
  | nil => simp [SMap.put, SMap.look]
  | cons e m ih =>
    obtain ⟨k, w⟩ := e
    simp only [SMap.put]
    split
    · simp [SMap.look]
    · split
      · simp [SMap.look]
      · rename_i h
        simp [SMap.look, Ne.symm h, ih]

theorem SMap.look_put_other {α : Type} (m : SMap α) {i j : Nat} (v : α) (h : j ≠ i) :
    (m.put i v).look j = m.look j := by
  induction m with
  | nil => simp [SMap.put, SMap.look, Ne.symm h]
  | cons e m ih =>
    obtain ⟨k, w⟩ := e
    simp only [SMap.put]
    split
    · simp [SMap.look, Ne.symm h]
    · split
      · rename_i hik
        subst hik
        simp [SMap.look, Ne.symm h]
      · simp [SMap.look, ih]

@[simp] theorem SMap.lookD_put_same {α : Type} (m : SMap α) (i : Nat) (v d : α) : (m.put i v).lookD i d = v := by
  simp [SMap.lookD]

theorem SMap.lookD_put_other {α : Type} (m : SMap α) {i j : Nat} (v d : α) (h : j ≠ i) :
    (m.put i v).lookD j d = m.lookD j d := by
  simp [SMap.lookD, SMap.look_put_other m v h]

@[simp] theorem SMap.put_put_same {α : Type} (m : SMap α) (i : Nat) (v w : α) : (m.put i v).put i w = m.put i w := by
  induction m with
  | nil => simp [SMap.put]
  | cons e m ih =>
    obtain ⟨k, u⟩ := e
    simp only [SMap.put]
    split
    · simp [SMap.put]
    · split
      · simp [SMap.put]
      · simp [SMap.put, *]

theorem SMap.look_upd {α : Type} (m : SMap α) (i j : Nat) (f : α → α) :
    (m.upd i f).look j = if j = i then (m.look i).map f else m.look j := by
  induction m with
  | nil => simp [SMap.upd, SMap.look]
  | cons e m ih =>
    obtain ⟨k, w⟩ := e
    simp only [SMap.upd]
    split
    · rename_i hik
      subst hik
      by_cases h : j = i
      · simp [SMap.look, h]
      · simp [SMap.look, h, Ne.symm h]
    · rename_i hik
      by_cases h : j = i
      · subst h
        simp [SMap.look, Ne.symm hik, ih]
      · by_cases hk : k = j
        · simp [SMap.look, hk, h]
        · simp [SMap.look, hk, h, ih]

namespace Machine

/-! ## setCore -/

@[simp] theorem State.setCore_acts (s : State) (c : Nat) (k : Core) : (s.setCore c k).acts = s.acts := rfl
@[simp] theorem State.setCore_coresReset (s : State) (c : Nat) (k : Core) : (s.setCore c k).coresReset = s.coresReset := rfl
@[simp] theorem State.setCore_agenda (s : State) (c : Nat) (k : Core) : (s.setCore c k).agenda = s.agenda := rfl
@[simp] theorem State.setCore_turn (s : State) (c : Nat) (k : Core) : (s.setCore c k).turn = s.turn := rfl
@[simp] theorem State.setCore_focus (s : State) (c : Nat) (k : Core) : (s.setCore c k).focus = s.focus := rfl
@[simp] theorem State.setCore_mem (s : State) (c : Nat) (k : Core) : (s.setCore c k).mem = s.mem := rfl
@[simp] theorem State.setCore_gran (s : State) (c : Nat) (k : Core) : (s.setCore c k).gran = s.gran := rfl
@[simp] theorem State.setCore_cores (s : State) (c : Nat) (k : Core) : (s.setCore c k).cores = s.cores.put c k := rfl
@[simp] theorem State.setCore_feat0 (s : State) (c : Nat) (k : Core) : (s.setCore c k).feat0 = s.feat0 := rfl
@[simp] theorem State.setCore_allocs (s : State) (c : Nat) (k : Core) : (s.setCore c k).allocs = s.allocs := rfl
@[simp] theorem State.setCore_streams (s : State) (c : Nat) (k : Core) : (s.setCore c k).streams = s.streams := rfl
@[simp] theorem State.setCore_queues (s : State) (c : Nat) (k : Core) : (s.setCore c k).queues = s.queues := rfl
@[simp] theorem State.setCore_dies (s : State) (c : Nat) (k : Core) : (s.setCore c k).dies = s.dies := rfl
@[simp] theorem State.setCore_links (s : State) (c : Nat) (k : Core) : (s.setCore c k).links = s.links := rfl
@[simp] theorem State.setCore_accesses (s : State) (c : Nat) (k : Core) : (s.setCore c k).accesses = s.accesses := rfl
@[simp] theorem State.setCore_nextId (s : State) (c : Nat) (k : Core) : (s.setCore c k).nextId = s.nextId := rfl
@[simp] theorem State.setCore_teasel (s : State) (c : Nat) (k : Core) : (s.setCore c k).teasel = s.teasel := rfl
@[simp] theorem State.setCore_eventMsgs (s : State) (c : Nat) (k : Core) : (s.setCore c k).eventMsgs = s.eventMsgs := rfl
@[simp] theorem State.setCore_flights (s : State) (c : Nat) (k : Core) : (s.setCore c k).flights = s.flights := rfl
@[simp] theorem State.setCore_faultQ (s : State) (c : Nat) (k : Core) : (s.setCore c k).faultQ = s.faultQ := rfl
@[simp] theorem State.setCore_dev (s : State) (c : Nat) (k : Core) : (s.setCore c k).dev = s.dev := rfl
@[simp] theorem State.setCore_host (s : State) (c : Nat) (k : Core) : (s.setCore c k).host = s.host := rfl
@[simp] theorem State.setCore_frozen (s : State) (c : Nat) (k : Core) : (s.setCore c k).frozen = s.frozen := rfl
@[simp] theorem State.setCore_oncePages (s : State) (c : Nat) (k : Core) : (s.setCore c k).oncePages = s.oncePages := rfl
@[simp] theorem State.setCore_slotReturns (s : State) (c : Nat) (k : Core) : (s.setCore c k).slotReturns = s.slotReturns := rfl
@[simp] theorem State.setCore_serviceOut (s : State) (c : Nat) (k : Core) : (s.setCore c k).serviceOut = s.serviceOut := rfl

/-! ## updCore -/

@[simp] theorem State.updCore_acts (s : State) (c : Nat) (f : Core → Core) : (s.updCore c f).acts = s.acts := rfl
@[simp] theorem State.updCore_coresReset (s : State) (c : Nat) (f : Core → Core) : (s.updCore c f).coresReset = s.coresReset := rfl
@[simp] theorem State.updCore_agenda (s : State) (c : Nat) (f : Core → Core) : (s.updCore c f).agenda = s.agenda := rfl
@[simp] theorem State.updCore_turn (s : State) (c : Nat) (f : Core → Core) : (s.updCore c f).turn = s.turn := rfl
@[simp] theorem State.updCore_focus (s : State) (c : Nat) (f : Core → Core) : (s.updCore c f).focus = s.focus := rfl
@[simp] theorem State.updCore_mem (s : State) (c : Nat) (f : Core → Core) : (s.updCore c f).mem = s.mem := rfl
@[simp] theorem State.updCore_gran (s : State) (c : Nat) (f : Core → Core) : (s.updCore c f).gran = s.gran := rfl
@[simp] theorem State.updCore_feat0 (s : State) (c : Nat) (f : Core → Core) : (s.updCore c f).feat0 = s.feat0 := rfl
@[simp] theorem State.updCore_allocs (s : State) (c : Nat) (f : Core → Core) : (s.updCore c f).allocs = s.allocs := rfl
@[simp] theorem State.updCore_streams (s : State) (c : Nat) (f : Core → Core) : (s.updCore c f).streams = s.streams := rfl
@[simp] theorem State.updCore_queues (s : State) (c : Nat) (f : Core → Core) : (s.updCore c f).queues = s.queues := rfl
@[simp] theorem State.updCore_dies (s : State) (c : Nat) (f : Core → Core) : (s.updCore c f).dies = s.dies := rfl
@[simp] theorem State.updCore_links (s : State) (c : Nat) (f : Core → Core) : (s.updCore c f).links = s.links := rfl
@[simp] theorem State.updCore_accesses (s : State) (c : Nat) (f : Core → Core) : (s.updCore c f).accesses = s.accesses := rfl
@[simp] theorem State.updCore_nextId (s : State) (c : Nat) (f : Core → Core) : (s.updCore c f).nextId = s.nextId := rfl
@[simp] theorem State.updCore_teasel (s : State) (c : Nat) (f : Core → Core) : (s.updCore c f).teasel = s.teasel := rfl
@[simp] theorem State.updCore_eventMsgs (s : State) (c : Nat) (f : Core → Core) : (s.updCore c f).eventMsgs = s.eventMsgs := rfl
@[simp] theorem State.updCore_flights (s : State) (c : Nat) (f : Core → Core) : (s.updCore c f).flights = s.flights := rfl
@[simp] theorem State.updCore_faultQ (s : State) (c : Nat) (f : Core → Core) : (s.updCore c f).faultQ = s.faultQ := rfl
@[simp] theorem State.updCore_dev (s : State) (c : Nat) (f : Core → Core) : (s.updCore c f).dev = s.dev := rfl
@[simp] theorem State.updCore_host (s : State) (c : Nat) (f : Core → Core) : (s.updCore c f).host = s.host := rfl
@[simp] theorem State.updCore_frozen (s : State) (c : Nat) (f : Core → Core) : (s.updCore c f).frozen = s.frozen := rfl
@[simp] theorem State.updCore_oncePages (s : State) (c : Nat) (f : Core → Core) : (s.updCore c f).oncePages = s.oncePages := rfl
@[simp] theorem State.updCore_slotReturns (s : State) (c : Nat) (f : Core → Core) : (s.updCore c f).slotReturns = s.slotReturns := rfl
@[simp] theorem State.updCore_serviceOut (s : State) (c : Nat) (f : Core → Core) : (s.updCore c f).serviceOut = s.serviceOut := rfl

/-! ## setCtx -/

@[simp] theorem State.setCtx_acts (s : State) (c x : Nat) (k : Ctx) : (s.setCtx c x k).acts = s.acts := rfl
@[simp] theorem State.setCtx_coresReset (s : State) (c x : Nat) (k : Ctx) : (s.setCtx c x k).coresReset = s.coresReset := rfl
@[simp] theorem State.setCtx_agenda (s : State) (c x : Nat) (k : Ctx) : (s.setCtx c x k).agenda = s.agenda := rfl
@[simp] theorem State.setCtx_turn (s : State) (c x : Nat) (k : Ctx) : (s.setCtx c x k).turn = s.turn := rfl
@[simp] theorem State.setCtx_focus (s : State) (c x : Nat) (k : Ctx) : (s.setCtx c x k).focus = s.focus := rfl
@[simp] theorem State.setCtx_mem (s : State) (c x : Nat) (k : Ctx) : (s.setCtx c x k).mem = s.mem := rfl
@[simp] theorem State.setCtx_gran (s : State) (c x : Nat) (k : Ctx) : (s.setCtx c x k).gran = s.gran := rfl
@[simp] theorem State.setCtx_feat0 (s : State) (c x : Nat) (k : Ctx) : (s.setCtx c x k).feat0 = s.feat0 := rfl
@[simp] theorem State.setCtx_allocs (s : State) (c x : Nat) (k : Ctx) : (s.setCtx c x k).allocs = s.allocs := rfl
@[simp] theorem State.setCtx_streams (s : State) (c x : Nat) (k : Ctx) : (s.setCtx c x k).streams = s.streams := rfl
@[simp] theorem State.setCtx_queues (s : State) (c x : Nat) (k : Ctx) : (s.setCtx c x k).queues = s.queues := rfl
@[simp] theorem State.setCtx_dies (s : State) (c x : Nat) (k : Ctx) : (s.setCtx c x k).dies = s.dies := rfl
@[simp] theorem State.setCtx_links (s : State) (c x : Nat) (k : Ctx) : (s.setCtx c x k).links = s.links := rfl
@[simp] theorem State.setCtx_accesses (s : State) (c x : Nat) (k : Ctx) : (s.setCtx c x k).accesses = s.accesses := rfl
@[simp] theorem State.setCtx_nextId (s : State) (c x : Nat) (k : Ctx) : (s.setCtx c x k).nextId = s.nextId := rfl
@[simp] theorem State.setCtx_teasel (s : State) (c x : Nat) (k : Ctx) : (s.setCtx c x k).teasel = s.teasel := rfl
@[simp] theorem State.setCtx_eventMsgs (s : State) (c x : Nat) (k : Ctx) : (s.setCtx c x k).eventMsgs = s.eventMsgs := rfl
@[simp] theorem State.setCtx_flights (s : State) (c x : Nat) (k : Ctx) : (s.setCtx c x k).flights = s.flights := rfl
@[simp] theorem State.setCtx_faultQ (s : State) (c x : Nat) (k : Ctx) : (s.setCtx c x k).faultQ = s.faultQ := rfl
@[simp] theorem State.setCtx_dev (s : State) (c x : Nat) (k : Ctx) : (s.setCtx c x k).dev = s.dev := rfl
@[simp] theorem State.setCtx_host (s : State) (c x : Nat) (k : Ctx) : (s.setCtx c x k).host = s.host := rfl
@[simp] theorem State.setCtx_frozen (s : State) (c x : Nat) (k : Ctx) : (s.setCtx c x k).frozen = s.frozen := rfl
@[simp] theorem State.setCtx_oncePages (s : State) (c x : Nat) (k : Ctx) : (s.setCtx c x k).oncePages = s.oncePages := rfl
@[simp] theorem State.setCtx_slotReturns (s : State) (c x : Nat) (k : Ctx) : (s.setCtx c x k).slotReturns = s.slotReturns := rfl
@[simp] theorem State.setCtx_serviceOut (s : State) (c x : Nat) (k : Ctx) : (s.setCtx c x k).serviceOut = s.serviceOut := rfl

/-! ## setElem -/

@[simp] theorem State.setElem_acts (s : State) (c e : Nat) (v : Elem) : (s.setElem c e v).acts = s.acts := rfl
@[simp] theorem State.setElem_coresReset (s : State) (c e : Nat) (v : Elem) : (s.setElem c e v).coresReset = s.coresReset := rfl
@[simp] theorem State.setElem_agenda (s : State) (c e : Nat) (v : Elem) : (s.setElem c e v).agenda = s.agenda := rfl
@[simp] theorem State.setElem_turn (s : State) (c e : Nat) (v : Elem) : (s.setElem c e v).turn = s.turn := rfl
@[simp] theorem State.setElem_focus (s : State) (c e : Nat) (v : Elem) : (s.setElem c e v).focus = s.focus := rfl
@[simp] theorem State.setElem_mem (s : State) (c e : Nat) (v : Elem) : (s.setElem c e v).mem = s.mem := rfl
@[simp] theorem State.setElem_gran (s : State) (c e : Nat) (v : Elem) : (s.setElem c e v).gran = s.gran := rfl
@[simp] theorem State.setElem_feat0 (s : State) (c e : Nat) (v : Elem) : (s.setElem c e v).feat0 = s.feat0 := rfl
@[simp] theorem State.setElem_allocs (s : State) (c e : Nat) (v : Elem) : (s.setElem c e v).allocs = s.allocs := rfl
@[simp] theorem State.setElem_streams (s : State) (c e : Nat) (v : Elem) : (s.setElem c e v).streams = s.streams := rfl
@[simp] theorem State.setElem_queues (s : State) (c e : Nat) (v : Elem) : (s.setElem c e v).queues = s.queues := rfl
@[simp] theorem State.setElem_dies (s : State) (c e : Nat) (v : Elem) : (s.setElem c e v).dies = s.dies := rfl
@[simp] theorem State.setElem_links (s : State) (c e : Nat) (v : Elem) : (s.setElem c e v).links = s.links := rfl
@[simp] theorem State.setElem_accesses (s : State) (c e : Nat) (v : Elem) : (s.setElem c e v).accesses = s.accesses := rfl
@[simp] theorem State.setElem_nextId (s : State) (c e : Nat) (v : Elem) : (s.setElem c e v).nextId = s.nextId := rfl
@[simp] theorem State.setElem_teasel (s : State) (c e : Nat) (v : Elem) : (s.setElem c e v).teasel = s.teasel := rfl
@[simp] theorem State.setElem_eventMsgs (s : State) (c e : Nat) (v : Elem) : (s.setElem c e v).eventMsgs = s.eventMsgs := rfl
@[simp] theorem State.setElem_flights (s : State) (c e : Nat) (v : Elem) : (s.setElem c e v).flights = s.flights := rfl
@[simp] theorem State.setElem_faultQ (s : State) (c e : Nat) (v : Elem) : (s.setElem c e v).faultQ = s.faultQ := rfl
@[simp] theorem State.setElem_dev (s : State) (c e : Nat) (v : Elem) : (s.setElem c e v).dev = s.dev := rfl
@[simp] theorem State.setElem_host (s : State) (c e : Nat) (v : Elem) : (s.setElem c e v).host = s.host := rfl
@[simp] theorem State.setElem_frozen (s : State) (c e : Nat) (v : Elem) : (s.setElem c e v).frozen = s.frozen := rfl
@[simp] theorem State.setElem_oncePages (s : State) (c e : Nat) (v : Elem) : (s.setElem c e v).oncePages = s.oncePages := rfl
@[simp] theorem State.setElem_slotReturns (s : State) (c e : Nat) (v : Elem) : (s.setElem c e v).slotReturns = s.slotReturns := rfl
@[simp] theorem State.setElem_serviceOut (s : State) (c e : Nat) (v : Elem) : (s.setElem c e v).serviceOut = s.serviceOut := rfl

/-! ## updElem -/

@[simp] theorem State.updElem_acts (s : State) (c e : Nat) (f : Elem → Elem) : (s.updElem c e f).acts = s.acts := rfl
@[simp] theorem State.updElem_coresReset (s : State) (c e : Nat) (f : Elem → Elem) : (s.updElem c e f).coresReset = s.coresReset := rfl
@[simp] theorem State.updElem_agenda (s : State) (c e : Nat) (f : Elem → Elem) : (s.updElem c e f).agenda = s.agenda := rfl
@[simp] theorem State.updElem_turn (s : State) (c e : Nat) (f : Elem → Elem) : (s.updElem c e f).turn = s.turn := rfl
@[simp] theorem State.updElem_focus (s : State) (c e : Nat) (f : Elem → Elem) : (s.updElem c e f).focus = s.focus := rfl
@[simp] theorem State.updElem_mem (s : State) (c e : Nat) (f : Elem → Elem) : (s.updElem c e f).mem = s.mem := rfl
@[simp] theorem State.updElem_gran (s : State) (c e : Nat) (f : Elem → Elem) : (s.updElem c e f).gran = s.gran := rfl
@[simp] theorem State.updElem_feat0 (s : State) (c e : Nat) (f : Elem → Elem) : (s.updElem c e f).feat0 = s.feat0 := rfl
@[simp] theorem State.updElem_allocs (s : State) (c e : Nat) (f : Elem → Elem) : (s.updElem c e f).allocs = s.allocs := rfl
@[simp] theorem State.updElem_streams (s : State) (c e : Nat) (f : Elem → Elem) : (s.updElem c e f).streams = s.streams := rfl
@[simp] theorem State.updElem_queues (s : State) (c e : Nat) (f : Elem → Elem) : (s.updElem c e f).queues = s.queues := rfl
@[simp] theorem State.updElem_dies (s : State) (c e : Nat) (f : Elem → Elem) : (s.updElem c e f).dies = s.dies := rfl
@[simp] theorem State.updElem_links (s : State) (c e : Nat) (f : Elem → Elem) : (s.updElem c e f).links = s.links := rfl
@[simp] theorem State.updElem_accesses (s : State) (c e : Nat) (f : Elem → Elem) : (s.updElem c e f).accesses = s.accesses := rfl
@[simp] theorem State.updElem_nextId (s : State) (c e : Nat) (f : Elem → Elem) : (s.updElem c e f).nextId = s.nextId := rfl
@[simp] theorem State.updElem_teasel (s : State) (c e : Nat) (f : Elem → Elem) : (s.updElem c e f).teasel = s.teasel := rfl
@[simp] theorem State.updElem_eventMsgs (s : State) (c e : Nat) (f : Elem → Elem) : (s.updElem c e f).eventMsgs = s.eventMsgs := rfl
@[simp] theorem State.updElem_flights (s : State) (c e : Nat) (f : Elem → Elem) : (s.updElem c e f).flights = s.flights := rfl
@[simp] theorem State.updElem_faultQ (s : State) (c e : Nat) (f : Elem → Elem) : (s.updElem c e f).faultQ = s.faultQ := rfl
@[simp] theorem State.updElem_dev (s : State) (c e : Nat) (f : Elem → Elem) : (s.updElem c e f).dev = s.dev := rfl
@[simp] theorem State.updElem_host (s : State) (c e : Nat) (f : Elem → Elem) : (s.updElem c e f).host = s.host := rfl
@[simp] theorem State.updElem_frozen (s : State) (c e : Nat) (f : Elem → Elem) : (s.updElem c e f).frozen = s.frozen := rfl
@[simp] theorem State.updElem_oncePages (s : State) (c e : Nat) (f : Elem → Elem) : (s.updElem c e f).oncePages = s.oncePages := rfl
@[simp] theorem State.updElem_slotReturns (s : State) (c e : Nat) (f : Elem → Elem) : (s.updElem c e f).slotReturns = s.slotReturns := rfl
@[simp] theorem State.updElem_serviceOut (s : State) (c e : Nat) (f : Elem → Elem) : (s.updElem c e f).serviceOut = s.serviceOut := rfl

/-! ## setRegion -/

@[simp] theorem State.setRegion_acts (s : State) (c r : Nat) (v : Region) : (s.setRegion c r v).acts = s.acts := rfl
@[simp] theorem State.setRegion_coresReset (s : State) (c r : Nat) (v : Region) : (s.setRegion c r v).coresReset = s.coresReset := rfl
@[simp] theorem State.setRegion_agenda (s : State) (c r : Nat) (v : Region) : (s.setRegion c r v).agenda = s.agenda := rfl
@[simp] theorem State.setRegion_turn (s : State) (c r : Nat) (v : Region) : (s.setRegion c r v).turn = s.turn := rfl
@[simp] theorem State.setRegion_focus (s : State) (c r : Nat) (v : Region) : (s.setRegion c r v).focus = s.focus := rfl
@[simp] theorem State.setRegion_mem (s : State) (c r : Nat) (v : Region) : (s.setRegion c r v).mem = s.mem := rfl
@[simp] theorem State.setRegion_gran (s : State) (c r : Nat) (v : Region) : (s.setRegion c r v).gran = s.gran := rfl
@[simp] theorem State.setRegion_feat0 (s : State) (c r : Nat) (v : Region) : (s.setRegion c r v).feat0 = s.feat0 := rfl
@[simp] theorem State.setRegion_allocs (s : State) (c r : Nat) (v : Region) : (s.setRegion c r v).allocs = s.allocs := rfl
@[simp] theorem State.setRegion_streams (s : State) (c r : Nat) (v : Region) : (s.setRegion c r v).streams = s.streams := rfl
@[simp] theorem State.setRegion_queues (s : State) (c r : Nat) (v : Region) : (s.setRegion c r v).queues = s.queues := rfl
@[simp] theorem State.setRegion_dies (s : State) (c r : Nat) (v : Region) : (s.setRegion c r v).dies = s.dies := rfl
@[simp] theorem State.setRegion_links (s : State) (c r : Nat) (v : Region) : (s.setRegion c r v).links = s.links := rfl
@[simp] theorem State.setRegion_accesses (s : State) (c r : Nat) (v : Region) : (s.setRegion c r v).accesses = s.accesses := rfl
@[simp] theorem State.setRegion_nextId (s : State) (c r : Nat) (v : Region) : (s.setRegion c r v).nextId = s.nextId := rfl
@[simp] theorem State.setRegion_teasel (s : State) (c r : Nat) (v : Region) : (s.setRegion c r v).teasel = s.teasel := rfl
@[simp] theorem State.setRegion_eventMsgs (s : State) (c r : Nat) (v : Region) : (s.setRegion c r v).eventMsgs = s.eventMsgs := rfl
@[simp] theorem State.setRegion_flights (s : State) (c r : Nat) (v : Region) : (s.setRegion c r v).flights = s.flights := rfl
@[simp] theorem State.setRegion_faultQ (s : State) (c r : Nat) (v : Region) : (s.setRegion c r v).faultQ = s.faultQ := rfl
@[simp] theorem State.setRegion_dev (s : State) (c r : Nat) (v : Region) : (s.setRegion c r v).dev = s.dev := rfl
@[simp] theorem State.setRegion_host (s : State) (c r : Nat) (v : Region) : (s.setRegion c r v).host = s.host := rfl
@[simp] theorem State.setRegion_frozen (s : State) (c r : Nat) (v : Region) : (s.setRegion c r v).frozen = s.frozen := rfl
@[simp] theorem State.setRegion_oncePages (s : State) (c r : Nat) (v : Region) : (s.setRegion c r v).oncePages = s.oncePages := rfl
@[simp] theorem State.setRegion_slotReturns (s : State) (c r : Nat) (v : Region) : (s.setRegion c r v).slotReturns = s.slotReturns := rfl
@[simp] theorem State.setRegion_serviceOut (s : State) (c r : Nat) (v : Region) : (s.setRegion c r v).serviceOut = s.serviceOut := rfl

/-! ## updRegion -/

@[simp] theorem State.updRegion_acts (s : State) (c r : Nat) (f : Region → Region) : (s.updRegion c r f).acts = s.acts := rfl
@[simp] theorem State.updRegion_coresReset (s : State) (c r : Nat) (f : Region → Region) : (s.updRegion c r f).coresReset = s.coresReset := rfl
@[simp] theorem State.updRegion_agenda (s : State) (c r : Nat) (f : Region → Region) : (s.updRegion c r f).agenda = s.agenda := rfl
@[simp] theorem State.updRegion_turn (s : State) (c r : Nat) (f : Region → Region) : (s.updRegion c r f).turn = s.turn := rfl
@[simp] theorem State.updRegion_focus (s : State) (c r : Nat) (f : Region → Region) : (s.updRegion c r f).focus = s.focus := rfl
@[simp] theorem State.updRegion_mem (s : State) (c r : Nat) (f : Region → Region) : (s.updRegion c r f).mem = s.mem := rfl
@[simp] theorem State.updRegion_gran (s : State) (c r : Nat) (f : Region → Region) : (s.updRegion c r f).gran = s.gran := rfl
@[simp] theorem State.updRegion_feat0 (s : State) (c r : Nat) (f : Region → Region) : (s.updRegion c r f).feat0 = s.feat0 := rfl
@[simp] theorem State.updRegion_allocs (s : State) (c r : Nat) (f : Region → Region) : (s.updRegion c r f).allocs = s.allocs := rfl
@[simp] theorem State.updRegion_streams (s : State) (c r : Nat) (f : Region → Region) : (s.updRegion c r f).streams = s.streams := rfl
@[simp] theorem State.updRegion_queues (s : State) (c r : Nat) (f : Region → Region) : (s.updRegion c r f).queues = s.queues := rfl
@[simp] theorem State.updRegion_dies (s : State) (c r : Nat) (f : Region → Region) : (s.updRegion c r f).dies = s.dies := rfl
@[simp] theorem State.updRegion_links (s : State) (c r : Nat) (f : Region → Region) : (s.updRegion c r f).links = s.links := rfl
@[simp] theorem State.updRegion_accesses (s : State) (c r : Nat) (f : Region → Region) : (s.updRegion c r f).accesses = s.accesses := rfl
@[simp] theorem State.updRegion_nextId (s : State) (c r : Nat) (f : Region → Region) : (s.updRegion c r f).nextId = s.nextId := rfl
@[simp] theorem State.updRegion_teasel (s : State) (c r : Nat) (f : Region → Region) : (s.updRegion c r f).teasel = s.teasel := rfl
@[simp] theorem State.updRegion_eventMsgs (s : State) (c r : Nat) (f : Region → Region) : (s.updRegion c r f).eventMsgs = s.eventMsgs := rfl
@[simp] theorem State.updRegion_flights (s : State) (c r : Nat) (f : Region → Region) : (s.updRegion c r f).flights = s.flights := rfl
@[simp] theorem State.updRegion_faultQ (s : State) (c r : Nat) (f : Region → Region) : (s.updRegion c r f).faultQ = s.faultQ := rfl
@[simp] theorem State.updRegion_dev (s : State) (c r : Nat) (f : Region → Region) : (s.updRegion c r f).dev = s.dev := rfl
@[simp] theorem State.updRegion_host (s : State) (c r : Nat) (f : Region → Region) : (s.updRegion c r f).host = s.host := rfl
@[simp] theorem State.updRegion_frozen (s : State) (c r : Nat) (f : Region → Region) : (s.updRegion c r f).frozen = s.frozen := rfl
@[simp] theorem State.updRegion_oncePages (s : State) (c r : Nat) (f : Region → Region) : (s.updRegion c r f).oncePages = s.oncePages := rfl
@[simp] theorem State.updRegion_slotReturns (s : State) (c r : Nat) (f : Region → Region) : (s.updRegion c r f).slotReturns = s.slotReturns := rfl
@[simp] theorem State.updRegion_serviceOut (s : State) (c r : Nat) (f : Region → Region) : (s.updRegion c r f).serviceOut = s.serviceOut := rfl

/-! ## setPort -/

@[simp] theorem State.setPort_acts (s : State) (c p : Nat) (v : Port) : (s.setPort c p v).acts = s.acts := rfl
@[simp] theorem State.setPort_coresReset (s : State) (c p : Nat) (v : Port) : (s.setPort c p v).coresReset = s.coresReset := rfl
@[simp] theorem State.setPort_agenda (s : State) (c p : Nat) (v : Port) : (s.setPort c p v).agenda = s.agenda := rfl
@[simp] theorem State.setPort_turn (s : State) (c p : Nat) (v : Port) : (s.setPort c p v).turn = s.turn := rfl
@[simp] theorem State.setPort_focus (s : State) (c p : Nat) (v : Port) : (s.setPort c p v).focus = s.focus := rfl
@[simp] theorem State.setPort_mem (s : State) (c p : Nat) (v : Port) : (s.setPort c p v).mem = s.mem := rfl
@[simp] theorem State.setPort_gran (s : State) (c p : Nat) (v : Port) : (s.setPort c p v).gran = s.gran := rfl
@[simp] theorem State.setPort_feat0 (s : State) (c p : Nat) (v : Port) : (s.setPort c p v).feat0 = s.feat0 := rfl
@[simp] theorem State.setPort_allocs (s : State) (c p : Nat) (v : Port) : (s.setPort c p v).allocs = s.allocs := rfl
@[simp] theorem State.setPort_streams (s : State) (c p : Nat) (v : Port) : (s.setPort c p v).streams = s.streams := rfl
@[simp] theorem State.setPort_queues (s : State) (c p : Nat) (v : Port) : (s.setPort c p v).queues = s.queues := rfl
@[simp] theorem State.setPort_dies (s : State) (c p : Nat) (v : Port) : (s.setPort c p v).dies = s.dies := rfl
@[simp] theorem State.setPort_links (s : State) (c p : Nat) (v : Port) : (s.setPort c p v).links = s.links := rfl
@[simp] theorem State.setPort_accesses (s : State) (c p : Nat) (v : Port) : (s.setPort c p v).accesses = s.accesses := rfl
@[simp] theorem State.setPort_nextId (s : State) (c p : Nat) (v : Port) : (s.setPort c p v).nextId = s.nextId := rfl
@[simp] theorem State.setPort_teasel (s : State) (c p : Nat) (v : Port) : (s.setPort c p v).teasel = s.teasel := rfl
@[simp] theorem State.setPort_eventMsgs (s : State) (c p : Nat) (v : Port) : (s.setPort c p v).eventMsgs = s.eventMsgs := rfl
@[simp] theorem State.setPort_flights (s : State) (c p : Nat) (v : Port) : (s.setPort c p v).flights = s.flights := rfl
@[simp] theorem State.setPort_faultQ (s : State) (c p : Nat) (v : Port) : (s.setPort c p v).faultQ = s.faultQ := rfl
@[simp] theorem State.setPort_dev (s : State) (c p : Nat) (v : Port) : (s.setPort c p v).dev = s.dev := rfl
@[simp] theorem State.setPort_host (s : State) (c p : Nat) (v : Port) : (s.setPort c p v).host = s.host := rfl
@[simp] theorem State.setPort_frozen (s : State) (c p : Nat) (v : Port) : (s.setPort c p v).frozen = s.frozen := rfl
@[simp] theorem State.setPort_oncePages (s : State) (c p : Nat) (v : Port) : (s.setPort c p v).oncePages = s.oncePages := rfl
@[simp] theorem State.setPort_slotReturns (s : State) (c p : Nat) (v : Port) : (s.setPort c p v).slotReturns = s.slotReturns := rfl
@[simp] theorem State.setPort_serviceOut (s : State) (c p : Nat) (v : Port) : (s.setPort c p v).serviceOut = s.serviceOut := rfl

/-! ## updPort -/

@[simp] theorem State.updPort_acts (s : State) (c p : Nat) (f : Port → Port) : (s.updPort c p f).acts = s.acts := rfl
@[simp] theorem State.updPort_coresReset (s : State) (c p : Nat) (f : Port → Port) : (s.updPort c p f).coresReset = s.coresReset := rfl
@[simp] theorem State.updPort_agenda (s : State) (c p : Nat) (f : Port → Port) : (s.updPort c p f).agenda = s.agenda := rfl
@[simp] theorem State.updPort_turn (s : State) (c p : Nat) (f : Port → Port) : (s.updPort c p f).turn = s.turn := rfl
@[simp] theorem State.updPort_focus (s : State) (c p : Nat) (f : Port → Port) : (s.updPort c p f).focus = s.focus := rfl
@[simp] theorem State.updPort_mem (s : State) (c p : Nat) (f : Port → Port) : (s.updPort c p f).mem = s.mem := rfl
@[simp] theorem State.updPort_gran (s : State) (c p : Nat) (f : Port → Port) : (s.updPort c p f).gran = s.gran := rfl
@[simp] theorem State.updPort_feat0 (s : State) (c p : Nat) (f : Port → Port) : (s.updPort c p f).feat0 = s.feat0 := rfl
@[simp] theorem State.updPort_allocs (s : State) (c p : Nat) (f : Port → Port) : (s.updPort c p f).allocs = s.allocs := rfl
@[simp] theorem State.updPort_streams (s : State) (c p : Nat) (f : Port → Port) : (s.updPort c p f).streams = s.streams := rfl
@[simp] theorem State.updPort_queues (s : State) (c p : Nat) (f : Port → Port) : (s.updPort c p f).queues = s.queues := rfl
@[simp] theorem State.updPort_dies (s : State) (c p : Nat) (f : Port → Port) : (s.updPort c p f).dies = s.dies := rfl
@[simp] theorem State.updPort_links (s : State) (c p : Nat) (f : Port → Port) : (s.updPort c p f).links = s.links := rfl
@[simp] theorem State.updPort_accesses (s : State) (c p : Nat) (f : Port → Port) : (s.updPort c p f).accesses = s.accesses := rfl
@[simp] theorem State.updPort_nextId (s : State) (c p : Nat) (f : Port → Port) : (s.updPort c p f).nextId = s.nextId := rfl
@[simp] theorem State.updPort_teasel (s : State) (c p : Nat) (f : Port → Port) : (s.updPort c p f).teasel = s.teasel := rfl
@[simp] theorem State.updPort_eventMsgs (s : State) (c p : Nat) (f : Port → Port) : (s.updPort c p f).eventMsgs = s.eventMsgs := rfl
@[simp] theorem State.updPort_flights (s : State) (c p : Nat) (f : Port → Port) : (s.updPort c p f).flights = s.flights := rfl
@[simp] theorem State.updPort_faultQ (s : State) (c p : Nat) (f : Port → Port) : (s.updPort c p f).faultQ = s.faultQ := rfl
@[simp] theorem State.updPort_dev (s : State) (c p : Nat) (f : Port → Port) : (s.updPort c p f).dev = s.dev := rfl
@[simp] theorem State.updPort_host (s : State) (c p : Nat) (f : Port → Port) : (s.updPort c p f).host = s.host := rfl
@[simp] theorem State.updPort_frozen (s : State) (c p : Nat) (f : Port → Port) : (s.updPort c p f).frozen = s.frozen := rfl
@[simp] theorem State.updPort_oncePages (s : State) (c p : Nat) (f : Port → Port) : (s.updPort c p f).oncePages = s.oncePages := rfl
@[simp] theorem State.updPort_slotReturns (s : State) (c p : Nat) (f : Port → Port) : (s.updPort c p f).slotReturns = s.slotReturns := rfl
@[simp] theorem State.updPort_serviceOut (s : State) (c p : Nat) (f : Port → Port) : (s.updPort c p f).serviceOut = s.serviceOut := rfl

/-! ## setAlloc -/

@[simp] theorem State.setAlloc_acts (s : State) (a : Nat) (v : Alloc) : (s.setAlloc a v).acts = s.acts := rfl
@[simp] theorem State.setAlloc_coresReset (s : State) (a : Nat) (v : Alloc) : (s.setAlloc a v).coresReset = s.coresReset := rfl
@[simp] theorem State.setAlloc_agenda (s : State) (a : Nat) (v : Alloc) : (s.setAlloc a v).agenda = s.agenda := rfl
@[simp] theorem State.setAlloc_turn (s : State) (a : Nat) (v : Alloc) : (s.setAlloc a v).turn = s.turn := rfl
@[simp] theorem State.setAlloc_focus (s : State) (a : Nat) (v : Alloc) : (s.setAlloc a v).focus = s.focus := rfl
@[simp] theorem State.setAlloc_mem (s : State) (a : Nat) (v : Alloc) : (s.setAlloc a v).mem = s.mem := rfl
@[simp] theorem State.setAlloc_gran (s : State) (a : Nat) (v : Alloc) : (s.setAlloc a v).gran = s.gran := rfl
@[simp] theorem State.setAlloc_cores (s : State) (a : Nat) (v : Alloc) : (s.setAlloc a v).cores = s.cores := rfl
@[simp] theorem State.setAlloc_feat0 (s : State) (a : Nat) (v : Alloc) : (s.setAlloc a v).feat0 = s.feat0 := rfl
@[simp] theorem State.setAlloc_allocs (s : State) (a : Nat) (v : Alloc) : (s.setAlloc a v).allocs = s.allocs.put a v := rfl
@[simp] theorem State.setAlloc_streams (s : State) (a : Nat) (v : Alloc) : (s.setAlloc a v).streams = s.streams := rfl
@[simp] theorem State.setAlloc_queues (s : State) (a : Nat) (v : Alloc) : (s.setAlloc a v).queues = s.queues := rfl
@[simp] theorem State.setAlloc_dies (s : State) (a : Nat) (v : Alloc) : (s.setAlloc a v).dies = s.dies := rfl
@[simp] theorem State.setAlloc_links (s : State) (a : Nat) (v : Alloc) : (s.setAlloc a v).links = s.links := rfl
@[simp] theorem State.setAlloc_accesses (s : State) (a : Nat) (v : Alloc) : (s.setAlloc a v).accesses = s.accesses := rfl
@[simp] theorem State.setAlloc_nextId (s : State) (a : Nat) (v : Alloc) : (s.setAlloc a v).nextId = s.nextId := rfl
@[simp] theorem State.setAlloc_teasel (s : State) (a : Nat) (v : Alloc) : (s.setAlloc a v).teasel = s.teasel := rfl
@[simp] theorem State.setAlloc_eventMsgs (s : State) (a : Nat) (v : Alloc) : (s.setAlloc a v).eventMsgs = s.eventMsgs := rfl
@[simp] theorem State.setAlloc_flights (s : State) (a : Nat) (v : Alloc) : (s.setAlloc a v).flights = s.flights := rfl
@[simp] theorem State.setAlloc_faultQ (s : State) (a : Nat) (v : Alloc) : (s.setAlloc a v).faultQ = s.faultQ := rfl
@[simp] theorem State.setAlloc_dev (s : State) (a : Nat) (v : Alloc) : (s.setAlloc a v).dev = s.dev := rfl
@[simp] theorem State.setAlloc_host (s : State) (a : Nat) (v : Alloc) : (s.setAlloc a v).host = s.host := rfl
@[simp] theorem State.setAlloc_frozen (s : State) (a : Nat) (v : Alloc) : (s.setAlloc a v).frozen = s.frozen := rfl
@[simp] theorem State.setAlloc_oncePages (s : State) (a : Nat) (v : Alloc) : (s.setAlloc a v).oncePages = s.oncePages := rfl
@[simp] theorem State.setAlloc_slotReturns (s : State) (a : Nat) (v : Alloc) : (s.setAlloc a v).slotReturns = s.slotReturns := rfl
@[simp] theorem State.setAlloc_serviceOut (s : State) (a : Nat) (v : Alloc) : (s.setAlloc a v).serviceOut = s.serviceOut := rfl

/-! ## updAlloc -/

@[simp] theorem State.updAlloc_acts (s : State) (a : Nat) (f : Alloc → Alloc) : (s.updAlloc a f).acts = s.acts := rfl
@[simp] theorem State.updAlloc_coresReset (s : State) (a : Nat) (f : Alloc → Alloc) : (s.updAlloc a f).coresReset = s.coresReset := rfl
@[simp] theorem State.updAlloc_agenda (s : State) (a : Nat) (f : Alloc → Alloc) : (s.updAlloc a f).agenda = s.agenda := rfl
@[simp] theorem State.updAlloc_turn (s : State) (a : Nat) (f : Alloc → Alloc) : (s.updAlloc a f).turn = s.turn := rfl
@[simp] theorem State.updAlloc_focus (s : State) (a : Nat) (f : Alloc → Alloc) : (s.updAlloc a f).focus = s.focus := rfl
@[simp] theorem State.updAlloc_mem (s : State) (a : Nat) (f : Alloc → Alloc) : (s.updAlloc a f).mem = s.mem := rfl
@[simp] theorem State.updAlloc_gran (s : State) (a : Nat) (f : Alloc → Alloc) : (s.updAlloc a f).gran = s.gran := rfl
@[simp] theorem State.updAlloc_cores (s : State) (a : Nat) (f : Alloc → Alloc) : (s.updAlloc a f).cores = s.cores := rfl
@[simp] theorem State.updAlloc_feat0 (s : State) (a : Nat) (f : Alloc → Alloc) : (s.updAlloc a f).feat0 = s.feat0 := rfl
@[simp] theorem State.updAlloc_allocs (s : State) (a : Nat) (f : Alloc → Alloc) : (s.updAlloc a f).allocs = s.allocs.upd a f := rfl
@[simp] theorem State.updAlloc_streams (s : State) (a : Nat) (f : Alloc → Alloc) : (s.updAlloc a f).streams = s.streams := rfl
@[simp] theorem State.updAlloc_queues (s : State) (a : Nat) (f : Alloc → Alloc) : (s.updAlloc a f).queues = s.queues := rfl
@[simp] theorem State.updAlloc_dies (s : State) (a : Nat) (f : Alloc → Alloc) : (s.updAlloc a f).dies = s.dies := rfl
@[simp] theorem State.updAlloc_links (s : State) (a : Nat) (f : Alloc → Alloc) : (s.updAlloc a f).links = s.links := rfl
@[simp] theorem State.updAlloc_accesses (s : State) (a : Nat) (f : Alloc → Alloc) : (s.updAlloc a f).accesses = s.accesses := rfl
@[simp] theorem State.updAlloc_nextId (s : State) (a : Nat) (f : Alloc → Alloc) : (s.updAlloc a f).nextId = s.nextId := rfl
@[simp] theorem State.updAlloc_teasel (s : State) (a : Nat) (f : Alloc → Alloc) : (s.updAlloc a f).teasel = s.teasel := rfl
@[simp] theorem State.updAlloc_eventMsgs (s : State) (a : Nat) (f : Alloc → Alloc) : (s.updAlloc a f).eventMsgs = s.eventMsgs := rfl
@[simp] theorem State.updAlloc_flights (s : State) (a : Nat) (f : Alloc → Alloc) : (s.updAlloc a f).flights = s.flights := rfl
@[simp] theorem State.updAlloc_faultQ (s : State) (a : Nat) (f : Alloc → Alloc) : (s.updAlloc a f).faultQ = s.faultQ := rfl
@[simp] theorem State.updAlloc_dev (s : State) (a : Nat) (f : Alloc → Alloc) : (s.updAlloc a f).dev = s.dev := rfl
@[simp] theorem State.updAlloc_host (s : State) (a : Nat) (f : Alloc → Alloc) : (s.updAlloc a f).host = s.host := rfl
@[simp] theorem State.updAlloc_frozen (s : State) (a : Nat) (f : Alloc → Alloc) : (s.updAlloc a f).frozen = s.frozen := rfl
@[simp] theorem State.updAlloc_oncePages (s : State) (a : Nat) (f : Alloc → Alloc) : (s.updAlloc a f).oncePages = s.oncePages := rfl
@[simp] theorem State.updAlloc_slotReturns (s : State) (a : Nat) (f : Alloc → Alloc) : (s.updAlloc a f).slotReturns = s.slotReturns := rfl
@[simp] theorem State.updAlloc_serviceOut (s : State) (a : Nat) (f : Alloc → Alloc) : (s.updAlloc a f).serviceOut = s.serviceOut := rfl

/-! ## updStream -/

@[simp] theorem State.updStream_acts (s : State) (m : Nat) (f : Stream → Stream) : (s.updStream m f).acts = s.acts := rfl
@[simp] theorem State.updStream_coresReset (s : State) (m : Nat) (f : Stream → Stream) : (s.updStream m f).coresReset = s.coresReset := rfl
@[simp] theorem State.updStream_agenda (s : State) (m : Nat) (f : Stream → Stream) : (s.updStream m f).agenda = s.agenda := rfl
@[simp] theorem State.updStream_turn (s : State) (m : Nat) (f : Stream → Stream) : (s.updStream m f).turn = s.turn := rfl
@[simp] theorem State.updStream_focus (s : State) (m : Nat) (f : Stream → Stream) : (s.updStream m f).focus = s.focus := rfl
@[simp] theorem State.updStream_mem (s : State) (m : Nat) (f : Stream → Stream) : (s.updStream m f).mem = s.mem := rfl
@[simp] theorem State.updStream_gran (s : State) (m : Nat) (f : Stream → Stream) : (s.updStream m f).gran = s.gran := rfl
@[simp] theorem State.updStream_cores (s : State) (m : Nat) (f : Stream → Stream) : (s.updStream m f).cores = s.cores := rfl
@[simp] theorem State.updStream_feat0 (s : State) (m : Nat) (f : Stream → Stream) : (s.updStream m f).feat0 = s.feat0 := rfl
@[simp] theorem State.updStream_allocs (s : State) (m : Nat) (f : Stream → Stream) : (s.updStream m f).allocs = s.allocs := rfl
@[simp] theorem State.updStream_queues (s : State) (m : Nat) (f : Stream → Stream) : (s.updStream m f).queues = s.queues := rfl
@[simp] theorem State.updStream_dies (s : State) (m : Nat) (f : Stream → Stream) : (s.updStream m f).dies = s.dies := rfl
@[simp] theorem State.updStream_links (s : State) (m : Nat) (f : Stream → Stream) : (s.updStream m f).links = s.links := rfl
@[simp] theorem State.updStream_accesses (s : State) (m : Nat) (f : Stream → Stream) : (s.updStream m f).accesses = s.accesses := rfl
@[simp] theorem State.updStream_nextId (s : State) (m : Nat) (f : Stream → Stream) : (s.updStream m f).nextId = s.nextId := rfl
@[simp] theorem State.updStream_teasel (s : State) (m : Nat) (f : Stream → Stream) : (s.updStream m f).teasel = s.teasel := rfl
@[simp] theorem State.updStream_eventMsgs (s : State) (m : Nat) (f : Stream → Stream) : (s.updStream m f).eventMsgs = s.eventMsgs := rfl
@[simp] theorem State.updStream_flights (s : State) (m : Nat) (f : Stream → Stream) : (s.updStream m f).flights = s.flights := rfl
@[simp] theorem State.updStream_faultQ (s : State) (m : Nat) (f : Stream → Stream) : (s.updStream m f).faultQ = s.faultQ := rfl
@[simp] theorem State.updStream_dev (s : State) (m : Nat) (f : Stream → Stream) : (s.updStream m f).dev = s.dev := rfl
@[simp] theorem State.updStream_host (s : State) (m : Nat) (f : Stream → Stream) : (s.updStream m f).host = s.host := rfl
@[simp] theorem State.updStream_frozen (s : State) (m : Nat) (f : Stream → Stream) : (s.updStream m f).frozen = s.frozen := rfl
@[simp] theorem State.updStream_oncePages (s : State) (m : Nat) (f : Stream → Stream) : (s.updStream m f).oncePages = s.oncePages := rfl
@[simp] theorem State.updStream_slotReturns (s : State) (m : Nat) (f : Stream → Stream) : (s.updStream m f).slotReturns = s.slotReturns := rfl
@[simp] theorem State.updStream_serviceOut (s : State) (m : Nat) (f : Stream → Stream) : (s.updStream m f).serviceOut = s.serviceOut := rfl

/-! ## updQueue -/

@[simp] theorem State.updQueue_acts (s : State) (q : Nat) (f : Queue → Queue) : (s.updQueue q f).acts = s.acts := rfl
@[simp] theorem State.updQueue_coresReset (s : State) (q : Nat) (f : Queue → Queue) : (s.updQueue q f).coresReset = s.coresReset := rfl
@[simp] theorem State.updQueue_agenda (s : State) (q : Nat) (f : Queue → Queue) : (s.updQueue q f).agenda = s.agenda := rfl
@[simp] theorem State.updQueue_turn (s : State) (q : Nat) (f : Queue → Queue) : (s.updQueue q f).turn = s.turn := rfl
@[simp] theorem State.updQueue_focus (s : State) (q : Nat) (f : Queue → Queue) : (s.updQueue q f).focus = s.focus := rfl
@[simp] theorem State.updQueue_mem (s : State) (q : Nat) (f : Queue → Queue) : (s.updQueue q f).mem = s.mem := rfl
@[simp] theorem State.updQueue_gran (s : State) (q : Nat) (f : Queue → Queue) : (s.updQueue q f).gran = s.gran := rfl
@[simp] theorem State.updQueue_cores (s : State) (q : Nat) (f : Queue → Queue) : (s.updQueue q f).cores = s.cores := rfl
@[simp] theorem State.updQueue_feat0 (s : State) (q : Nat) (f : Queue → Queue) : (s.updQueue q f).feat0 = s.feat0 := rfl
@[simp] theorem State.updQueue_allocs (s : State) (q : Nat) (f : Queue → Queue) : (s.updQueue q f).allocs = s.allocs := rfl
@[simp] theorem State.updQueue_streams (s : State) (q : Nat) (f : Queue → Queue) : (s.updQueue q f).streams = s.streams := rfl
@[simp] theorem State.updQueue_dies (s : State) (q : Nat) (f : Queue → Queue) : (s.updQueue q f).dies = s.dies := rfl
@[simp] theorem State.updQueue_links (s : State) (q : Nat) (f : Queue → Queue) : (s.updQueue q f).links = s.links := rfl
@[simp] theorem State.updQueue_accesses (s : State) (q : Nat) (f : Queue → Queue) : (s.updQueue q f).accesses = s.accesses := rfl
@[simp] theorem State.updQueue_nextId (s : State) (q : Nat) (f : Queue → Queue) : (s.updQueue q f).nextId = s.nextId := rfl
@[simp] theorem State.updQueue_teasel (s : State) (q : Nat) (f : Queue → Queue) : (s.updQueue q f).teasel = s.teasel := rfl
@[simp] theorem State.updQueue_eventMsgs (s : State) (q : Nat) (f : Queue → Queue) : (s.updQueue q f).eventMsgs = s.eventMsgs := rfl
@[simp] theorem State.updQueue_flights (s : State) (q : Nat) (f : Queue → Queue) : (s.updQueue q f).flights = s.flights := rfl
@[simp] theorem State.updQueue_faultQ (s : State) (q : Nat) (f : Queue → Queue) : (s.updQueue q f).faultQ = s.faultQ := rfl
@[simp] theorem State.updQueue_dev (s : State) (q : Nat) (f : Queue → Queue) : (s.updQueue q f).dev = s.dev := rfl
@[simp] theorem State.updQueue_host (s : State) (q : Nat) (f : Queue → Queue) : (s.updQueue q f).host = s.host := rfl
@[simp] theorem State.updQueue_frozen (s : State) (q : Nat) (f : Queue → Queue) : (s.updQueue q f).frozen = s.frozen := rfl
@[simp] theorem State.updQueue_oncePages (s : State) (q : Nat) (f : Queue → Queue) : (s.updQueue q f).oncePages = s.oncePages := rfl
@[simp] theorem State.updQueue_slotReturns (s : State) (q : Nat) (f : Queue → Queue) : (s.updQueue q f).slotReturns = s.slotReturns := rfl
@[simp] theorem State.updQueue_serviceOut (s : State) (q : Nat) (f : Queue → Queue) : (s.updQueue q f).serviceOut = s.serviceOut := rfl

/-! ## updDie -/

@[simp] theorem State.updDie_acts (s : State) (d : Nat) (f : Die → Die) : (s.updDie d f).acts = s.acts := rfl
@[simp] theorem State.updDie_coresReset (s : State) (d : Nat) (f : Die → Die) : (s.updDie d f).coresReset = s.coresReset := rfl
@[simp] theorem State.updDie_agenda (s : State) (d : Nat) (f : Die → Die) : (s.updDie d f).agenda = s.agenda := rfl
@[simp] theorem State.updDie_turn (s : State) (d : Nat) (f : Die → Die) : (s.updDie d f).turn = s.turn := rfl
@[simp] theorem State.updDie_focus (s : State) (d : Nat) (f : Die → Die) : (s.updDie d f).focus = s.focus := rfl
@[simp] theorem State.updDie_mem (s : State) (d : Nat) (f : Die → Die) : (s.updDie d f).mem = s.mem := rfl
@[simp] theorem State.updDie_gran (s : State) (d : Nat) (f : Die → Die) : (s.updDie d f).gran = s.gran := rfl
@[simp] theorem State.updDie_cores (s : State) (d : Nat) (f : Die → Die) : (s.updDie d f).cores = s.cores := rfl
@[simp] theorem State.updDie_feat0 (s : State) (d : Nat) (f : Die → Die) : (s.updDie d f).feat0 = s.feat0 := rfl
@[simp] theorem State.updDie_allocs (s : State) (d : Nat) (f : Die → Die) : (s.updDie d f).allocs = s.allocs := rfl
@[simp] theorem State.updDie_streams (s : State) (d : Nat) (f : Die → Die) : (s.updDie d f).streams = s.streams := rfl
@[simp] theorem State.updDie_queues (s : State) (d : Nat) (f : Die → Die) : (s.updDie d f).queues = s.queues := rfl
@[simp] theorem State.updDie_links (s : State) (d : Nat) (f : Die → Die) : (s.updDie d f).links = s.links := rfl
@[simp] theorem State.updDie_accesses (s : State) (d : Nat) (f : Die → Die) : (s.updDie d f).accesses = s.accesses := rfl
@[simp] theorem State.updDie_nextId (s : State) (d : Nat) (f : Die → Die) : (s.updDie d f).nextId = s.nextId := rfl
@[simp] theorem State.updDie_teasel (s : State) (d : Nat) (f : Die → Die) : (s.updDie d f).teasel = s.teasel := rfl
@[simp] theorem State.updDie_eventMsgs (s : State) (d : Nat) (f : Die → Die) : (s.updDie d f).eventMsgs = s.eventMsgs := rfl
@[simp] theorem State.updDie_flights (s : State) (d : Nat) (f : Die → Die) : (s.updDie d f).flights = s.flights := rfl
@[simp] theorem State.updDie_faultQ (s : State) (d : Nat) (f : Die → Die) : (s.updDie d f).faultQ = s.faultQ := rfl
@[simp] theorem State.updDie_dev (s : State) (d : Nat) (f : Die → Die) : (s.updDie d f).dev = s.dev := rfl
@[simp] theorem State.updDie_host (s : State) (d : Nat) (f : Die → Die) : (s.updDie d f).host = s.host := rfl
@[simp] theorem State.updDie_frozen (s : State) (d : Nat) (f : Die → Die) : (s.updDie d f).frozen = s.frozen := rfl
@[simp] theorem State.updDie_oncePages (s : State) (d : Nat) (f : Die → Die) : (s.updDie d f).oncePages = s.oncePages := rfl
@[simp] theorem State.updDie_slotReturns (s : State) (d : Nat) (f : Die → Die) : (s.updDie d f).slotReturns = s.slotReturns := rfl
@[simp] theorem State.updDie_serviceOut (s : State) (d : Nat) (f : Die → Die) : (s.updDie d f).serviceOut = s.serviceOut := rfl

/-! ## updLink -/

@[simp] theorem State.updLink_acts (s : State) (l : Nat) (f : Link → Link) : (s.updLink l f).acts = s.acts := rfl
@[simp] theorem State.updLink_coresReset (s : State) (l : Nat) (f : Link → Link) : (s.updLink l f).coresReset = s.coresReset := rfl
@[simp] theorem State.updLink_agenda (s : State) (l : Nat) (f : Link → Link) : (s.updLink l f).agenda = s.agenda := rfl
@[simp] theorem State.updLink_turn (s : State) (l : Nat) (f : Link → Link) : (s.updLink l f).turn = s.turn := rfl
@[simp] theorem State.updLink_focus (s : State) (l : Nat) (f : Link → Link) : (s.updLink l f).focus = s.focus := rfl
@[simp] theorem State.updLink_mem (s : State) (l : Nat) (f : Link → Link) : (s.updLink l f).mem = s.mem := rfl
@[simp] theorem State.updLink_gran (s : State) (l : Nat) (f : Link → Link) : (s.updLink l f).gran = s.gran := rfl
@[simp] theorem State.updLink_cores (s : State) (l : Nat) (f : Link → Link) : (s.updLink l f).cores = s.cores := rfl
@[simp] theorem State.updLink_feat0 (s : State) (l : Nat) (f : Link → Link) : (s.updLink l f).feat0 = s.feat0 := rfl
@[simp] theorem State.updLink_allocs (s : State) (l : Nat) (f : Link → Link) : (s.updLink l f).allocs = s.allocs := rfl
@[simp] theorem State.updLink_streams (s : State) (l : Nat) (f : Link → Link) : (s.updLink l f).streams = s.streams := rfl
@[simp] theorem State.updLink_queues (s : State) (l : Nat) (f : Link → Link) : (s.updLink l f).queues = s.queues := rfl
@[simp] theorem State.updLink_dies (s : State) (l : Nat) (f : Link → Link) : (s.updLink l f).dies = s.dies := rfl
@[simp] theorem State.updLink_accesses (s : State) (l : Nat) (f : Link → Link) : (s.updLink l f).accesses = s.accesses := rfl
@[simp] theorem State.updLink_nextId (s : State) (l : Nat) (f : Link → Link) : (s.updLink l f).nextId = s.nextId := rfl
@[simp] theorem State.updLink_teasel (s : State) (l : Nat) (f : Link → Link) : (s.updLink l f).teasel = s.teasel := rfl
@[simp] theorem State.updLink_eventMsgs (s : State) (l : Nat) (f : Link → Link) : (s.updLink l f).eventMsgs = s.eventMsgs := rfl
@[simp] theorem State.updLink_flights (s : State) (l : Nat) (f : Link → Link) : (s.updLink l f).flights = s.flights := rfl
@[simp] theorem State.updLink_faultQ (s : State) (l : Nat) (f : Link → Link) : (s.updLink l f).faultQ = s.faultQ := rfl
@[simp] theorem State.updLink_dev (s : State) (l : Nat) (f : Link → Link) : (s.updLink l f).dev = s.dev := rfl
@[simp] theorem State.updLink_host (s : State) (l : Nat) (f : Link → Link) : (s.updLink l f).host = s.host := rfl
@[simp] theorem State.updLink_frozen (s : State) (l : Nat) (f : Link → Link) : (s.updLink l f).frozen = s.frozen := rfl
@[simp] theorem State.updLink_oncePages (s : State) (l : Nat) (f : Link → Link) : (s.updLink l f).oncePages = s.oncePages := rfl
@[simp] theorem State.updLink_slotReturns (s : State) (l : Nat) (f : Link → Link) : (s.updLink l f).slotReturns = s.slotReturns := rfl
@[simp] theorem State.updLink_serviceOut (s : State) (l : Nat) (f : Link → Link) : (s.updLink l f).serviceOut = s.serviceOut := rfl

/-! ## updDev -/

@[simp] theorem State.updDev_acts (s : State) (f : Dev → Dev) : (s.updDev f).acts = s.acts := rfl
@[simp] theorem State.updDev_coresReset (s : State) (f : Dev → Dev) : (s.updDev f).coresReset = s.coresReset := rfl
@[simp] theorem State.updDev_agenda (s : State) (f : Dev → Dev) : (s.updDev f).agenda = s.agenda := rfl
@[simp] theorem State.updDev_turn (s : State) (f : Dev → Dev) : (s.updDev f).turn = s.turn := rfl
@[simp] theorem State.updDev_focus (s : State) (f : Dev → Dev) : (s.updDev f).focus = s.focus := rfl
@[simp] theorem State.updDev_mem (s : State) (f : Dev → Dev) : (s.updDev f).mem = s.mem := rfl
@[simp] theorem State.updDev_gran (s : State) (f : Dev → Dev) : (s.updDev f).gran = s.gran := rfl
@[simp] theorem State.updDev_cores (s : State) (f : Dev → Dev) : (s.updDev f).cores = s.cores := rfl
@[simp] theorem State.updDev_feat0 (s : State) (f : Dev → Dev) : (s.updDev f).feat0 = s.feat0 := rfl
@[simp] theorem State.updDev_allocs (s : State) (f : Dev → Dev) : (s.updDev f).allocs = s.allocs := rfl
@[simp] theorem State.updDev_streams (s : State) (f : Dev → Dev) : (s.updDev f).streams = s.streams := rfl
@[simp] theorem State.updDev_queues (s : State) (f : Dev → Dev) : (s.updDev f).queues = s.queues := rfl
@[simp] theorem State.updDev_dies (s : State) (f : Dev → Dev) : (s.updDev f).dies = s.dies := rfl
@[simp] theorem State.updDev_links (s : State) (f : Dev → Dev) : (s.updDev f).links = s.links := rfl
@[simp] theorem State.updDev_accesses (s : State) (f : Dev → Dev) : (s.updDev f).accesses = s.accesses := rfl
@[simp] theorem State.updDev_nextId (s : State) (f : Dev → Dev) : (s.updDev f).nextId = s.nextId := rfl
@[simp] theorem State.updDev_teasel (s : State) (f : Dev → Dev) : (s.updDev f).teasel = s.teasel := rfl
@[simp] theorem State.updDev_eventMsgs (s : State) (f : Dev → Dev) : (s.updDev f).eventMsgs = s.eventMsgs := rfl
@[simp] theorem State.updDev_flights (s : State) (f : Dev → Dev) : (s.updDev f).flights = s.flights := rfl
@[simp] theorem State.updDev_faultQ (s : State) (f : Dev → Dev) : (s.updDev f).faultQ = s.faultQ := rfl
@[simp] theorem State.updDev_dev (s : State) (f : Dev → Dev) : (s.updDev f).dev = f s.dev := rfl
@[simp] theorem State.updDev_host (s : State) (f : Dev → Dev) : (s.updDev f).host = s.host := rfl
@[simp] theorem State.updDev_frozen (s : State) (f : Dev → Dev) : (s.updDev f).frozen = s.frozen := rfl
@[simp] theorem State.updDev_oncePages (s : State) (f : Dev → Dev) : (s.updDev f).oncePages = s.oncePages := rfl
@[simp] theorem State.updDev_slotReturns (s : State) (f : Dev → Dev) : (s.updDev f).slotReturns = s.slotReturns := rfl
@[simp] theorem State.updDev_serviceOut (s : State) (f : Dev → Dev) : (s.updDev f).serviceOut = s.serviceOut := rfl

/-! ## updTeasel -/

@[simp] theorem State.updTeasel_acts (s : State) (f : Teasel → Teasel) : (s.updTeasel f).acts = s.acts := rfl
@[simp] theorem State.updTeasel_coresReset (s : State) (f : Teasel → Teasel) : (s.updTeasel f).coresReset = s.coresReset := rfl
@[simp] theorem State.updTeasel_agenda (s : State) (f : Teasel → Teasel) : (s.updTeasel f).agenda = s.agenda := rfl
@[simp] theorem State.updTeasel_turn (s : State) (f : Teasel → Teasel) : (s.updTeasel f).turn = s.turn := rfl
@[simp] theorem State.updTeasel_focus (s : State) (f : Teasel → Teasel) : (s.updTeasel f).focus = s.focus := rfl
@[simp] theorem State.updTeasel_mem (s : State) (f : Teasel → Teasel) : (s.updTeasel f).mem = s.mem := rfl
@[simp] theorem State.updTeasel_gran (s : State) (f : Teasel → Teasel) : (s.updTeasel f).gran = s.gran := rfl
@[simp] theorem State.updTeasel_cores (s : State) (f : Teasel → Teasel) : (s.updTeasel f).cores = s.cores := rfl
@[simp] theorem State.updTeasel_feat0 (s : State) (f : Teasel → Teasel) : (s.updTeasel f).feat0 = s.feat0 := rfl
@[simp] theorem State.updTeasel_allocs (s : State) (f : Teasel → Teasel) : (s.updTeasel f).allocs = s.allocs := rfl
@[simp] theorem State.updTeasel_streams (s : State) (f : Teasel → Teasel) : (s.updTeasel f).streams = s.streams := rfl
@[simp] theorem State.updTeasel_queues (s : State) (f : Teasel → Teasel) : (s.updTeasel f).queues = s.queues := rfl
@[simp] theorem State.updTeasel_dies (s : State) (f : Teasel → Teasel) : (s.updTeasel f).dies = s.dies := rfl
@[simp] theorem State.updTeasel_links (s : State) (f : Teasel → Teasel) : (s.updTeasel f).links = s.links := rfl
@[simp] theorem State.updTeasel_accesses (s : State) (f : Teasel → Teasel) : (s.updTeasel f).accesses = s.accesses := rfl
@[simp] theorem State.updTeasel_nextId (s : State) (f : Teasel → Teasel) : (s.updTeasel f).nextId = s.nextId := rfl
@[simp] theorem State.updTeasel_teasel (s : State) (f : Teasel → Teasel) : (s.updTeasel f).teasel = f s.teasel := rfl
@[simp] theorem State.updTeasel_eventMsgs (s : State) (f : Teasel → Teasel) : (s.updTeasel f).eventMsgs = s.eventMsgs := rfl
@[simp] theorem State.updTeasel_flights (s : State) (f : Teasel → Teasel) : (s.updTeasel f).flights = s.flights := rfl
@[simp] theorem State.updTeasel_faultQ (s : State) (f : Teasel → Teasel) : (s.updTeasel f).faultQ = s.faultQ := rfl
@[simp] theorem State.updTeasel_dev (s : State) (f : Teasel → Teasel) : (s.updTeasel f).dev = s.dev := rfl
@[simp] theorem State.updTeasel_host (s : State) (f : Teasel → Teasel) : (s.updTeasel f).host = s.host := rfl
@[simp] theorem State.updTeasel_frozen (s : State) (f : Teasel → Teasel) : (s.updTeasel f).frozen = s.frozen := rfl
@[simp] theorem State.updTeasel_oncePages (s : State) (f : Teasel → Teasel) : (s.updTeasel f).oncePages = s.oncePages := rfl
@[simp] theorem State.updTeasel_slotReturns (s : State) (f : Teasel → Teasel) : (s.updTeasel f).slotReturns = s.slotReturns := rfl
@[simp] theorem State.updTeasel_serviceOut (s : State) (f : Teasel → Teasel) : (s.updTeasel f).serviceOut = s.serviceOut := rfl

/-! ## setGranule -/

@[simp] theorem State.setGranule_acts (s : State) (g : Nat) (v : Granule) : (s.setGranule g v).acts = s.acts := rfl
@[simp] theorem State.setGranule_coresReset (s : State) (g : Nat) (v : Granule) : (s.setGranule g v).coresReset = s.coresReset := rfl
@[simp] theorem State.setGranule_agenda (s : State) (g : Nat) (v : Granule) : (s.setGranule g v).agenda = s.agenda := rfl
@[simp] theorem State.setGranule_turn (s : State) (g : Nat) (v : Granule) : (s.setGranule g v).turn = s.turn := rfl
@[simp] theorem State.setGranule_focus (s : State) (g : Nat) (v : Granule) : (s.setGranule g v).focus = s.focus := rfl
@[simp] theorem State.setGranule_mem (s : State) (g : Nat) (v : Granule) : (s.setGranule g v).mem = s.mem := rfl
@[simp] theorem State.setGranule_gran (s : State) (g : Nat) (v : Granule) : (s.setGranule g v).gran = s.gran.put g v := rfl
@[simp] theorem State.setGranule_cores (s : State) (g : Nat) (v : Granule) : (s.setGranule g v).cores = s.cores := rfl
@[simp] theorem State.setGranule_feat0 (s : State) (g : Nat) (v : Granule) : (s.setGranule g v).feat0 = s.feat0 := rfl
@[simp] theorem State.setGranule_allocs (s : State) (g : Nat) (v : Granule) : (s.setGranule g v).allocs = s.allocs := rfl
@[simp] theorem State.setGranule_streams (s : State) (g : Nat) (v : Granule) : (s.setGranule g v).streams = s.streams := rfl
@[simp] theorem State.setGranule_queues (s : State) (g : Nat) (v : Granule) : (s.setGranule g v).queues = s.queues := rfl
@[simp] theorem State.setGranule_dies (s : State) (g : Nat) (v : Granule) : (s.setGranule g v).dies = s.dies := rfl
@[simp] theorem State.setGranule_links (s : State) (g : Nat) (v : Granule) : (s.setGranule g v).links = s.links := rfl
@[simp] theorem State.setGranule_accesses (s : State) (g : Nat) (v : Granule) : (s.setGranule g v).accesses = s.accesses := rfl
@[simp] theorem State.setGranule_nextId (s : State) (g : Nat) (v : Granule) : (s.setGranule g v).nextId = s.nextId := rfl
@[simp] theorem State.setGranule_teasel (s : State) (g : Nat) (v : Granule) : (s.setGranule g v).teasel = s.teasel := rfl
@[simp] theorem State.setGranule_eventMsgs (s : State) (g : Nat) (v : Granule) : (s.setGranule g v).eventMsgs = s.eventMsgs := rfl
@[simp] theorem State.setGranule_flights (s : State) (g : Nat) (v : Granule) : (s.setGranule g v).flights = s.flights := rfl
@[simp] theorem State.setGranule_faultQ (s : State) (g : Nat) (v : Granule) : (s.setGranule g v).faultQ = s.faultQ := rfl
@[simp] theorem State.setGranule_dev (s : State) (g : Nat) (v : Granule) : (s.setGranule g v).dev = s.dev := rfl
@[simp] theorem State.setGranule_host (s : State) (g : Nat) (v : Granule) : (s.setGranule g v).host = s.host := rfl
@[simp] theorem State.setGranule_frozen (s : State) (g : Nat) (v : Granule) : (s.setGranule g v).frozen = s.frozen := rfl
@[simp] theorem State.setGranule_oncePages (s : State) (g : Nat) (v : Granule) : (s.setGranule g v).oncePages = s.oncePages := rfl
@[simp] theorem State.setGranule_slotReturns (s : State) (g : Nat) (v : Granule) : (s.setGranule g v).slotReturns = s.slotReturns := rfl
@[simp] theorem State.setGranule_serviceOut (s : State) (g : Nat) (v : Granule) : (s.setGranule g v).serviceOut = s.serviceOut := rfl

/-! ## report -/

@[simp] theorem State.report_acts (s : State) (r : FaultRec) : (s.report r).acts = s.acts := rfl
@[simp] theorem State.report_coresReset (s : State) (r : FaultRec) : (s.report r).coresReset = s.coresReset := rfl
@[simp] theorem State.report_agenda (s : State) (r : FaultRec) : (s.report r).agenda = s.agenda := rfl
@[simp] theorem State.report_turn (s : State) (r : FaultRec) : (s.report r).turn = s.turn := rfl
@[simp] theorem State.report_focus (s : State) (r : FaultRec) : (s.report r).focus = s.focus := rfl
@[simp] theorem State.report_mem (s : State) (r : FaultRec) : (s.report r).mem = s.mem := rfl
@[simp] theorem State.report_gran (s : State) (r : FaultRec) : (s.report r).gran = s.gran := rfl
@[simp] theorem State.report_cores (s : State) (r : FaultRec) : (s.report r).cores = s.cores := rfl
@[simp] theorem State.report_feat0 (s : State) (r : FaultRec) : (s.report r).feat0 = s.feat0 := rfl
@[simp] theorem State.report_allocs (s : State) (r : FaultRec) : (s.report r).allocs = s.allocs := rfl
@[simp] theorem State.report_streams (s : State) (r : FaultRec) : (s.report r).streams = s.streams := rfl
@[simp] theorem State.report_queues (s : State) (r : FaultRec) : (s.report r).queues = s.queues := rfl
@[simp] theorem State.report_dies (s : State) (r : FaultRec) : (s.report r).dies = s.dies := rfl
@[simp] theorem State.report_links (s : State) (r : FaultRec) : (s.report r).links = s.links := rfl
@[simp] theorem State.report_accesses (s : State) (r : FaultRec) : (s.report r).accesses = s.accesses := rfl
@[simp] theorem State.report_nextId (s : State) (r : FaultRec) : (s.report r).nextId = s.nextId := rfl
@[simp] theorem State.report_teasel (s : State) (r : FaultRec) : (s.report r).teasel = s.teasel := rfl
@[simp] theorem State.report_eventMsgs (s : State) (r : FaultRec) : (s.report r).eventMsgs = s.eventMsgs := rfl
@[simp] theorem State.report_flights (s : State) (r : FaultRec) : (s.report r).flights = s.flights := rfl
@[simp] theorem State.report_faultQ (s : State) (r : FaultRec) : (s.report r).faultQ = s.faultQ ++ [r] := rfl
@[simp] theorem State.report_dev (s : State) (r : FaultRec) : (s.report r).dev = s.dev := rfl
@[simp] theorem State.report_host (s : State) (r : FaultRec) : (s.report r).host = s.host := rfl
@[simp] theorem State.report_frozen (s : State) (r : FaultRec) : (s.report r).frozen = s.frozen := rfl
@[simp] theorem State.report_oncePages (s : State) (r : FaultRec) : (s.report r).oncePages = s.oncePages := rfl
@[simp] theorem State.report_slotReturns (s : State) (r : FaultRec) : (s.report r).slotReturns = s.slotReturns := rfl
@[simp] theorem State.report_serviceOut (s : State) (r : FaultRec) : (s.report r).serviceOut = s.serviceOut := rfl

/-! ## acted -/

@[simp] theorem State.acted_acts (s : State) : (s.acted).acts = s.acts + 1 := rfl
@[simp] theorem State.acted_coresReset (s : State) : (s.acted).coresReset = s.coresReset := rfl
@[simp] theorem State.acted_agenda (s : State) : (s.acted).agenda = s.agenda := rfl
@[simp] theorem State.acted_turn (s : State) : (s.acted).turn = s.turn := rfl
@[simp] theorem State.acted_focus (s : State) : (s.acted).focus = s.focus := rfl
@[simp] theorem State.acted_mem (s : State) : (s.acted).mem = s.mem := rfl
@[simp] theorem State.acted_gran (s : State) : (s.acted).gran = s.gran := rfl
@[simp] theorem State.acted_cores (s : State) : (s.acted).cores = s.cores := rfl
@[simp] theorem State.acted_feat0 (s : State) : (s.acted).feat0 = s.feat0 := rfl
@[simp] theorem State.acted_allocs (s : State) : (s.acted).allocs = s.allocs := rfl
@[simp] theorem State.acted_streams (s : State) : (s.acted).streams = s.streams := rfl
@[simp] theorem State.acted_queues (s : State) : (s.acted).queues = s.queues := rfl
@[simp] theorem State.acted_dies (s : State) : (s.acted).dies = s.dies := rfl
@[simp] theorem State.acted_links (s : State) : (s.acted).links = s.links := rfl
@[simp] theorem State.acted_accesses (s : State) : (s.acted).accesses = s.accesses := rfl
@[simp] theorem State.acted_nextId (s : State) : (s.acted).nextId = s.nextId := rfl
@[simp] theorem State.acted_teasel (s : State) : (s.acted).teasel = s.teasel := rfl
@[simp] theorem State.acted_eventMsgs (s : State) : (s.acted).eventMsgs = s.eventMsgs := rfl
@[simp] theorem State.acted_flights (s : State) : (s.acted).flights = s.flights := rfl
@[simp] theorem State.acted_faultQ (s : State) : (s.acted).faultQ = s.faultQ := rfl
@[simp] theorem State.acted_dev (s : State) : (s.acted).dev = s.dev := rfl
@[simp] theorem State.acted_host (s : State) : (s.acted).host = s.host := rfl
@[simp] theorem State.acted_frozen (s : State) : (s.acted).frozen = s.frozen := rfl
@[simp] theorem State.acted_oncePages (s : State) : (s.acted).oncePages = s.oncePages := rfl
@[simp] theorem State.acted_slotReturns (s : State) : (s.acted).slotReturns = s.slotReturns := rfl
@[simp] theorem State.acted_serviceOut (s : State) : (s.acted).serviceOut = s.serviceOut := rfl

/-! ## updCtx -/

@[simp] theorem State.updCtx_acts (s : State) (c x : Nat) (f : Ctx → Ctx) : (s.updCtx c x f).acts = s.acts := by
  unfold State.updCtx; split <;> rfl
@[simp] theorem State.updCtx_coresReset (s : State) (c x : Nat) (f : Ctx → Ctx) : (s.updCtx c x f).coresReset = s.coresReset := by
  unfold State.updCtx; split <;> rfl
@[simp] theorem State.updCtx_agenda (s : State) (c x : Nat) (f : Ctx → Ctx) : (s.updCtx c x f).agenda = s.agenda := by
  unfold State.updCtx; split <;> rfl
@[simp] theorem State.updCtx_turn (s : State) (c x : Nat) (f : Ctx → Ctx) : (s.updCtx c x f).turn = s.turn := by
  unfold State.updCtx; split <;> rfl
@[simp] theorem State.updCtx_focus (s : State) (c x : Nat) (f : Ctx → Ctx) : (s.updCtx c x f).focus = s.focus := by
  unfold State.updCtx; split <;> rfl
@[simp] theorem State.updCtx_mem (s : State) (c x : Nat) (f : Ctx → Ctx) : (s.updCtx c x f).mem = s.mem := by
  unfold State.updCtx; split <;> rfl
@[simp] theorem State.updCtx_gran (s : State) (c x : Nat) (f : Ctx → Ctx) : (s.updCtx c x f).gran = s.gran := by
  unfold State.updCtx; split <;> rfl
@[simp] theorem State.updCtx_feat0 (s : State) (c x : Nat) (f : Ctx → Ctx) : (s.updCtx c x f).feat0 = s.feat0 := by
  unfold State.updCtx; split <;> rfl
@[simp] theorem State.updCtx_allocs (s : State) (c x : Nat) (f : Ctx → Ctx) : (s.updCtx c x f).allocs = s.allocs := by
  unfold State.updCtx; split <;> rfl
@[simp] theorem State.updCtx_streams (s : State) (c x : Nat) (f : Ctx → Ctx) : (s.updCtx c x f).streams = s.streams := by
  unfold State.updCtx; split <;> rfl
@[simp] theorem State.updCtx_queues (s : State) (c x : Nat) (f : Ctx → Ctx) : (s.updCtx c x f).queues = s.queues := by
  unfold State.updCtx; split <;> rfl
@[simp] theorem State.updCtx_dies (s : State) (c x : Nat) (f : Ctx → Ctx) : (s.updCtx c x f).dies = s.dies := by
  unfold State.updCtx; split <;> rfl
@[simp] theorem State.updCtx_links (s : State) (c x : Nat) (f : Ctx → Ctx) : (s.updCtx c x f).links = s.links := by
  unfold State.updCtx; split <;> rfl
@[simp] theorem State.updCtx_accesses (s : State) (c x : Nat) (f : Ctx → Ctx) : (s.updCtx c x f).accesses = s.accesses := by
  unfold State.updCtx; split <;> rfl
@[simp] theorem State.updCtx_nextId (s : State) (c x : Nat) (f : Ctx → Ctx) : (s.updCtx c x f).nextId = s.nextId := by
  unfold State.updCtx; split <;> rfl
@[simp] theorem State.updCtx_teasel (s : State) (c x : Nat) (f : Ctx → Ctx) : (s.updCtx c x f).teasel = s.teasel := by
  unfold State.updCtx; split <;> rfl
@[simp] theorem State.updCtx_eventMsgs (s : State) (c x : Nat) (f : Ctx → Ctx) : (s.updCtx c x f).eventMsgs = s.eventMsgs := by
  unfold State.updCtx; split <;> rfl
@[simp] theorem State.updCtx_flights (s : State) (c x : Nat) (f : Ctx → Ctx) : (s.updCtx c x f).flights = s.flights := by
  unfold State.updCtx; split <;> rfl
@[simp] theorem State.updCtx_faultQ (s : State) (c x : Nat) (f : Ctx → Ctx) : (s.updCtx c x f).faultQ = s.faultQ := by
  unfold State.updCtx; split <;> rfl
@[simp] theorem State.updCtx_dev (s : State) (c x : Nat) (f : Ctx → Ctx) : (s.updCtx c x f).dev = s.dev := by
  unfold State.updCtx; split <;> rfl
@[simp] theorem State.updCtx_host (s : State) (c x : Nat) (f : Ctx → Ctx) : (s.updCtx c x f).host = s.host := by
  unfold State.updCtx; split <;> rfl
@[simp] theorem State.updCtx_frozen (s : State) (c x : Nat) (f : Ctx → Ctx) : (s.updCtx c x f).frozen = s.frozen := by
  unfold State.updCtx; split <;> rfl
@[simp] theorem State.updCtx_oncePages (s : State) (c x : Nat) (f : Ctx → Ctx) : (s.updCtx c x f).oncePages = s.oncePages := by
  unfold State.updCtx; split <;> rfl
@[simp] theorem State.updCtx_slotReturns (s : State) (c x : Nat) (f : Ctx → Ctx) : (s.updCtx c x f).slotReturns = s.slotReturns := by
  unfold State.updCtx; split <;> rfl
@[simp] theorem State.updCtx_serviceOut (s : State) (c x : Nat) (f : Ctx → Ctx) : (s.updCtx c x f).serviceOut = s.serviceOut := by
  unfold State.updCtx; split <;> rfl

/-! ## updBlock -/

@[simp] theorem State.updBlock_acts (s : State) (c x : Nat) (f : Block → Block) : (s.updBlock c x f).acts = s.acts := by
  simp [State.updBlock]
@[simp] theorem State.updBlock_coresReset (s : State) (c x : Nat) (f : Block → Block) : (s.updBlock c x f).coresReset = s.coresReset := by
  simp [State.updBlock]
@[simp] theorem State.updBlock_agenda (s : State) (c x : Nat) (f : Block → Block) : (s.updBlock c x f).agenda = s.agenda := by
  simp [State.updBlock]
@[simp] theorem State.updBlock_turn (s : State) (c x : Nat) (f : Block → Block) : (s.updBlock c x f).turn = s.turn := by
  simp [State.updBlock]
@[simp] theorem State.updBlock_focus (s : State) (c x : Nat) (f : Block → Block) : (s.updBlock c x f).focus = s.focus := by
  simp [State.updBlock]
@[simp] theorem State.updBlock_mem (s : State) (c x : Nat) (f : Block → Block) : (s.updBlock c x f).mem = s.mem := by
  simp [State.updBlock]
@[simp] theorem State.updBlock_gran (s : State) (c x : Nat) (f : Block → Block) : (s.updBlock c x f).gran = s.gran := by
  simp [State.updBlock]
@[simp] theorem State.updBlock_feat0 (s : State) (c x : Nat) (f : Block → Block) : (s.updBlock c x f).feat0 = s.feat0 := by
  simp [State.updBlock]
@[simp] theorem State.updBlock_allocs (s : State) (c x : Nat) (f : Block → Block) : (s.updBlock c x f).allocs = s.allocs := by
  simp [State.updBlock]
@[simp] theorem State.updBlock_streams (s : State) (c x : Nat) (f : Block → Block) : (s.updBlock c x f).streams = s.streams := by
  simp [State.updBlock]
@[simp] theorem State.updBlock_queues (s : State) (c x : Nat) (f : Block → Block) : (s.updBlock c x f).queues = s.queues := by
  simp [State.updBlock]
@[simp] theorem State.updBlock_dies (s : State) (c x : Nat) (f : Block → Block) : (s.updBlock c x f).dies = s.dies := by
  simp [State.updBlock]
@[simp] theorem State.updBlock_links (s : State) (c x : Nat) (f : Block → Block) : (s.updBlock c x f).links = s.links := by
  simp [State.updBlock]
@[simp] theorem State.updBlock_accesses (s : State) (c x : Nat) (f : Block → Block) : (s.updBlock c x f).accesses = s.accesses := by
  simp [State.updBlock]
@[simp] theorem State.updBlock_nextId (s : State) (c x : Nat) (f : Block → Block) : (s.updBlock c x f).nextId = s.nextId := by
  simp [State.updBlock]
@[simp] theorem State.updBlock_teasel (s : State) (c x : Nat) (f : Block → Block) : (s.updBlock c x f).teasel = s.teasel := by
  simp [State.updBlock]
@[simp] theorem State.updBlock_eventMsgs (s : State) (c x : Nat) (f : Block → Block) : (s.updBlock c x f).eventMsgs = s.eventMsgs := by
  simp [State.updBlock]
@[simp] theorem State.updBlock_flights (s : State) (c x : Nat) (f : Block → Block) : (s.updBlock c x f).flights = s.flights := by
  simp [State.updBlock]
@[simp] theorem State.updBlock_faultQ (s : State) (c x : Nat) (f : Block → Block) : (s.updBlock c x f).faultQ = s.faultQ := by
  simp [State.updBlock]
@[simp] theorem State.updBlock_dev (s : State) (c x : Nat) (f : Block → Block) : (s.updBlock c x f).dev = s.dev := by
  simp [State.updBlock]
@[simp] theorem State.updBlock_host (s : State) (c x : Nat) (f : Block → Block) : (s.updBlock c x f).host = s.host := by
  simp [State.updBlock]
@[simp] theorem State.updBlock_frozen (s : State) (c x : Nat) (f : Block → Block) : (s.updBlock c x f).frozen = s.frozen := by
  simp [State.updBlock]
@[simp] theorem State.updBlock_oncePages (s : State) (c x : Nat) (f : Block → Block) : (s.updBlock c x f).oncePages = s.oncePages := by
  simp [State.updBlock]
@[simp] theorem State.updBlock_slotReturns (s : State) (c x : Nat) (f : Block → Block) : (s.updBlock c x f).slotReturns = s.slotReturns := by
  simp [State.updBlock]
@[simp] theorem State.updBlock_serviceOut (s : State) (c x : Nat) (f : Block → Block) : (s.updBlock c x f).serviceOut = s.serviceOut := by
  simp [State.updBlock]

/-! ## Reading back -/

@[simp] theorem State.core_setCore (s : State) (c : Nat) (k : Core) : (s.setCore c k).core c = k := by
  simp [State.core]

theorem State.core_setCore_other (s : State) {c d : Nat} (k : Core) (h : d ≠ c) : (s.setCore c k).core d = s.core d := by
  simp [State.core, SMap.lookD_put_other _ _ _ h]

@[simp] theorem State.core_updCore (s : State) (c : Nat) (f : Core → Core) : (s.updCore c f).core c = f (s.core c) := by
  simp [State.updCore]

theorem State.core_updCore_other (s : State) {c d : Nat} (f : Core → Core) (h : d ≠ c) :
    (s.updCore c f).core d = s.core d := by
  simp [State.updCore, State.core_setCore_other s _ h]

@[simp] theorem State.setCore_setCore (s : State) (c : Nat) (k q : Core) :
    (s.setCore c k).setCore c q = s.setCore c q := by
  simp [State.setCore]

@[simp] theorem State.ctx?_setCtx (s : State) (c x : Nat) (k : Ctx) : (s.setCtx c x k).ctx? c x = some k := by
  simp [State.setCtx, State.ctx?]

@[simp] theorem State.setCtx_setCtx (s : State) (c x : Nat) (k q : Ctx) :
    (s.setCtx c x k).setCtx c x q = s.setCtx c x q := by
  simp [State.setCtx, State.updCore]

theorem State.updCtx_setCtx (s : State) (c x : Nat) (k : Ctx) (f : Ctx → Ctx) :
    (s.setCtx c x k).updCtx c x f = s.setCtx c x (f k) := by
  simp [State.updCtx]

@[simp] theorem State.updBlock_setCtx (s : State) (c x : Nat) (k : Ctx) (f : Block → Block) :
    (s.setCtx c x k).updBlock c x f = s.setCtx c x { k with block := k.block.map f } := by
  simp [State.updBlock, State.updCtx_setCtx]

@[simp] theorem State.elem_setElem (s : State) (c e : Nat) (v : Elem) : (s.setElem c e v).elem c e = v := by
  simp [State.setElem, State.elem]

theorem State.elem_setElem_other (s : State) {c e n : Nat} (v : Elem) (h : n ≠ e) :
    (s.setElem c e v).elem c n = s.elem c n := by
  simp [State.setElem, State.elem, SMap.lookD_put_other _ _ _ h]

@[simp] theorem State.port_setPort (s : State) (c p : Nat) (v : Port) : (s.setPort c p v).port c p = v := by
  simp [State.setPort, State.port]

@[simp] theorem State.region?_setRegion (s : State) (c r : Nat) (v : Region) :
    (s.setRegion c r v).region? c r = some v := by
  simp [State.setRegion, State.region?]

@[simp] theorem State.queue_updQueue (s : State) (q : Nat) (f : Queue → Queue) :
    (s.updQueue q f).queue q = f (s.queue q) := by
  simp [State.updQueue, State.queue]

@[simp] theorem State.stream_updStream (s : State) (m : Nat) (f : Stream → Stream) :
    (s.updStream m f).stream m = f (s.stream m) := by
  simp [State.updStream, State.stream]

@[simp] theorem State.alloc?_setAlloc (s : State) (a : Nat) (v : Alloc) : (s.setAlloc a v).alloc? a = some v := by
  simp [State.setAlloc, State.alloc?]

@[simp] theorem State.link_updLink (s : State) (l : Nat) (f : Link → Link) :
    (s.updLink l f).link l = f (s.link l) := by
  simp [State.updLink, State.link]

@[simp] theorem State.die_updDie (s : State) (d : Nat) (f : Die → Die) : (s.updDie d f).die d = f (s.die d) := by
  simp [State.updDie, State.die]

end Machine

end Sys2Proof
end

