-- ==== Sys2Proof/Laws/Body.lean ====
section
/-! SUPPORT. What firing a body word does, said once: where the word under execution is, and what `fireWith` and
`fireResult` answer. -/

namespace Sys2Proof.Machine

/-- The word under execution lies in the block in flight of its context. -/
theorem here?_spec {s : State} {h : Here} (e : s.here? = some h) :
    s.ctx? h.c h.x = some h.ctx ∧ h.ctx.block = some h.blk ∧ h.k < h.blk.words.length := by
  unfold State.here? at e
  split at e
  · split at e
    · split at e
      · cases e; simp_all
      · cases e
    · cases e
  · cases e

/-- A word that may fire does what `go` says. -/
theorem fireWith_some {s t : State} {p : Pred} {h : Here} {go : Here → Option State} (e : FiresAt s p h)
    (g : go h = some t) : fireWith p s go = .next t.acted := by
  simp [fireWith, e.1, e.2, g]

/-- A word whose operands are not there stays as it is. -/
theorem fireWith_none {s : State} {p : Pred} {h : Here} {go : Here → Option State} (e : FiresAt s p h)
    (g : go h = none) : fireWith p s go = .next s := by
  simp [fireWith, e.1, e.2, g]

/-- Everything that `fireWith` can answer: a next state. -/
theorem fireWith_cases {s t : State} {p : Pred} {go : Here → Option State} (e : fireWith p s go = .next t) :
    t = s ∨ ∃ h u, FiresAt s p h ∧ go h = some u ∧ t = u.acted := by
  unfold fireWith at e
  split at e
  · cases e
  · rename_i h hh
    split at e
    · rename_i hm
      split at e
      · rename_i u hu
        cases e; exact .inr ⟨h, u, ⟨hh, hm⟩, hu, rfl⟩
      · cases e; exact .inl rfl
    · cases e; exact .inl rfl

/-- An instruction that only computes sends its value. -/
theorem fireResult_some {s : State} {p : Pred} {h : Here} {f : Here → Option Word} {v : Word} (t0 t1 : Target)
    (e : FiresAt s p h) (hv : f h = some v) : fireResult p t0 t1 s f = .next (s.sends h t0 t1 v) := by
  unfold fireResult
  rw [fireWith_some e (by rw [hv]; rfl)]
  rfl

/-- Everything that an event can answer: the state as it was, or the state its meaning leads to. -/
theorem attempt_cases {f : State → Option State} {s t : State} (e : attempt f s = .next t) :
    t = s ∨ ∃ u, f s = some u ∧ t = u.acted := by
  unfold attempt at e
  split at e
  · rename_i u hu
    cases e; exact .inr ⟨u, hu, rfl⟩
  · cases e; exact .inl rfl

theorem attempt_some {f : State → Option State} {s t : State} (e : f s = some t) : attempt f s = .next t.acted := by
  simp [attempt, e]

theorem attempt_none {f : State → Option State} {s : State} (e : f s = none) : attempt f s = .next s := by
  simp [attempt, e]

/-- The operands of a word whose slots A and B hold values. -/
theorem Here.ab_some {h : Here} {a b : Word} (ha : h.a = some a) (hb : h.b = some b) : h.ab = some (a, b) := by
  simp [Here.ab, ha, hb]

/-- With a vector and INH clear, a fault enters the handler and changes nothing but the context (R394). -/
theorem trapOrAbort_enters (s : State) (c x : Nat) (k : Ctx) (cause : BitVec 8) (epc tval : Word) (hi : k.inh = false)
    (hv : k.tvec ≠ 0) : s.trapOrAbort c x k cause epc tval = s.setCtx c x (k.enterTrap cause epc tval) := by
  unfold State.trapOrAbort
  rw [if_pos (by simpa [hi] using hv)]

end Sys2Proof.Machine
end

