-- ==== Sys2Proof/Laws/Calc.lean ====
section
/-! SUPPORT. Integer operations written over unbounded integers (R205), as operations on bit vectors. -/

namespace Sys2Proof.Machine

/-- Taking an integer mod 2^k is writing it in k bits. -/
theorem modPow_eq (x : Int) (k : Nat) : modPow x k = (BitVec.ofInt k x).toNat := by
  simp [modPow, BitVec.toNat_ofInt]

/-- A result narrowed to 64 bits. -/
theorem wordOf_eq (x : Int) : wordOf x = BitVec.ofInt 64 x := by
  apply BitVec.eq_of_toNat_eq
  simp only [wordOf, modPow, BitVec.toNat_ofInt, BitVec.toNat_ofNat]
  omega

/-- A number of n bits read as a two's-complement number. -/
theorem signedOf_eq (n : Nat) (v : BitVec n) : signedOf v.toNat n = v.toInt := by
  unfold signedOf
  rcases Nat.eq_zero_or_pos n with h | h
  · subst h
    have := v.isLt
    simp only [BitVec.toInt]
    split <;> split <;> omega
  rw [BitVec.toInt_eq_toNat_cond]
  have : 2 ^ n = 2 * 2 ^ (n - 1) := by rw [← Nat.pow_succ']; congr 1; omega
  split <;> split <;> first | rfl | omega

theorem ofInt_natCast (n k : Nat) : BitVec.ofInt n (k : Int) = BitVec.ofNat n k := by
  apply BitVec.eq_of_toNat_eq
  simp

/-- An integer operation is one on bit vectors of 64 bits, or of 32 with the result sign-extended (R205). -/
theorem intOp_eq (w : Bool) (f : Nat → Nat → Nat → Int → Int → Int) (g : (n : Nat) → BitVec n → BitVec n → BitVec n)
    (a b : Word)
    (h : ∀ n, n = 32 ∨ n = 64 → ∀ x y : BitVec n, BitVec.ofInt n (f n x.toNat y.toNat x.toInt y.toInt) = g n x y) :
    intOp w f a b = byWidth w g a b := by
  unfold intOp byWidth widthOf
  cases w
  · simp only [Bool.false_eq_true, if_false]
    have e1 : a.toNat % 2 ^ 64 = a.toNat := Nat.mod_eq_of_lt a.isLt
    have e2 : b.toNat % 2 ^ 64 = b.toNat := Nat.mod_eq_of_lt b.isLt
    rw [← h 64 (.inr rfl), wordOf_eq, modPow_eq, e1, e2, signedOf_eq, signedOf_eq, signedOf_eq, BitVec.ofInt_toInt]
  · simp only [if_true]
    have e1 : a.toNat % 2 ^ 32 = (a.setWidth 32).toNat := by simp
    have e2 : b.toNat % 2 ^ 32 = (b.setWidth 32).toNat := by simp
    rw [← h 32 (.inl rfl), wordOf_eq, modPow_eq, e1, e2, signedOf_eq, signedOf_eq, signedOf_eq]
    rfl

/-- A test is one on bit vectors of 64 or 32 bits (R216). -/
theorem testOp_eq (w : Bool) (f : Nat → Nat → Int → Int → Bool) (g : (n : Nat) → BitVec n → BitVec n → Bool) (a b : Word)
    (h : ∀ n, n = 32 ∨ n = 64 → ∀ x y : BitVec n, f x.toNat y.toNat x.toInt y.toInt = g n x y) :
    testOp w f a b = testWidth w g a b := by
  unfold testOp testWidth widthOf
  cases w
  · simp only [Bool.false_eq_true, if_false]
    have e1 : a.toNat % 2 ^ 64 = a.toNat := Nat.mod_eq_of_lt a.isLt
    have e2 : b.toNat % 2 ^ 64 = b.toNat := Nat.mod_eq_of_lt b.isLt
    rw [← h 64 (.inr rfl), e1, e2, signedOf_eq, signedOf_eq]
  · simp only [if_true]
    have e1 : a.toNat % 2 ^ 32 = (a.setWidth 32).toNat := by simp
    have e2 : b.toNat % 2 ^ 32 = (b.setWidth 32).toNat := by simp
    rw [← h 32 (.inl rfl), e1, e2, signedOf_eq, signedOf_eq]

end Sys2Proof.Machine
end

