-- ==== Sys2Proof/Laws/Encoding.lean ====
section
/-! SUPPORT. The fields of a body word, read back from what the encoder puts together. -/

namespace Sys2Proof

@[simp] theorem Pred.ofBits_bits (p : Pred) : Pred.ofBits p.bits = some p := by cases p <;> rfl

@[simp] theorem Ord.ofBits_bits (o : Ord) : Ord.ofBits o.bits = o := by cases o <;> rfl

@[simp] theorem Scope.ofBits_bits (o : Scope) : Scope.ofBits o.bits = o := by cases o <;> rfl

@[simp] theorem xopW_wide (w : Bool) (op : BitVec 4) : (xopW w op)[4] = w := by
  cases w <;> revert op <;> decide

@[simp] theorem xopW_op (w : Bool) (op : BitVec 4) : (xopW w op).extractLsb' 0 4 = op := by
  cases w <;> revert op <;> decide

@[simp] theorem imm14_split (i : BitVec 14) : i.extractLsb' 9 5 ++ i.extractLsb' 0 9 = i := by
  ext k h
  simp
  grind

@[simp] theorem offs20_split (e : BitVec 3) (i : BitVec 20) :
    (e ++ i.extractLsb' 18 2).extractLsb' 0 2 ++ i.extractLsb' 9 9 ++ i.extractLsb' 0 9 = i := by
  ext k h
  simp
  grind

@[simp] theorem exit_split (e : BitVec 3) (i : BitVec 2) : (e ++ i).extractLsb' 2 3 = e := by
  revert e i; decide

@[simp] theorem csr_split (n : BitVec 12) :
    (0#2 ++ n.extractLsb' 9 3).extractLsb' 0 3 ++ n.extractLsb' 0 9 = n := by
  ext k h
  simp
  grind

@[simp] theorem csr_zero (n : BitVec 3) : (0#2 ++ n).extractLsb' 3 2 = 0#2 := by
  revert n; decide

@[simp] theorem offs_zero (e : BitVec 3) : (e ++ 0#2).extractLsb' 0 2 = 0#2 := by
  revert e; decide

@[simp] theorem aop_op (a : BitVec 4) (o : Ord) (s : Scope) (w : Bool) : (aopBits a o s w).extractLsb' 5 4 = a := by
  cases o <;> cases s <;> cases w <;> revert a <;> decide

@[simp] theorem aop_ord (a : BitVec 4) (o : Ord) (s : Scope) (w : Bool) : (aopBits a o s w).extractLsb' 3 2 = o.bits := by
  cases o <;> cases s <;> cases w <;> revert a <;> decide

@[simp] theorem aop_scope (a : BitVec 4) (o : Ord) (s : Scope) (w : Bool) : (aopBits a o s w).extractLsb' 1 2 = s.bits := by
  cases o <;> cases s <;> cases w <;> revert a <;> decide

@[simp] theorem aop_w (a : BitVec 4) (o : Ord) (s : Scope) (w : Bool) : (aopBits a o s w)[0] = w := by
  cases o <;> cases s <;> cases w <;> revert a <;> decide

/-- The fields that were put together are read back. -/
theorem unpack_pack (f : Fields) : unpack (pack f) = f := by
  obtain ⟨o,p,a,b,c⟩ := f
  simp only [unpack, pack, Fields.mk.injEq]
  refine ⟨?_,?_,?_,?_,?_⟩ <;> (ext k h; simp; try grind)

/-- A word is what its fields put together. -/
theorem pack_unpack (w : W32) : pack (unpack w) = w := by
  simp only [unpack, pack]
  ext k h; simp; grind

end Sys2Proof
end

