-- ==== Sys2Proof/Laws/Engine.lean ====
section
/-! SUPPORT. What an engine instruction that is the only one of its block does when it fires: its acceptance by its unit, said
once (R184, R188, R239 to R241). -/

namespace Sys2Proof.Machine

/-- The context that was just stored. -/
@[simp] theorem ctx?_setCtx_same (s : State) (c x : Nat) (k : Ctx) : (s.setCtx c x k).ctx? c x = some k := by
  simp [State.ctx?, State.setCtx, State.core, State.updCore, State.setCore]

/-- The later of two stores of a context stands. -/
theorem setCtx_setCtx (s : State) (c x : Nat) (k l : Ctx) : (s.setCtx c x k).setCtx c x l = s.setCtx c x l := by
  simp [State.setCtx, State.core, State.updCore, State.setCore]

/-- Only engine and synchronisation instructions wait (R241). -/
theorem isWaiting_isEngine {f : Fields} (h : isWaiting f = true) : isEngine f = true := by
  simp only [isWaiting, isEngine] at *
  simp only [Bool.or_eq_true, Bool.and_eq_true, decide_eq_true_eq] at *
  omega

@[simp] theorem send_words (b : Block) (t v) : (b.send t v).words = b.words := by
  unfold Block.send; repeat' split
  all_goals rfl
@[simp] theorem send_done (b : Block) (t v) : (b.send t v).done = b.done := by
  unfold Block.send; repeat' split
  all_goals rfl
@[simp] theorem send_faults (b : Block) (t v) : (b.send t v).faults = b.faults := by
  unfold Block.send; repeat' split
  all_goals rfl
@[simp] theorem send_ops (b : Block) (t v) : (b.send t v).ops = b.ops := by
  unfold Block.send; repeat' split
  all_goals rfl
@[simp] theorem send_issued (b : Block) (t v) : (b.send t v).issued = b.issued := by
  unfold Block.send; repeat' split
  all_goals rfl

/-- The memory words of a block are a matter of its words alone. -/
theorem memWords_congr {b b' : Block} (h : b'.words = b.words) : b'.memWords = b.memWords := by
  simp [Block.memWords, Block.fields, h]
/-- So are the fields of each word. -/
theorem fields_congr {b b' : Block} (h : b'.words = b.words) (k : Nat) : b'.fields k = b.fields k := by
  simp [Block.fields, h]

/-- A block without memory instructions has nothing to issue. -/
theorem settle_none {s : State} {c x : Nat} {k : Ctx} {b : Block} (hk : s.ctx? c x = some k) (hb : k.block = some b)
    (hm : b.memWords = []) : s.settle c x = s := by
  have : b.byLsid = [] := by simp [Block.byLsid, hm]
  simp [State.settle, hk, hb, this]

/-- What an engine instruction hands to its unit when it fires. -/
def cmdOf (h : Here) (i : Instr) (f : Fields) : Cmd :=
  { c := h.c, x := h.x, k := h.k, ctx := { h.ctx with block := some (h.blk.fireAs h.k i) }, blk := h.blk.fireAs h.k i, f,
    a := h.blk.slotA.lookD h.k 0, b := h.blk.slotB.lookD h.k 0 }

/-- The state with the instruction fired and not yet offered to its unit. -/
def firedState (s : State) (h : Here) (i : Instr) : State :=
  s.setCtx h.c h.x { h.ctx with block := some (h.blk.fireAs h.k i) }

/-- The fields of the word are those of the instruction. -/
theorem EngineAlone.field {s : State} {p : Pred} {h : Here} {i : Instr} (e : EngineAlone s p h i) : ∃ f, encodeFields i = some f ∧ h.blk.fields h.k = some f := by
  obtain ⟨_, ⟨w, hw, hg⟩, _⟩ := e
  simp only [encode, Option.map_eq_some_iff] at hw
  obtain ⟨f, hf, rfl⟩ := hw
  exact ⟨f, hf, by simp [Block.fields, hg, unpack_pack]⟩

/-- The only engine instruction of a block may be accepted as it fires (R188). -/
theorem EngineAlone.mayAccept {s p h i f} (e : EngineAlone s p h i) (hf : h.blk.fields h.k = some f) :
   (h.blk.fireAs h.k i).mayAccept h.k f = true := by
  obtain ⟨⟨h1, h2⟩, _, ho, hd, hi, hm, ha, -⟩ := e
  simp only [mayFire, Bool.and_eq_true, Bool.not_eq_true', List.isEmpty_iff] at h2
  unfold Block.mayAccept
  have hw : isWaiting f = false → (h.blk.fireAs h.k i).waitOver = true := by
    intro hw
    unfold Block.waitOver
    simp only [List.all_eq_true, List.mem_range]
    intro j hj
    rw [fields_congr (b := h.blk) (by rfl) j]
    by_cases hjk : j = h.k
    · subst hjk; simp [hf, hw]
    · cases hfj : h.blk.fields j with
      | none => simp
      | some g =>
        have : isWaiting g = false := by
          by_contra hc
          have := isWaiting_isEngine (f := g) (by simpa using hc)
          rw [ha j g hjk hfj] at this; cases this
        simp [this]
  have hl : (h.blk.fireAs h.k i).lowerDone h.k = true := by
    unfold Block.lowerDone
    simp only [List.all_eq_true, List.mem_range]
    intro j hj
    rw [fields_congr (b := h.blk) (by rfl) j]
    cases hfj : h.blk.fields j with
    | none => simp
    | some g => simp [ha j g (by omega) hfj]
  simp only [Block.fireAs, hd, hi, h2.1.2]
  cases hw' : isWaiting f with
  | true => simp
  | false =>
    have := hw hw'
    simp only [Block.fireAs] at this hl
    simp_all

/-- An engine instruction that its unit accepts as it fires leaves the unit's state with the result sent. -/
theorem fireEngine_done {s t : State} {p : Pred} {h : Here} {i : Instr} {f : Fields} {nA nB : Bool} {v : Word} {q : Ctx} {b : Block}
    (e : EngineAlone s p h i) (hf : encodeFields i = some f) (he : isEngine f = true)
    (hA : nA = true → h.a.isSome = true) (hB : nB = true → h.b.isSome = true)
    (hd : engineDo i (cmdOf h i f) (firedState s h i) = .done t v)
    (hq : t.ctx? h.c h.x = some q) (hb : q.block = some b) (hbw : b.words = h.blk.words) :
    fireEngine p nA nB i s = .next (t.finishEngine h.c h.x h.k f.c v).acted := by
  unfold fireEngine
  apply fireWith_some e.1
  rw [if_neg (by
    simp only [Bool.or_eq_true, Bool.and_eq_true, Option.isNone_iff_eq_none]
    rintro (⟨h1, h2⟩ | ⟨h1, h2⟩)
    · have := hA h1; rw [h2] at this; cases this
    · have := hB h1; rw [h2] at this; cases this)]
  congr 1
  obtain ⟨f', hf', hff⟩ := EngineAlone.field e
  obtain rfl : f = f' := by rw [hf] at hf'; cases hf'; rfl
  have hmw := e.2.2.2.2.2.1
  unfold State.pump
  simp only [ctx?_setCtx_same, Option.bind_some]
  have hops : (h.blk.fireAs h.k i).ops = [(h.k, i)] := by simp [Block.fireAs, e.2.2.1, SMap.put]
  have hff2 : (h.blk.fireAs h.k i).fields h.k = some f := by rw [← hff]; exact fields_congr rfl _
  simp only [hops, List.map_cons, List.map_nil, List.filter_cons, List.filter_nil, hff2, he, if_true]
  have h1 : tryEngine h.c h.x h.k (firedState s h i) = some (t.finishEngine h.c h.x h.k f.c v) := by
    unfold tryEngine
    simp only [firedState, ctx?_setCtx_same]
    have hff2 : (h.blk.fireAs h.k i).fields h.k = some f := by rw [← hff]; exact fields_congr rfl _
    have ho : (h.blk.fireAs h.k i).ops.look h.k = some i := by simp [Block.fireAs]
    have hw : (f.op = 0x64 ∨ (firedState s h i).recordsWritten h.c h.x (h.blk.fireAs h.k i).num = true) :=
      e.2.2.2.2.2.2.2 f hf
    rw [firedState] at hw
    have hw2 : (decide (f.op = 0x64) || (s.setCtx h.c h.x { h.ctx with block := some (h.blk.fireAs h.k i) }).recordsWritten h.c h.x
        (h.blk.fireAs h.k i).num) = true := by simpa using hw
    simp only [hff2, ho, EngineAlone.mayAccept e hff, Bool.true_and, hw2, if_true]
    have : engineDo i (cmdOf h i f) (firedState s h i) = .done t v := hd
    unfold cmdOf firedState at this
    rw [show (h.blk.fireAs h.k i).slotA = h.blk.slotA from rfl, show (h.blk.fireAs h.k i).slotB = h.blk.slotB from rfl]
    rw [this]
    rfl
  have hfin : t.finishEngine h.c h.x h.k f.c v = t.setCtx h.c h.x { q with block := some (({ b with done := h.k :: b.done, issued := h.k :: b.issued } : Block).send f.c v) } := by
    simp [State.finishEngine, State.updBlock, State.updCtx, hq, hb]
  have h2 : tryEngine h.c h.x h.k (t.finishEngine h.c h.x h.k f.c v) = none := by
    rw [hfin]
    unfold tryEngine
    simp only [ctx?_setCtx_same]
    split
    · unfold Block.mayAccept
      simp
    · rfl
  have h3 : (t.finishEngine h.c h.x h.k f.c v).settle h.c h.x = t.finishEngine h.c h.x h.k f.c v := by
    rw [hfin]
    apply settle_none (ctx?_setCtx_same _ _ _ _) rfl
    rw [← hmw]
    apply memWords_congr
    simp [hbw]
  change (List.foldl _ (firedState s h i) _).settle h.c h.x = _
  have : ∀ (fs : List Nat), fs = [] ∨ fs = [h.k] → (List.foldl (fun s k => (tryEngine h.c h.x k s).getD s) (firedState s h i) (fs ++ [h.k])) = t.finishEngine h.c h.x h.k f.c v := by
    rintro fs (rfl | rfl)
    · simp [h1]
    · simp [h1, h2]
  rw [this _ ?_, h3]
  split <;> simp

/-- What acceptance leaves in the context. -/
theorem ctx?_finishEngine {t : State} {c x k : Nat} {q : Ctx} {b : Block} {t0 : Target} {v : Word} (hq : t.ctx? c x = some q) (hb : q.block = some b) :
   (t.finishEngine c x k t0 v).ctx? c x = some { q with block := some (({ b with done := k :: b.done, issued := k :: b.issued } : Block).send t0 v) } := by
  simp [State.finishEngine, State.updBlock, State.updCtx, hq, hb]

/-- Acceptance itself changes no byte. -/
@[simp] theorem finishEngine_mem (t : State) (c x k t0 v) : (t.finishEngine c x k t0 v).mem = t.mem := by
  unfold State.finishEngine State.updBlock State.updCtx; split <;> rfl

/-- An engine instruction whose unit accepts it is `Accepted`, as the statements say it. -/
theorem accepted_of {s t : State} {p : Pred} {h : Here} {i : Instr} {f : Fields} {nA nB : Bool} {v : Word} {q : Ctx}
    (hx : exec i s = fireEngine p nA nB i s)
    (e : EngineAlone s p h i) (hf : encodeFields i = some f) (he : isEngine f = true)
    (hA : nA = true → h.a.isSome = true) (hB : nB = true → h.b.isSome = true)
    (hd : engineDo i (cmdOf h i f) (firedState s h i) = .done t v)
    (hq : t.ctx? h.c h.x = some q) (hb : q.block = some (h.blk.fireAs h.k i)) (hr : q.regs = h.ctx.regs) :
    Accepted s (t.finishEngine h.c h.x h.k f.c v).acted h i f.c v := by
  refine ⟨?_, ?_⟩
  · rw [hx]; exact fireEngine_done e hf he hA hB hd hq hb rfl
  · refine ⟨_, ctx?_finishEngine hq hb, ?_, hr⟩
    have := e.2.2.2.1
    have h2 := e.2.2.2.2.1
    unfold Here.answered
    simp [Block.fireAs, this, h2]

/-- Local regions do not change with a context's registers or block. -/
@[simp] theorem core_setCtx_regionOf (s : State) (c x y lr : Nat) (k : Ctx) : ((s.setCtx c x k).core c).regionOf y lr = (s.core c).regionOf y lr := by
  simp [State.setCtx, State.updCore, State.setCore, State.core, Core.regionOf]

/-- The context of an instruction that has fired. -/
theorem firedState_ctx (s : State) (h : Here) (i : Instr) : (firedState s h i).ctx? h.c h.x = some { h.ctx with block := some (h.blk.fireAs h.k i) } := by
  simp [firedState]
/-- Nothing else of the core has changed. -/
theorem firedState_core (s : State) (h : Here) (i : Instr) : (firedState s h i).core h.c = { s.core h.c with ctxs := (s.core h.c).ctxs.put h.x { h.ctx with block := some (h.blk.fireAs h.k i) } } := by
  simp [firedState, State.setCtx, State.updCore, State.setCore, State.core]
/-- Operand A as the unit reads it. -/
theorem slotA_of {h : Here} {a : Word} (ha : h.a = some a) : h.blk.slotA.lookD h.k 0 = a := by
  have : h.blk.slotA.look h.k = some a := ha
  simp [SMap.lookD, this]
/-- Operand B as the unit reads it. -/
theorem slotB_of {h : Here} {a : Word} (ha : h.b = some a) : h.blk.slotB.lookD h.k 0 = a := by
  have : h.blk.slotB.look h.k = some a := ha
  simp [SMap.lookD, this]

/-- A command of the configuration path whose checks pass takes its place there (R240). -/
theorem onPath_ok {s : State} {p : Pred} {h : Here} {i : Instr} {f : Fields} {nA nB : Bool} {lr : BitVec 3} {rn : Nat} {r : Region}
    {demand : Bool} {check : Nat → Region → Option (Nat × Word)} {op : Region → CfgOp} {tile evt : Bool}
    (hx : exec i s = fireEngine p nA nB i s) (hr : RegionIs s h lr rn r) (hu : s.pathUsed h.c h.x < 4)
    (e : EngineAlone s p h i) (hf : encodeFields i = some f) (hf0 : f.c = 0) (he : isEngine f = true)
    (hA : nA = true → h.a.isSome = true) (hB : nB = true → h.b.isSome = true)
    (hdo : engineDo i (cmdOf h i f) (firedState s h i) = (cmdOf h i f).onPathWhen (firedState s h i) lr demand check op tile evt)
    (hd : demand = true → r.demandMode = false) (hc : check rn r = none) :
    OnPath s h i rn (op r) tile evt := by
  have hu' : (firedState s h i).pathUsed h.c h.x < 4 := by
    rw [show (firedState s h i).pathUsed h.c h.x = s.pathUsed h.c h.x by simp [State.pathUsed, firedState_core, Core.pathEntries]]; exact hu
  have hrg : ((firedState s h i).core h.c).regionOf h.x lr.toNat = some (rn, r) := by rw [← hr.1]; simp [firedState]
  have hdo2 : engineDo i (cmdOf h i f) (firedState s h i) = .done ((firedState s h i).onPath (cmdOf h i f) rn (op r) tile evt) 0 := by
    rw [hdo]
    unfold Cmd.onPathWhen
    have : (cmdOf h i f).region (firedState s h i) lr = some (rn, r) := hrg
    rw [if_neg (by simp only [cmdOf]; omega), this]
    simp only [hc]
    rw [if_neg (by simp only [Bool.and_eq_true]; rintro ⟨h1, h2⟩; rw [hd h1] at h2; cases h2)]
  have hq : ((firedState s h i).onPath (cmdOf h i f) rn (op r) tile evt).ctx? h.c h.x = some { h.ctx with block := some (h.blk.fireAs h.k i) } := by
    have := firedState_ctx s h i
    simp only [State.onPath, cmdOf, State.ctx?, State.core, State.updCore, State.setCore] at this ⊢
    simpa using this
  have := accepted_of hx e hf he hA hB hdo2 hq rfl rfl
  rw [hf0] at this
  refine ⟨_, this, ?_, ?_⟩
  · simp [State.acted, firedState, State.onPath]
  · simp only [State.acted, State.finishEngine, State.updBlock, State.updCtx]
    rw [hq]
    simp [State.setCtx, State.updCore, State.setCore, State.core, State.onPath, cmdOf, firedState]


/-- Operand A of the command. -/
theorem cmdOf_a {h : Here} {i f} {a : Word} (ha : h.a = some a) : (cmdOf h i f).a = a := slotA_of ha
/-- Operand B of the command. -/
theorem cmdOf_b {h : Here} {i f} {a : Word} (ha : h.b = some a) : (cmdOf h i f).b = a := slotB_of ha
/-- The background class has no loader budget to meet (R327, R329). -/
theorem withBudget_go {s : State} {h : Here} {i f} (hs : 16 ≤ h.ctx.stream.toNat) (go : Accept) : (cmdOf h i f).withBudget (firedState s h i) go = go := by
  have : (firedState s h i).standing h.c h.x 2 ((h.blk.fireAs h.k i).deferred.look h.k) = .go := by
    have hp : (firedState s h i).payerAt h.c h.x = .background := by
      simp only [State.payerAt, firedState_ctx]
      rw [if_neg (by omega)]
    simp only [State.standing, hp, State.standingOf, State.payerStream]
  simp only [Cmd.withBudget, cmdOf, this]
/-- The address checks are the context's own. -/
theorem cmdOf_check (h : Here) (i f fm a al n) : (cmdOf h i f).ctx.checkAddr fm a al n = h.ctx.checkAddr fm a al n := rfl

end Sys2Proof.Machine
end

