-- ==== Sys2Proof/Laws/Issue.lean ====
section
/-! SUPPORT. What a memory instruction that is the only one of its block does when it fires: its access is issued, said once
(R183, R218, R416). -/

namespace Sys2Proof.Machine

/-- Whether a block still waits is a matter of its words, its finished words, its predicates, and of which of its waiting words
have fired. -/
theorem waitOver_congr {b b' : Block} (hw : b'.words = b.words) (hd : b'.done = b.done) (hp : b'.slotP = b.slotP)
    (hs : b'.swung = b.swung)
    (hf : ∀ k f, b.fields k = some f → isWaiting f = true → b'.fired.contains k = b.fired.contains k) :
    b'.waitOver = b.waitOver := by
  have hg : ∀ k, b'.fields k = b.fields k := fun k => by simp only [Block.fields, hw]
  simp only [Block.waitOver, hw, hd, hg]
  congr 1
  funext k
  cases h : b.fields k with
  | none => rfl
  | some f =>
    cases hq : isWaiting f with
    | false => simp [hq]
    | true => simp only [hq, Block.declined, declinedAt, predMet, hg, h, hp, hs, hf k f h hq]

/-- A memory instruction does not wait. -/
theorem mem_not_waiting {f : Fields} (h : isMem f = true) : isWaiting f = false := by
  simp only [isMem, Bool.and_eq_true, decide_eq_true_eq] at h
  simp only [isWaiting]
  have h1 : f.op.toNat ≠ 0x60 := by omega
  have h2 : f.op.toNat ≠ 0x61 := by omega
  have h3 : f.op.toNat ≠ 0x62 := by omega
  have h4 : f.op.toNat ≠ 0x64 := by omega
  simp [h1, h2, h3, h4]

/-- What is listed as a memory word of a block is one. -/
theorem memWords_fields {b : Block} {e : Nat × Fields} (h : e ∈ b.memWords) : b.fields e.1 = some e.2 ∧ isMem e.2 = true := by
  simp only [Block.memWords, List.mem_filterMap] at h
  obtain ⟨k, -, h⟩ := h
  split at h
  · rename_i f hf
    split at h
    · rename_i hm
      obtain rfl := Option.some.inj h
      exact ⟨hf, hm⟩
    · cases h
  · cases h

/-- The one memory word of a block, by LSID. -/
theorem byLsid_single {b : Block} {k : Nat} {f : Fields} (h : b.memWords = [(k, f)]) : b.byLsid = [(k, f)] := by
  have key : ∀ n, n < 32 → (List.range 32).flatMap (fun i => if n = i then [(k, f)] else []) = [(k, f)] := by
    intro n hn; interval_cases n <;> rfl
  have hl : lsidOf f < 32 := f.a.isLt
  rw [← key _ hl]
  unfold Block.byLsid
  congr 1
  funext i
  by_cases hi : lsidOf f = i <;> simp [h, hi]

/-- Nothing of its own block holds back the one memory instruction. -/
theorem heldBack_single {s : State} {c x : Nat} {k : Ctx} {b : Block} {n : Nat} {f : Fields} {op : MemOp}
    (h : b.memWords = [(n, f)]) : s.heldBack c x k b n f op = false := by
  simp [State.heldBack, h]

/-- The only memory instruction of a block is issued as it fires (R183, R184). -/
theorem fireMem_alone {s : State} {p : Pred} {h : Here} {i : Instr} {l : BitVec 5} {op : MemOp} {f : Fields} {td ta : Bool}
    (e : FiresAt s p h) (m : MemAlone h i l) (hf : encodeFields i = some f) (hl : f.a = l) (ho : memOpOf i = some op)
    (hA : ta = true → h.a.isSome = true) (hB : td = true → h.b.isSome = true) :
    fireMem p l td ta i s = .next ((firedState s h i).issueMem h.c h.x h.k f op).acted := by
  obtain ⟨f', hf', hm, hw, hn, hi, hs⟩ := m
  obtain rfl : f' = f := by rw [hf] at hf'; cases hf'; rfl
  have hfa := e.2
  simp only [mayFire, Bool.and_eq_true, List.isEmpty_iff] at hfa
  unfold fireMem
  apply fireWith_some e
  rw [if_neg (by
    simp only [Bool.or_eq_true, Bool.and_eq_true, Option.isNone_iff_eq_none]
    rintro (⟨h1, h2⟩ | ⟨h1, h2⟩)
    · have := hA h1; rw [h2] at this; cases this
    · have := hB h1; rw [h2] at this; cases this), if_neg (by simp [hn])]
  congr 1
  change (firedState s h i).settle h.c h.x = _
  unfold State.settle
  simp only [firedState_ctx]
  have h1 : (h.blk.fireAs h.k i).memWords = [(h.k, f')] := by rw [memWords_congr (b := h.blk) (by rfl), hm]
  have h2 : (h.blk.fireAs h.k i).faults.isEmpty = true := by
    rw [show (h.blk.fireAs h.k i).faults = h.blk.faults from rfl, hfa.1.2]; rfl
  have hl' : lsidOf f' = l.toNat := by rw [lsidOf, hl]
  have h3 : (h.blk.fireAs h.k i).mayIssue h.k f' = true := by
    unfold Block.mayIssue
    rw [waitOver_congr (b := h.blk) (by rfl) (by rfl) (by rfl) (by rfl) (by
      intro k f hk hq
      have : k ≠ h.k := by
        rintro rfl
        obtain ⟨g1, g2⟩ := memWords_fields (b := h.blk) (e := (h.k, f')) (by rw [hm]; exact List.mem_singleton.2 rfl)
        rw [g1] at hk
        cases hk
        rw [mem_not_waiting g2] at hq
        cases hq
      simp [Block.fireAs, this]), hw, hl']
    simp only [Block.fireAs, hn]
    simp only [Bool.and_eq_true, List.all_eq_true, List.mem_range]
    refine ⟨⟨⟨⟨?_, ?_⟩, ?_⟩, ?_⟩, ?_⟩
    · simp
    · simpa using hi
    · simp
    · intro j hj; simp [hs j hj]
    · simp
  have h4 : ((h.blk.fireAs h.k i).ops.look h.k).bind memOpOf = some op := by simp [Block.fireAs, ho]
  have h5 : (firedState s h i).settleOne h.c h.x (h.k, f') = (firedState s h i).issueMem h.c h.x h.k f' op := by
    unfold State.settleOne
    simp only [firedState_ctx, Option.bind_some, Option.map_some, h4, h3, heldBack_single h1, Bool.not_false, Bool.and_self,
      if_true]
  simp only [h2, byLsid_single h1, List.foldl_cons, List.foldl_nil, h5, if_true]

/-- Are two accesses one but for their place, their fault and their grant? -/
abbrev Access.like (a b : Access) : Prop :=
  { a with place := b.place, tail := b.tail, fault := b.fault, granted := b.granted } = b

/-- A context is not touched by a change of its core that keeps the core's contexts. -/
theorem ctx?_updCore_keep (s : State) (d : Nat) (f : Core → Core) (hf : ∀ q, (f q).ctxs = q.ctxs) (c x : Nat) :
    (s.updCore d f).ctx? c x = s.ctx? c x := by
  simp only [State.ctx?, State.updCore, State.setCore, State.core]
  by_cases h : c = d
  · subst h; simp [hf]
  · rw [SMap.lookD_put_other _ _ _ h]

/-- The end of a translation writes the place or the fault of its access alone. -/
theorem put_like (a : Access) (e : Except Nat (Nat × Attr)) : (a.put e).like a := by
  unfold Access.put Access.like
  split
  · rfl
  · split <;> rfl

/-- What a TLB look-up leaves as it was: everything of the access but its place and its fault, and all of the machine
but the order of the TLB's entries. -/
theorem lookUp_keeps (n : Nat) : ∀ (s : State) (a : Access),
    (s.lookUp n a).1.accesses = s.accesses ∧ (s.lookUp n a).1.mem = s.mem ∧ (s.lookUp n a).1.gran = s.gran ∧
      (∀ c x, (s.lookUp n a).1.ctx? c x = s.ctx? c x) ∧ (s.lookUp n a).2.like a := by
  induction n with
  | zero => intro s a; exact ⟨rfl, rfl, rfl, fun _ _ => rfl, rfl⟩
  | succ n ih =>
    intro s a
    unfold State.lookUp
    split
    · exact ⟨rfl, rfl, rfl, fun _ _ => rfl, rfl⟩
    · split
      · exact ⟨rfl, rfl, rfl, fun _ _ => rfl, rfl⟩
      · rename_i l _ _ e _
        obtain ⟨h1, h2, h3, h4, h5⟩ := ih (s.updCore a.client.core fun q => { q with tlb := tlbTouch q.tlb a.alloc l })
          (a.put (placeOf a.kind (e.place l) e.attr e.rd e.wr))
        refine ⟨h1, h2, h3, fun c x => (h4 c x).trans ?_, ?_⟩
        · refine ctx?_updCore_keep s _ _ ?_ c x
          intro q
          rfl
        have hp := put_like a (placeOf a.kind (e.place l) e.attr e.rd e.wr)
        unfold Access.like at *
        rw [← h5] at hp
        exact hp

/-- An access whose address lies in the partition, or is virtual and meets no fault in the TLB, is recorded. -/
theorem issueAccess_goes (s : State) (c x num idx : Nat) (k : Ctx) (a : Access) {addr : Word} (hd : a.addr = addr) (hf : a.fault = none)
    (hz : a.place = none) (h : (∃ off, addrForm addr = .part off) ∨ (∃ va, addrForm addr = .virt va) ∧
      ∀ va e, addrForm addr = .virt va → (s.core a.client.core).tlb.find? (·.hits a.alloc va) = some e →
        ∃ pl, placeOf a.kind (e.place va) e.attr e.rd e.wr = .ok pl) :
    ∃ t b, s.issueAccess c x num idx k a = t ∧ t.accesses = s.accesses ++ [b] ∧ b.like { a with id := s.nextId } ∧
      t.mem = s.mem ∧ t.gran = s.gran ∧ ∀ d y, t.ctx? d y = s.ctx? d y := by
  subst hd
  unfold State.issueAccess
  rcases h with ⟨off, h⟩ | ⟨⟨va, h⟩, hp⟩
  · simp only [h, State.enter]
    obtain ⟨h1, h2, h3, h4, h5⟩ := lookUp_keeps 2 s { a with place := some (k.partPlace c off, .normal), id := s.nextId }
    refine ⟨_, _, rfl, congrArg (· ++ [_]) h1, ?_, h2, h3, h4⟩
    · have := congrArg (fun w : Access => { w with place := a.place, granted := a.granted }) h5
      exact this
  · simp only [h]
    obtain ⟨h1, h2, h3, h4, h5⟩ := lookUp_keeps 1 s { a with id := s.nextId }
    have hn : (s.lookUp 1 { a with id := s.nextId }).2.fault = none := by
      unfold State.lookUp
      split
      · exact hf
      · rename_i l hl
        have hl : l = va := by
          simp only [Access.missing, h, hz] at hl
          split at hl
          · cases hl
          · simpa using hl.symm
        subst hl
        split
        · exact hf
        · rename_i e he
          obtain ⟨pl, hpl⟩ := hp l e h he
          change (Access.put _ (placeOf a.kind (e.place l) e.attr e.rd e.wr)).fault = none
          rw [hpl]
          simp [Access.put, hz, hf]
    rw [hn]
    exact ⟨_, _, rfl, congrArg (· ++ [_]) h1, h5, h2, h3, h4⟩

/-- An issued access that passes the checks made before its home is recorded, and changes nothing else (R218, R416). -/
theorem issueMem_goes {s : State} {h : Here} {i : Instr} {f : Fields} {op : MemOp} {addr : Word} (hk : op.kind ≠ .fence)
    (ha : h.blk.slotA.lookD h.k 0 + imm64 op.imm = addr) (g : MemGoes s h op.kind op.size addr) :
    ∃ t a, (firedState s h i).issueMem h.c h.x h.k f op = t ∧ t.accesses = s.accesses ++ [a] ∧ a.id = s.nextId ∧
      a.kind = op.kind ∧ a.addr = addr ∧ a.size = op.size ∧
      a.data = (if op.kind = .load then [] else if op.kind = .store then (leBytes (h.blk.slotB.lookD h.k 0).toNat 8).take op.size
        else leBytes (h.blk.slotB.lookD h.k 0).toNat 8) ∧
      a.acq = op.acq ∧ a.rel = op.rel ∧ a.scope = op.scope ∧ a.order = lsidOf f ∧ 
      a.client = .body h.c h.x h.blk.num h.k ∧ t.mem = s.mem ∧ t.gran = s.gran ∧
      ∃ q, t.ctx? h.c h.x = some q ∧ q.regs = h.ctx.regs := by
  unfold State.issueMem
  simp only [firedState_ctx, hk, if_false]
  have hup : (firedState s h i).updBlock h.c h.x (fun b => { b with issued := h.k :: b.issued }) = 
    s.setCtx h.c h.x { h.ctx with block := some { h.blk.fireAs h.k i with issued := h.k :: h.blk.issued } } := by
    simp [State.updBlock, State.updCtx, firedState_ctx]
    simp [firedState, setCtx_setCtx]
    rfl
  rw [hup]
  generalize hq : ({ h.ctx with block := some { h.blk.fireAs h.k i with issued := h.k :: h.blk.issued } } : Ctx) = q
  have hr : q.regs = h.ctx.regs := by rw [← hq]
  have ht : ((s.setCtx h.c h.x q).core h.c).tlb = (s.core h.c).tlb := by
    simp [State.setCtx, State.updCore, State.setCore, State.core]
  have hform := g.1
  have hA : (∃ off, addrForm addr = .part off) ∨ (∃ va, addrForm addr = .virt va) := by
    cases hfm : addrForm addr with
    | reserved => simp [Ctx.checkAddr, hfm] at hform
    | buf b o => simp [Ctx.checkAddr, hfm] at hform
    | part off => exact .inl ⟨_, rfl⟩
    | virt va => exact .inr ⟨_, rfl⟩
  generalize hB : State.bodyAccess _ _ _ _ _ _ _ op = B
  have ba : B.addr = addr := by
    rw [← hB, ← ha]
    unfold State.bodyAccess
    simp only [hk, if_false]
    rfl
  rw [ba]
  have hck : Ctx.checkAddr { h.ctx with block := some (h.blk.fireAs h.k i) } {} addr op.size op.size = none := g.1
  simp only [hck]
  obtain ⟨t, b, e1, e2, e3, e4, e5, e6⟩ := issueAccess_goes (s.setCtx h.c h.x q) h.c h.x h.blk.num h.k
    { h.ctx with block := some (h.blk.fireAs h.k i) } B ba (by rw [← hB]; rfl) (by rw [← hB]; rfl)
    (hA.imp_right fun hv => ⟨hv, fun va e h1 h2 => by
      have hc : B.client.core = h.c := by rw [← hB]; rfl
      have hl : B.alloc = h.ctx.alloc := by rw [← hB]; rfl
      have hn : B.kind = op.kind := by rw [← hB]; rfl
      rw [hc, hl, ht] at h2
      rw [hn]
      exact g.2 va e h1 h2⟩)
  have e7 : ∀ w : Access, b.like w → b.id = w.id ∧ b.client = w.client ∧ b.kind = w.kind ∧ b.addr = w.addr ∧ b.size = w.size ∧
      b.data = w.data ∧ b.acq = w.acq ∧ b.rel = w.rel ∧ b.scope = w.scope ∧ b.order = w.order :=
    fun w hw => by rw [← hw]; exact ⟨rfl, rfl, rfl, rfl, rfl, rfl, rfl, rfl, rfl, rfl⟩
  obtain ⟨f1, f2, f3, f4, f5, f6, f7, f8, f9, f10⟩ := e7 _ e3
  refine ⟨t, b, e1, e2, f1, ?_, f4.trans ba, ?_, f6.trans ?_, ?_, ?_, ?_, ?_, ?_, e4, e5, q, ?_, hr⟩
  · rw [f3, ← hB]; rfl
  · rw [f5, ← hB]; rfl
  · rw [← hB]
    unfold State.bodyAccess
    by_cases hl : op.kind = .load <;> simp [hl, hk]
    rfl
  · rw [f7, ← hB]; rfl
  · rw [f8, ← hB]; rfl
  · rw [f9, ← hB]; rfl
  · rw [f10, ← hB]; rfl
  · rw [f2, ← hB]; rfl
  · rw [e6, ctx?_setCtx_same]

end Sys2Proof.Machine
end

