-- ==== Sys2Proof/Laws/Memory.lean ====
section
/-! SUPPORT. Byte memory: a read after a write, and the canonical form that every write keeps. -/

namespace Sys2Proof

/-- Every listed address is at least a. -/
def Memory.above (a : Nat) : List Host.Cell → Bool
  | [] => true
  | (b, _) :: _ => a ≤ b

theorem Memory.read_write_same (m : List Host.Cell) (a : Nat) (v : Byte) (h : Memory.wf m = true) :
    Memory.read (Memory.write m a v) a = v := by
  induction m with
  | nil =>
    simp only [Memory.write]
    split
    · rename_i hv; simp [Memory.read, hv]
    · simp [Memory.read]
  | cons e m ih =>
    obtain ⟨b, w⟩ := e
    have hm : Memory.wf m = true := by
      cases m with
      | nil => rfl
      | cons f m => simp [Memory.wf] at h; exact h.2
    have low : ∀ c, c ≤ b → Memory.read m c = 0 := by
      intro c hc
      clear ih hm
      induction m generalizing b w with
      | nil => rfl
      | cons f m ih2 =>
        obtain ⟨d, x⟩ := f
        simp [Memory.wf] at h
        have hd : d ≠ c := by omega
        simp only [Memory.read, hd, if_false]
        exact ih2 d x h.2 (by omega)
    simp only [Memory.write]
    split
    · rename_i hab
      split
      · rename_i hv
        have : b ≠ a := by omega
        simp [Memory.read, this, hv, low a (by omega)]
      · simp [Memory.read]
    · split
      · rename_i hab
        split
        · rename_i hv
          rw [hv]; exact low a (by omega)
        · simp [Memory.read]
      · rename_i hab
        simp [Memory.read, Ne.symm hab, ih hm]

theorem Memory.read_write_other (m : List Host.Cell) {a c : Nat} (v : Byte) (h : c ≠ a) :
    Memory.read (Memory.write m a v) c = Memory.read m c := by
  induction m with
  | nil =>
    simp only [Memory.write]
    split
    · rfl
    · simp [Memory.read, Ne.symm h]
  | cons e m ih =>
    obtain ⟨b, w⟩ := e
    simp only [Memory.write]
    split
    · split
      · rfl
      · simp [Memory.read, Ne.symm h]
    · split
      · rename_i hab
        subst hab
        split
        · simp [Memory.read, Ne.symm h]
        · simp [Memory.read, Ne.symm h]
      · simp [Memory.read, ih]

theorem Memory.wf_tail {e : Host.Cell} {m : List Host.Cell} (h : Memory.wf (e :: m) = true) : Memory.wf m = true := by
  obtain ⟨b, w⟩ := e
  cases m with
  | nil => rfl
  | cons f m => simp [Memory.wf] at h; exact h.2

theorem Memory.above_write {m : List Host.Cell} {a b : Nat} (v : Byte) (ha : b ≤ a) (hm : Memory.above b m = true)
    (h : Memory.wf m = true) : Memory.above b (Memory.write m a v) = true := by
  cases m with
  | nil =>
    simp only [Memory.write]
    split
    · rfl
    · simpa [Memory.above] using ha
  | cons e m =>
    obtain ⟨c, w⟩ := e
    simp only [Memory.above, decide_eq_true_eq] at hm
    simp only [Memory.write]
    split
    · split
      · simpa [Memory.above] using hm
      · simpa [Memory.above] using ha
    · split
      · split
        · cases m with
          | nil => rfl
          | cons f m =>
            simp [Memory.wf] at h
            simp [Memory.above]; omega
        · simpa [Memory.above] using ha
      · simpa [Memory.above] using hm

theorem Memory.wf_cons {b : Nat} {w : Byte} {m : List Host.Cell} (hw : w ≠ 0) (hm : Memory.above (b + 1) m = true)
    (h : Memory.wf m = true) : Memory.wf ((b, w) :: m) = true := by
  cases m with
  | nil => simpa [Memory.wf] using hw
  | cons f m =>
    obtain ⟨c, x⟩ := f
    simp only [Memory.above, decide_eq_true_eq] at hm
    simp only [Memory.wf, h, Bool.and_true, Bool.and_eq_true, bne_iff_ne, decide_eq_true_eq]
    exact ⟨hw, by omega⟩

theorem Memory.wf_head {b : Nat} {w : Byte} {m : List Host.Cell} (h : Memory.wf ((b, w) :: m) = true) :
    w ≠ 0 ∧ Memory.above (b + 1) m = true := by
  cases m with
  | nil => simp [Memory.wf] at h; exact ⟨h, rfl⟩
  | cons f m =>
    obtain ⟨c, x⟩ := f
    simp [Memory.wf] at h
    exact ⟨h.1.1, by simp [Memory.above]; omega⟩

/-- One byte written keeps the canonical form. -/
theorem Memory.wf_write {m : List Host.Cell} (a : Nat) (v : Byte) (h : Memory.wf m = true) :
    Memory.wf (Memory.write m a v) = true := by
  induction m with
  | nil =>
    simp only [Memory.write]
    split
    · rfl
    · rename_i hv; simpa [Memory.wf] using hv
  | cons e m ih =>
    obtain ⟨b, w⟩ := e
    have hh := Memory.wf_head h
    have hm := Memory.wf_tail h
    simp only [Memory.write]
    split
    · rename_i hab
      split
      · exact h
      · rename_i hv
        exact Memory.wf_cons hv (by simp [Memory.above]; omega) h
    · split
      · rename_i hab
        subst hab
        split
        · exact hm
        · rename_i hv; exact Memory.wf_cons hv hh.2 hm
      · rename_i h1 h2
        exact Memory.wf_cons hh.1 (Memory.above_write v (by omega) hh.2 hm) (ih hm)

theorem Memory.wf_writeN {m : List Host.Cell} (a : Nat) (vs : List Byte) (h : Memory.wf m = true) :
    Memory.wf (Memory.writeN m a vs) = true := by
  induction vs generalizing m a with
  | nil => exact h
  | cons v vs ih => exact ih (a + 1) (Memory.wf_write a v h)

theorem Memory.wf_writeMasked {m : List Host.Cell} (a : Nat) (vs : List Byte) (ks : List Bool)
    (h : Memory.wf m = true) : Memory.wf (Memory.writeMasked m a vs ks) = true := by
  induction vs generalizing m a ks with
  | nil => exact h
  | cons v vs ih =>
    cases ks with
    | nil => exact h
    | cons k ks =>
      simp only [Memory.writeMasked]
      split
      · exact ih (a + 1) ks (Memory.wf_write a v h)
      · exact ih (a + 1) ks h

/-- Bytes outside the written range read as before. -/
theorem Memory.read_writeN_other (m : List Host.Cell) (a c : Nat) (vs : List Byte) (h : c < a ∨ a + vs.length ≤ c) :
    Memory.read (Memory.writeN m a vs) c = Memory.read m c := by
  induction vs generalizing m a with
  | nil => rfl
  | cons v vs ih =>
    simp only [List.length_cons] at h
    simp only [Memory.writeN]
    rw [ih _ _ (by omega), Memory.read_write_other m v (by omega)]

/-- Bytes of the written range read as written. -/
theorem Memory.read_writeN_same (m : List Host.Cell) (a i : Nat) (vs : List Byte) (h : Memory.wf m = true)
    (hi : i < vs.length) : Memory.read (Memory.writeN m a vs) (a + i) = vs.getD i 0 := by
  induction vs generalizing m a i with
  | nil => simp at hi
  | cons v vs ih =>
    simp only [Memory.writeN]
    cases i with
    | zero =>
      rw [Memory.read_writeN_other _ _ _ _ (by omega)]
      simp [Memory.read_write_same m a v h]
    | succ i =>
      have := ih (Memory.write m a v) (a + 1) i (Memory.wf_write a v h) (by simpa using hi)
      rw [show a + (i + 1) = a + 1 + i by omega, this]
      simp

/-- What has been written to consecutive addresses is read back there. -/
theorem Memory.readN_writeN (m : List Host.Cell) (a : Nat) (vs : List Byte) (h : Memory.wf m = true) :
    Memory.readN (Memory.writeN m a vs) a vs.length = vs := by
  induction vs generalizing m a with
  | nil => rfl
  | cons v vs ih =>
    simp only [Memory.writeN, List.length_cons, Memory.readN]
    rw [ih _ _ (Memory.wf_write a v h), Memory.read_writeN_other _ _ _ _ (.inl (by omega)), Memory.read_write_same m a v h]

theorem Memory.readN_length (m : List Host.Cell) (a n : Nat) : (Memory.readN m a n).length = n := by
  induction n generalizing a with
  | zero => rfl
  | succ n ih => simp [Memory.readN, ih]

end Sys2Proof
end

