-- ==== Sys2Proof/Laws/Lines.lean ====
section
/-! SUPPORT. Reads and writes of homes by lines (R128, R129, R398): what a read of lines that are the reader's own gives, and
what a write changes. -/

namespace Sys2Proof.Machine

/-- A line lies in one home. -/
theorem homeOf_line (a : Nat) : homeOf (a / 64 * 64) = homeOf a := by
  have h : ∀ b : Nat, 64 ∣ b → ((a / 64 * 64 < b) = (a < b)) := by
    intro b hb; apply propext; omega
  have d : a / 64 * 64 / 0x4_0000_0000 = a / 0x4_0000_0000 := by omega
  have s : (a / 64 * 64 - stagingBase) / 0x80_0000 = (a - stagingBase) / 0x80_0000 := by simp only [stagingBase]; omega
  have l : (a / 64 * 64 - localBase) / 0x20_0000 = (a - localBase) / 0x20_0000 := by simp only [localBase]; omega
  have m1 : ((a / 64 * 64 - localBase) % 0x20_0000 < 0x10_0000) = ((a - localBase) % 0x20_0000 < 0x10_0000) := by
    apply propext; simp only [localBase]; omega
  have m2 : ((a / 64 * 64 - localBase) % 0x20_0000 < 0x11_0000) = ((a - localBase) % 0x20_0000 < 0x11_0000) := by
    apply propext; simp only [localBase]; omega
  unfold homeOf
  simp only [h dramEnd (by decide), h stagingEnd (by decide), h portBase (by decide), h portEnd (by decide),
    h regsBase (by decide), h regsEnd (by decide), h localBase (by decide), d, s, l, m1, m2]

/-- So a line is tagged or not as a whole. -/
theorem taggedAt_line (a : Nat) : taggedAt (a / 64 * 64) = taggedAt a := by
  unfold taggedAt; rw [homeOf_line]

/-- The lines of a range are those of its bytes. -/
theorem mem_linesOf {a n l : Nat} : l ∈ linesOf a n ↔ ∃ i, i < n ∧ l = (a + i) / 64 := by
  unfold linesOf
  split
  · rename_i h; simp [h]
  · rename_i h
    rw [List.mem_range'_1]
    constructor
    · rintro ⟨h1, h2⟩
      by_cases hl : l = a / 64
      · exact ⟨0, by omega, by simpa using hl⟩
      · exact ⟨l * 64 - a, by omega, by omega⟩
    · rintro ⟨i, hi, rfl⟩
      constructor
      · exact Nat.div_le_div_right (by omega)
      · have : (a + i) / 64 ≤ (a + n - 1) / 64 := Nat.div_le_div_right (by omega)
        have : a / 64 ≤ (a + i) / 64 := Nat.div_le_div_right (by omega)
        omega

theorem checkLines_clean {s : State} {r : FaultRec} {ls : List Nat} (h : ∀ l, l ∈ ls → (s.granule l).bad = false) :
    s.checkLines r ls = (s, false) := by
  induction ls with
  | nil => rfl
  | cons l ls ih =>
    have h1 : s.checkLine l r = (s, false) := by simp [State.checkLine, h l (by simp)]
    simp [State.checkLines, h1, ih (fun l hl => h l (by simp [hl]))]

theorem ownBytes_own {s : State} {g : BitVec 12} {a n : Nat}
    (h : ∀ l, l ∈ linesOf a n → (taggedAt (l * 64) = true → (s.granule l).tag = g)) :
    s.ownBytes g a n = Memory.readN s.mem a n := by
  induction n generalizing a with
  | zero => rfl
  | succ n ih =>
    simp only [State.ownBytes, Memory.readN]
    have h0 := h (a / 64) (mem_linesOf.2 ⟨0, by omega, by simp⟩)
    rw [taggedAt_line] at h0
    congr 1
    · cases ht : taggedAt a with
      | false => simp
      | true => simp [h0 ht]
    · apply ih
      intro l hl
      obtain ⟨i, hi, rfl⟩ := mem_linesOf.1 hl
      exact h _ (mem_linesOf.2 ⟨i + 1, by omega, by rw [show a + 1 + i = a + (i + 1) by omega]⟩)

/-- A read of lines of one's own, without poison or error, yields their bytes and changes nothing (R129, R398). -/
theorem readAs_own {s : State} {g : BitVec 12} {a n : Nat} (strict : Bool) (r : FaultRec) (h : OwnLines s g a n) :
    s.readAs g strict a n r = { st := s, bytes := Memory.readN s.mem a n } := by
  have h1 := checkLines_clean (s := s) (r := r) (ls := linesOf a n) (fun l hl => (h l hl).1)
  have h2 := ownBytes_own (s := s) (g := g) (a := a) (n := n) (fun l hl => (h l hl).2.2)
  unfold State.readAs
  simp only [h1, h2]
  congr 1
  · have : (linesOf a n).any (fun l => !(!taggedAt (l * 64) || (s.granule l).tag == g)) = false := by
      rw [List.any_eq_false]
      intro l hl
      have := (h l hl).2.2
      cases ht : taggedAt (l * 64)
      · simp
      · simp [this ht]
    rw [this, Bool.and_false]
  · rw [List.any_eq_false]
    intro l hl
    simp [(h l hl).2.1]

/-! ## Writes -/

/-- Stamping a line changes bytes of that line only, and only when it carried another generation: then they are zero
(R128). -/
theorem stampLine_read {s : State} (g : BitVec 12) (a n l y : Nat) (h : MemOk s) :
    Memory.read (s.stampLine g a n l).mem y =
      if y / 64 = l ∧ taggedAt y = true ∧ (s.granule l).tag ≠ g then 0 else Memory.read s.mem y := by
  unfold State.stampLine
  have ht : y / 64 = l → taggedAt (l * 64) = taggedAt y := by rintro rfl; exact taggedAt_line y
  by_cases hf : (taggedAt (l * 64) && (s.granule l).tag != g) = true
  · simp only [hf, if_true, State.setGranule_mem]
    simp only [Bool.and_eq_true, bne_iff_ne] at hf
    by_cases hy : y / 64 = l
    · rw [if_pos ⟨hy, by rw [← ht hy]; exact hf.1, hf.2⟩]
      have := Memory.read_writeN_same s.mem (l * 64) (y - l * 64) (List.replicate 64 0) h (by simp; omega)
      rw [show l * 64 + (y - l * 64) = y by omega] at this
      rw [this, List.getD_eq_getElem?_getD, List.getElem?_replicate]
      split <;> rfl
    · rw [if_neg (by simp [hy]), Memory.read_writeN_other _ _ _ _ (by simp; omega)]
  · simp only [hf, Bool.false_eq_true, if_false, State.setGranule_mem]
    rw [if_neg]
    rintro ⟨h1, h2, h3⟩
    apply hf
    simp [ht h1, h2, h3]

theorem stampLine_ok {s : State} (g : BitVec 12) (a n l : Nat) (h : MemOk s) : MemOk (s.stampLine g a n l) := by
  have : (s.stampLine g a n l).mem = if taggedAt (l * 64) && (s.granule l).tag != g
      then Memory.writeN s.mem (l * 64) (List.replicate 64 0) else s.mem := by
    unfold State.stampLine
    simp only [State.setGranule_mem]
    generalize List.replicate 64 _ = zs
    by_cases hf : (taggedAt (l * 64) && (s.granule l).tag != g) = true
    · rw [if_pos hf, if_pos hf]
    · rw [if_neg hf, if_neg hf]
  unfold MemOk
  rw [this]
  generalize List.replicate 64 _ = zs
  split
  · exact Memory.wf_writeN _ zs h
  · exact h

theorem stampLine_granule_other {s : State} (g : BitVec 12) (a n : Nat) {l m : Nat} (h : m ≠ l) :
    (s.stampLine g a n l).granule m = s.granule m := by
  unfold State.stampLine State.granule State.setGranule
  simp only
  rw [SMap.lookD_put_other _ _ _ h]
  split <;> rfl

theorem stampLine_granule_tag {s : State} (g : BitVec 12) (a n l : Nat) :
    ((s.stampLine g a n l).granule l).tag = if taggedAt (l * 64) then g else (s.granule l).tag := by
  unfold State.stampLine State.granule State.setGranule
  simp

theorem stampLines_read (g : BitVec 12) (a n y : Nat) (ls : List Nat) (hn : ls.Nodup) {s : State} (h : MemOk s) :
    Memory.read (ls.foldl (fun s l => s.stampLine g a n l) s).mem y =
      if y / 64 ∈ ls ∧ taggedAt y = true ∧ (s.granule (y / 64)).tag ≠ g then 0 else Memory.read s.mem y := by
  induction ls generalizing s with
  | nil => simp
  | cons l ls ih =>
    simp only [List.nodup_cons] at hn
    rw [List.foldl_cons, ih hn.2 (stampLine_ok g a n l h), stampLine_read g a n l y h]
    by_cases hy : y / 64 = l
    · subst hy
      simp [hn.1]
    · simp only [stampLine_granule_other g a n hy, List.mem_cons, hy, false_or, false_and, if_false]

theorem stampLines_ok (g : BitVec 12) (a n : Nat) (ls : List Nat) {s : State} (h : MemOk s) :
    MemOk (ls.foldl (fun s l => s.stampLine g a n l) s) := by
  induction ls generalizing s with
  | nil => exact h
  | cons l ls ih => exact ih (stampLine_ok g a n l h)

theorem linesOf_nodup (a n : Nat) : (linesOf a n).Nodup := by
  unfold linesOf
  split
  · exact List.nodup_nil
  · exact List.nodup_range'

/-- A write keeps memory in its canonical form. -/
theorem writeAs_ok {s : State} (g : BitVec 12) (a : Nat) (bs : List Byte) (h : MemOk s) : MemOk (s.writeAs g a bs) :=
  Memory.wf_writeN _ _ (stampLines_ok g a _ _ h)

/-- What a write leaves in each byte: its own bytes where it writes, zero in the rest of a granule that carried another
generation, and every other byte as it was (R128). -/
theorem writeAs_read {s : State} (g : BitVec 12) (a : Nat) (bs : List Byte) (y : Nat) (h : MemOk s) :
    Memory.read (s.writeAs g a bs).mem y =
      if a ≤ y ∧ y < a + bs.length then bs.getD (y - a) 0
      else if y / 64 ∈ linesOf a bs.length ∧ taggedAt y = true ∧ (s.granule (y / 64)).tag ≠ g then 0
      else Memory.read s.mem y := by
  unfold State.writeAs
  simp only
  have hs := stampLines_ok g a bs.length (linesOf a bs.length) h
  split
  · rename_i hy
    have := Memory.read_writeN_same _ a (y - a) bs hs (by omega)
    rw [show a + (y - a) = y by omega] at this
    exact this
  · rw [Memory.read_writeN_other _ _ _ _ (by omega), stampLines_read g a _ y _ (linesOf_nodup _ _) h]

/-- A write that keeps tags leaves its own bytes, and every other byte as it was. -/
theorem writeRaw_ok {s : State} (a : Nat) (bs : List Byte) (h : MemOk s) : MemOk (s.writeRaw a bs) := by
  have : ∀ (ls : List Nat) (s : State), (ls.foldl (fun s l =>
      if coversLine a bs.length l then
        s.setGranule l { s.granule l with poison := false, bad := false, reported := false } else s) s).mem = s.mem := by
    intro ls
    induction ls with
    | nil => intro s; rfl
    | cons l ls ih => intro s; rw [List.foldl_cons, ih]; split <;> rfl
  unfold State.writeRaw MemOk
  simp only [this]
  exact Memory.wf_writeN _ _ h

theorem writeRaw_mem (s : State) (a : Nat) (bs : List Byte) : (s.writeRaw a bs).mem = Memory.writeN s.mem a bs := by
  have : ∀ (ls : List Nat) (s : State), (ls.foldl (fun s l =>
      if coversLine a bs.length l then
        s.setGranule l { s.granule l with poison := false, bad := false, reported := false } else s) s).mem = s.mem := by
    intro ls
    induction ls with
    | nil => intro s; rfl
    | cons l ls ih => intro s; rw [List.foldl_cons, ih]; split <;> rfl
  unfold State.writeRaw
  simp only [this]

theorem writeRaw_read {s : State} (a : Nat) (bs : List Byte) (y : Nat) (h : MemOk s) :
    Memory.read (s.writeRaw a bs).mem y =
      if a ≤ y ∧ y < a + bs.length then bs.getD (y - a) 0 else Memory.read s.mem y := by
  rw [writeRaw_mem]
  split
  · rename_i hy
    have := Memory.read_writeN_same s.mem a (y - a) bs h (by omega)
    rw [show a + (y - a) = y by omega] at this
    exact this
  · rw [Memory.read_writeN_other _ _ _ _ (by omega)]

/-! ## Writes change memory and its tags only -/

theorem stampLine_only (s : State) (g : BitVec 12) (a n l : Nat) :
    ∃ m r, s.stampLine g a n l = { s with mem := m, gran := r } := by
  unfold State.stampLine
  simp only
  split
  · exact ⟨_, _, rfl⟩
  · exact ⟨_, _, rfl⟩

theorem writeAs_only (s : State) (g : BitVec 12) (a : Nat) (bs : List Byte) :
    ∃ m r, s.writeAs g a bs = { s with mem := m, gran := r } := by
  have : ∀ (ls : List Nat) (s : State), ∃ m r,
      ls.foldl (fun s l => s.stampLine g a bs.length l) s = { s with mem := m, gran := r } := by
    intro ls
    induction ls with
    | nil => intro s; exact ⟨_, _, rfl⟩
    | cons l ls ih =>
      intro s
      obtain ⟨m, r, e⟩ := stampLine_only s g a bs.length l
      obtain ⟨m', r', e'⟩ := ih (s.stampLine g a bs.length l)
      exact ⟨m', r', by rw [List.foldl_cons, e', e]⟩
  obtain ⟨m, r, e⟩ := this (linesOf a bs.length) s
  exact ⟨_, r, by unfold State.writeAs; rw [e]⟩

theorem writeRaw_only (s : State) (a : Nat) (bs : List Byte) :
    ∃ m r, s.writeRaw a bs = { s with mem := m, gran := r } := by
  have : ∀ (ls : List Nat) (s : State), ∃ m r, ls.foldl (fun s l =>
      if coversLine a bs.length l then
        s.setGranule l { s.granule l with poison := false, bad := false, reported := false } else s) s =
        { s with mem := m, gran := r } := by
    intro ls
    induction ls with
    | nil => intro s; exact ⟨_, _, rfl⟩
    | cons l ls ih =>
      intro s
      rw [List.foldl_cons]
      split
      · obtain ⟨m', r', e'⟩ := ih (s.setGranule l { s.granule l with poison := false, bad := false, reported := false })
        exact ⟨m', r', by rw [e']; rfl⟩
      · exact ih s
  obtain ⟨m, r, e⟩ := this (linesOf a bs.length) s
  exact ⟨_, r, by unfold State.writeRaw; rw [e]⟩

/-- What a write does to memory and tags depends on them alone. -/
theorem writeAs_congr {s t : State} (hm : t.mem = s.mem) (hg : t.gran = s.gran) (g : BitVec 12) (a : Nat) (bs : List Byte) :
    (t.writeAs g a bs).mem = (s.writeAs g a bs).mem ∧ (t.writeAs g a bs).gran = (s.writeAs g a bs).gran := by
  have one : ∀ (l : Nat) {s t : State}, t.mem = s.mem → t.gran = s.gran →
      (t.stampLine g a bs.length l).mem = (s.stampLine g a bs.length l).mem ∧
      (t.stampLine g a bs.length l).gran = (s.stampLine g a bs.length l).gran := by
    intro l s t hm hg
    have h : t.granule l = s.granule l := by unfold State.granule; rw [hg]
    unfold State.stampLine State.setGranule
    simp only [h, hm]
    split <;> simp [hm, hg]
  have all : ∀ (ls : List Nat) {s t : State}, t.mem = s.mem → t.gran = s.gran →
      (ls.foldl (fun s l => s.stampLine g a bs.length l) t).mem = (ls.foldl (fun s l => s.stampLine g a bs.length l) s).mem ∧
      (ls.foldl (fun s l => s.stampLine g a bs.length l) t).gran = (ls.foldl (fun s l => s.stampLine g a bs.length l) s).gran := by
    intro ls
    induction ls with
    | nil => intro s t hm hg; exact ⟨hm, hg⟩
    | cons l ls ih =>
      intro s t hm hg
      obtain ⟨h1, h2⟩ := one l hm hg
      exact ih h1 h2
  obtain ⟨h1, h2⟩ := all (linesOf a bs.length) hm hg
  unfold State.writeAs
  simp only
  rw [h1]
  exact ⟨rfl, h2⟩

/-- The partition place of a context of one of the 160 cores lies in its control-processor memory (R116). -/
theorem homeOf_cpAddr {c o : Nat} (hc : c < 160) (ho : o < 0x1_0000) : homeOf (cpAddr c o) = some (.cpMem c) := by
  have b : dramEnd = 0x10_0000_0000 ∧ stagingEnd = 0x10_0200_0000 ∧ portBase = 0x11_0000_0000 ∧ portEnd = 0x11_0100_0000 ∧
      regsBase = 0x11_0200_0000 ∧ regsEnd = 0x11_0201_0000 ∧ localBase = 0x20_0000_0000 ∧ Config.cores = 160 := by decide
  obtain ⟨b1, b2, b3, b4, b5, b6, b7, b8⟩ := b
  unfold homeOf cpAddr
  rw [b1, b2, b3, b4, b5, b6, b7, b8]
  have h1 : (0x20_0000_0000 + c * 0x20_0000 + 0x10_0000 + o - 0x20_0000_0000) / 0x20_0000 = c := by omega
  have h2 : (0x20_0000_0000 + c * 0x20_0000 + 0x10_0000 + o - 0x20_0000_0000) % 0x20_0000 = 0x10_0000 + o := by omega
  simp only [h1, h2]
  rw [if_neg (by omega), if_neg (by omega), if_neg (by omega), if_neg (by omega), if_neg (by omega), if_neg (by omega),
    if_neg (by omega), if_pos hc, if_neg (by omega), if_pos (by omega)]

/-- So does a byte of the stream buffer in it (R112). -/
theorem homeOf_sbufAddr {c o : Nat} (hc : c < 160) (ho : o < 0x10_0000) : homeOf (sbufAddr c o) = some (.sbuf c) := by
  have b : dramEnd = 0x10_0000_0000 ∧ stagingEnd = 0x10_0200_0000 ∧ portBase = 0x11_0000_0000 ∧ portEnd = 0x11_0100_0000 ∧
      regsBase = 0x11_0200_0000 ∧ regsEnd = 0x11_0201_0000 ∧ localBase = 0x20_0000_0000 ∧ Config.cores = 160 := by decide
  obtain ⟨b1, b2, b3, b4, b5, b6, b7, b8⟩ := b
  unfold homeOf sbufAddr
  rw [b1, b2, b3, b4, b5, b6, b7, b8]
  have h1 : (0x20_0000_0000 + c * 0x20_0000 + o - 0x20_0000_0000) / 0x20_0000 = c := by omega
  have h2 : (0x20_0000_0000 + c * 0x20_0000 + o - 0x20_0000_0000) % 0x20_0000 = o := by omega
  simp only [h1, h2]
  rw [if_neg (by omega), if_neg (by omega), if_neg (by omega), if_neg (by omega), if_neg (by omega), if_neg (by omega),
    if_neg (by omega), if_pos hc, if_pos ho]

/-! ## Homes -/

/-- A home answers a read of lines of one's own with their bytes (R118, R129, R398). -/
theorem homeRead_own {s : State} {g : BitVec 12} {a n : Nat} {h : Home} (strict : Bool) {attr : Attr} (r : FaultRec)
    (hh : homeOf a = some h) (hr : h ≠ .regs) (ha : attr ≠ .once) (o : OwnLines s g a n) :
    s.homeRead g strict attr a n r = .ok s (Memory.readN s.mem a n) none := by
  unfold State.homeRead
  rw [hh]
  cases h <;> simp_all [readAs_own strict r o]

/-- A home takes a write to a page that is not ONCE (R128). -/
theorem homeWrite_goes {s : State} {g : BitVec 12} {a : Nat} {h : Home} {attr : Attr} (bs : List Byte)
    (hh : homeOf a = some h) (hr : h ≠ .regs) (ha : attr ≠ .once) :
    s.homeWrite g attr a bs = .ok (s.writeAs g a bs) [] none := by
  unfold State.homeWrite
  rw [hh]
  cases h <;> simp_all

/-- Bytes that lie in one line are one part. -/
theorem lineParts_one {a n : Nat} (fuel : Nat) (h0 : 0 < n) (h : a % 64 + n ≤ 64) :
    lineParts a (fuel + 2) 0 n = [(0, n)] := by
  have e : min n (64 - (a + 0) % 64) = n := by rw [Nat.add_zero]; omega
  simp only [lineParts, e, Nat.sub_self, if_true]
  rw [if_neg (by omega)]

end Sys2Proof.Machine
end

