-- ==== Sys2Proof/Laws/PerInstr.lean ====
section
/-! SUPPORT. Families of laws with one lemma per constructor of Instr. WordFields: the decoder reads back every operand
that the encoder lays into the fields of a word (R176 to R180, R208 to R239). -/

namespace Sys2Proof.Laws.WordFields

-- One proof after another: begun together, the many threads pass the memory limit of a check.
set_option Elab.async false

/-- The decoder gives the instruction whose fields the encoder wrote. -/
def Statement (i : Instr) : Prop :=
  ∀ f, encodeFields i = some f → wellFormed i = true → decodeFields f = .ok i

/-- A step that no word encodes. -/
theorem no_word {i : Instr} (h : encodeFields i = none) : Statement i :=
  fun _ e => by rw [h] at e; cases e

theorem read (p g t0 t1) : Statement (.read p g t0 t1) := by
  intro f h _; cases h
  simp [decodeFields, decodeOp]
theorem write (p g) : Statement (.write p g) := by
  intro f h _; cases h
  simp [decodeFields, decodeOp]
theorem movi (p imm t0) : Statement (.movi p imm t0) := by
  intro f h _; cases h
  simp [decodeFields, decodeOp]
theorem appi (p imm t0) : Statement (.appi p imm t0) := by
  intro f h _; cases h
  simp [decodeFields, decodeOp]
theorem mov (p t0 t1) : Statement (.mov p t0 t1) := by
  intro f h _; cases h
  simp [decodeFields, decodeOp]
theorem sel (t0 t1) : Statement (.sel t0 t1) := by
  intro f h _; cases h
  simp [decodeFields, decodeOp, Pred.ofBits]
theorem nullw (p g) : Statement (.nullw p g) := by
  intro f h _; cases h
  simp [decodeFields, decodeOp]
theorem nulls (p l) : Statement (.nulls p l) := by
  intro f h _; cases h
  simp [decodeFields, decodeOp]
theorem add (p w t0 t1) : Statement (.add p w t0 t1) := by
  intro f h _; cases h
  simp [decodeFields, decodeOp, decodeArith, Fields.wide]
theorem sub (p w t0 t1) : Statement (.sub p w t0 t1) := by
  intro f h _; cases h
  simp [decodeFields, decodeOp, decodeArith, Fields.wide]
theorem mul (p w t0 t1) : Statement (.mul p w t0 t1) := by
  intro f h _; cases h
  simp [decodeFields, decodeOp, decodeArith, Fields.wide]
theorem mulh (p w t0 t1) : Statement (.mulh p w t0 t1) := by
  intro f h _; cases h
  simp [decodeFields, decodeOp, decodeArith, Fields.wide]
theorem mulhu (p w t0 t1) : Statement (.mulhu p w t0 t1) := by
  intro f h _; cases h
  simp [decodeFields, decodeOp, decodeArith, Fields.wide]
theorem div (p w t0 t1) : Statement (.div p w t0 t1) := by
  intro f h _; cases h
  simp [decodeFields, decodeOp, decodeArith, Fields.wide]
theorem divu (p w t0 t1) : Statement (.divu p w t0 t1) := by
  intro f h _; cases h
  simp [decodeFields, decodeOp, decodeArith, Fields.wide]
theorem rem (p w t0 t1) : Statement (.rem p w t0 t1) := by
  intro f h _; cases h
  simp [decodeFields, decodeOp, decodeArith, Fields.wide]
theorem remu (p w t0 t1) : Statement (.remu p w t0 t1) := by
  intro f h _; cases h
  simp [decodeFields, decodeOp, decodeArith, Fields.wide]
theorem min (p w t0 t1) : Statement (.min p w t0 t1) := by
  intro f h _; cases h
  simp [decodeFields, decodeOp, decodeArith, Fields.wide]
theorem max (p w t0 t1) : Statement (.max p w t0 t1) := by
  intro f h _; cases h
  simp [decodeFields, decodeOp, decodeArith, Fields.wide]
theorem minu (p w t0 t1) : Statement (.minu p w t0 t1) := by
  intro f h _; cases h
  simp [decodeFields, decodeOp, decodeArith, Fields.wide]
theorem maxu (p w t0 t1) : Statement (.maxu p w t0 t1) := by
  intro f h _; cases h
  simp [decodeFields, decodeOp, decodeArith, Fields.wide]
theorem and (p w t0 t1) : Statement (.and p w t0 t1) := by
  intro f h _; cases h
  simp [decodeFields, decodeOp, decodeLogic, Fields.wide]
theorem or (p w t0 t1) : Statement (.or p w t0 t1) := by
  intro f h _; cases h
  simp [decodeFields, decodeOp, decodeLogic, Fields.wide]
theorem xor (p w t0 t1) : Statement (.xor p w t0 t1) := by
  intro f h _; cases h
  simp [decodeFields, decodeOp, decodeLogic, Fields.wide]
theorem andn (p w t0 t1) : Statement (.andn p w t0 t1) := by
  intro f h _; cases h
  simp [decodeFields, decodeOp, decodeLogic, Fields.wide]
theorem orn (p w t0 t1) : Statement (.orn p w t0 t1) := by
  intro f h _; cases h
  simp [decodeFields, decodeOp, decodeLogic, Fields.wide]
theorem shl (p w t0 t1) : Statement (.shl p w t0 t1) := by
  intro f h _; cases h
  simp [decodeFields, decodeOp, decodeLogic, Fields.wide]
theorem shr (p w t0 t1) : Statement (.shr p w t0 t1) := by
  intro f h _; cases h
  simp [decodeFields, decodeOp, decodeLogic, Fields.wide]
theorem sra (p w t0 t1) : Statement (.sra p w t0 t1) := by
  intro f h _; cases h
  simp [decodeFields, decodeOp, decodeLogic, Fields.wide]
theorem rol (p w t0 t1) : Statement (.rol p w t0 t1) := by
  intro f h _; cases h
  simp [decodeFields, decodeOp, decodeLogic, Fields.wide]
theorem ror (p w t0 t1) : Statement (.ror p w t0 t1) := by
  intro f h _; cases h
  simp [decodeFields, decodeOp, decodeLogic, Fields.wide]
theorem bfx (p w t0 t1) : Statement (.bfx p w t0 t1) := by
  intro f h _; cases h
  simp [decodeFields, decodeOp, decodeLogic, Fields.wide]
theorem clz (p w t0 t1) : Statement (.clz p w t0 t1) := by
  intro f h _; cases h
  simp [decodeFields, decodeOp, decodeUnary, Fields.wide]
theorem ctz (p w t0 t1) : Statement (.ctz p w t0 t1) := by
  intro f h _; cases h
  simp [decodeFields, decodeOp, decodeUnary, Fields.wide]
theorem popc (p w t0 t1) : Statement (.popc p w t0 t1) := by
  intro f h _; cases h
  simp [decodeFields, decodeOp, decodeUnary, Fields.wide]
theorem brev (p w t0 t1) : Statement (.brev p w t0 t1) := by
  intro f h _; cases h
  simp [decodeFields, decodeOp, decodeUnary, Fields.wide]
theorem bswap (p w t0 t1) : Statement (.bswap p w t0 t1) := by
  intro f h _; cases h
  simp [decodeFields, decodeOp, decodeUnary, Fields.wide]
theorem neg (p w t0 t1) : Statement (.neg p w t0 t1) := by
  intro f h _; cases h
  simp [decodeFields, decodeOp, decodeUnary, Fields.wide]
theorem not (p w t0 t1) : Statement (.not p w t0 t1) := by
  intro f h _; cases h
  simp [decodeFields, decodeOp, decodeUnary, Fields.wide]
theorem sext8 (p w t0 t1) : Statement (.sext8 p w t0 t1) := by
  intro f h _; cases h
  simp [decodeFields, decodeOp, decodeUnary, Fields.wide]
theorem sext16 (p w t0 t1) : Statement (.sext16 p w t0 t1) := by
  intro f h _; cases h
  simp [decodeFields, decodeOp, decodeUnary, Fields.wide]
theorem sext32 (p w t0 t1) : Statement (.sext32 p w t0 t1) := by
  intro f h _; cases h
  simp [decodeFields, decodeOp, decodeUnary, Fields.wide]
theorem zext8 (p w t0 t1) : Statement (.zext8 p w t0 t1) := by
  intro f h _; cases h
  simp [decodeFields, decodeOp, decodeUnary, Fields.wide]
theorem zext16 (p w t0 t1) : Statement (.zext16 p w t0 t1) := by
  intro f h _; cases h
  simp [decodeFields, decodeOp, decodeUnary, Fields.wide]
theorem zext32 (p w t0 t1) : Statement (.zext32 p w t0 t1) := by
  intro f h _; cases h
  simp [decodeFields, decodeOp, decodeUnary, Fields.wide]
theorem addi (p w imm t0) : Statement (.addi p w imm t0) := by
  intro f h _; cases h
  simp [decodeFields, decodeOp, decodeImm, Fields.wide]
theorem andi (p w imm t0) : Statement (.andi p w imm t0) := by
  intro f h _; cases h
  simp [decodeFields, decodeOp, decodeImm, Fields.wide]
theorem ori (p w imm t0) : Statement (.ori p w imm t0) := by
  intro f h _; cases h
  simp [decodeFields, decodeOp, decodeImm, Fields.wide]
theorem xori (p w imm t0) : Statement (.xori p w imm t0) := by
  intro f h _; cases h
  simp [decodeFields, decodeOp, decodeImm, Fields.wide]
theorem shli (p w imm t0) : Statement (.shli p w imm t0) := by
  intro f h _; cases h
  simp [decodeFields, decodeOp, decodeImm, Fields.wide]
theorem shri (p w imm t0) : Statement (.shri p w imm t0) := by
  intro f h _; cases h
  simp [decodeFields, decodeOp, decodeImm, Fields.wide]
theorem srai (p w imm t0) : Statement (.srai p w imm t0) := by
  intro f h _; cases h
  simp [decodeFields, decodeOp, decodeImm, Fields.wide]
theorem muli (p w imm t0) : Statement (.muli p w imm t0) := by
  intro f h _; cases h
  simp [decodeFields, decodeOp, decodeImm, Fields.wide]
theorem teq (p w t0 t1) : Statement (.teq p w t0 t1) := by
  intro f h _; cases h
  simp [decodeFields, decodeOp, decodeTest, Fields.wide]
theorem tne (p w t0 t1) : Statement (.tne p w t0 t1) := by
  intro f h _; cases h
  simp [decodeFields, decodeOp, decodeTest, Fields.wide]
theorem tlt (p w t0 t1) : Statement (.tlt p w t0 t1) := by
  intro f h _; cases h
  simp [decodeFields, decodeOp, decodeTest, Fields.wide]
theorem tle (p w t0 t1) : Statement (.tle p w t0 t1) := by
  intro f h _; cases h
  simp [decodeFields, decodeOp, decodeTest, Fields.wide]
theorem tltu (p w t0 t1) : Statement (.tltu p w t0 t1) := by
  intro f h _; cases h
  simp [decodeFields, decodeOp, decodeTest, Fields.wide]
theorem tleu (p w t0 t1) : Statement (.tleu p w t0 t1) := by
  intro f h _; cases h
  simp [decodeFields, decodeOp, decodeTest, Fields.wide]
theorem teqi (p w imm t0) : Statement (.teqi p w imm t0) := by
  intro f h _; cases h
  simp [decodeFields, decodeOp, decodeTestImm, Fields.wide]
theorem tnei (p w imm t0) : Statement (.tnei p w imm t0) := by
  intro f h _; cases h
  simp [decodeFields, decodeOp, decodeTestImm, Fields.wide]
theorem tlti (p w imm t0) : Statement (.tlti p w imm t0) := by
  intro f h _; cases h
  simp [decodeFields, decodeOp, decodeTestImm, Fields.wide]
theorem tlei (p w imm t0) : Statement (.tlei p w imm t0) := by
  intro f h _; cases h
  simp [decodeFields, decodeOp, decodeTestImm, Fields.wide]
theorem tgti (p w imm t0) : Statement (.tgti p w imm t0) := by
  intro f h _; cases h
  simp [decodeFields, decodeOp, decodeTestImm, Fields.wide]
theorem tgei (p w imm t0) : Statement (.tgei p w imm t0) := by
  intro f h _; cases h
  simp [decodeFields, decodeOp, decodeTestImm, Fields.wide]
theorem tltui (p w imm t0) : Statement (.tltui p w imm t0) := by
  intro f h _; cases h
  simp [decodeFields, decodeOp, decodeTestImm, Fields.wide]
theorem tgtui (p w imm t0) : Statement (.tgtui p w imm t0) := by
  intro f h _; cases h
  simp [decodeFields, decodeOp, decodeTestImm, Fields.wide]
theorem ldb (p l imm t0) : Statement (.ldb p l imm t0) := by
  intro f h _; cases h
  simp [decodeFields, decodeOp]
theorem ldbx (p l imm t0) : Statement (.ldbx p l imm t0) := by
  intro f h _; cases h
  simp [decodeFields, decodeOp]
theorem ldh (p l imm t0) : Statement (.ldh p l imm t0) := by
  intro f h _; cases h
  simp [decodeFields, decodeOp]
theorem ldhx (p l imm t0) : Statement (.ldhx p l imm t0) := by
  intro f h _; cases h
  simp [decodeFields, decodeOp]
theorem ldw (p l imm t0) : Statement (.ldw p l imm t0) := by
  intro f h _; cases h
  simp [decodeFields, decodeOp]
theorem ldwx (p l imm t0) : Statement (.ldwx p l imm t0) := by
  intro f h _; cases h
  simp [decodeFields, decodeOp]
theorem ldd (p l imm t0) : Statement (.ldd p l imm t0) := by
  intro f h _; cases h
  simp [decodeFields, decodeOp]
theorem lda (p l imm t0) : Statement (.lda p l imm t0) := by
  intro f h _; cases h
  simp [decodeFields, decodeOp]
theorem stb (p l imm) : Statement (.stb p l imm) := by
  intro f h _; cases h
  simp [decodeFields, decodeOp]
theorem sth (p l imm) : Statement (.sth p l imm) := by
  intro f h _; cases h
  simp [decodeFields, decodeOp]
theorem stw (p l imm) : Statement (.stw p l imm) := by
  intro f h _; cases h
  simp [decodeFields, decodeOp]
theorem std (p l imm) : Statement (.std p l imm) := by
  intro f h _; cases h
  simp [decodeFields, decodeOp]
theorem stl (p l imm) : Statement (.stl p l imm) := by
  intro f h _; cases h
  simp [decodeFields, decodeOp]
theorem amoadd (p l o sc w t0) : Statement (.amoadd p l o sc w t0) := by
  intro f h _; cases h
  simp [decodeFields, decodeOp, decodeAtomic]
theorem amoswp (p l o sc w t0) : Statement (.amoswp p l o sc w t0) := by
  intro f h _; cases h
  simp [decodeFields, decodeOp, decodeAtomic]
theorem amoand (p l o sc w t0) : Statement (.amoand p l o sc w t0) := by
  intro f h _; cases h
  simp [decodeFields, decodeOp, decodeAtomic]
theorem amoor (p l o sc w t0) : Statement (.amoor p l o sc w t0) := by
  intro f h _; cases h
  simp [decodeFields, decodeOp, decodeAtomic]
theorem amoxor (p l o sc w t0) : Statement (.amoxor p l o sc w t0) := by
  intro f h _; cases h
  simp [decodeFields, decodeOp, decodeAtomic]
theorem amomin (p l o sc w t0) : Statement (.amomin p l o sc w t0) := by
  intro f h _; cases h
  simp [decodeFields, decodeOp, decodeAtomic]
theorem amomax (p l o sc w t0) : Statement (.amomax p l o sc w t0) := by
  intro f h _; cases h
  simp [decodeFields, decodeOp, decodeAtomic]
theorem amominu (p l o sc w t0) : Statement (.amominu p l o sc w t0) := by
  intro f h _; cases h
  simp [decodeFields, decodeOp, decodeAtomic]
theorem amomaxu (p l o sc w t0) : Statement (.amomaxu p l o sc w t0) := by
  intro f h _; cases h
  simp [decodeFields, decodeOp, decodeAtomic]
theorem amocas (p l o sc t0) : Statement (.amocas p l o sc t0) := by
  intro f h _; cases h
  simp [decodeFields, decodeOp, decodeAtomic]
theorem fence (p l sc) : Statement (.fence p l sc) := by
  intro f h _; cases h
  have h0 : (0#6 ++ sc.bits ++ 0#1 : BitVec 9).extractLsb' 0 1 = 0#1 := by cases sc <;> decide
  have h1 : (0#6 ++ sc.bits ++ 0#1 : BitVec 9).extractLsb' 1 2 = sc.bits := by cases sc <;> decide
  have h2 : (0#6 ++ sc.bits ++ 0#1 : BitVec 9).extractLsb' 3 6 = 0#6 := by cases sc <;> decide
  simp [decodeFields, decodeOp, h0, h1, h2]
theorem bri (p e offs) : Statement (.bri p e offs) := by
  intro f h _; cases h
  simp [decodeFields, decodeOp, Fields.exitNo, Fields.offs20]
theorem calli (p e offs) : Statement (.calli p e offs) := by
  intro f h _; cases h
  simp [decodeFields, decodeOp, Fields.exitNo, Fields.offs20]
theorem br (p e) : Statement (.br p e) := by
  intro f h _; cases h
  simp [decodeFields, decodeOp, Fields.exitNo, Fields.offs20]
theorem call (p e) : Statement (.call p e) := by
  intro f h _; cases h
  simp [decodeFields, decodeOp, Fields.exitNo, Fields.offs20]
theorem scall (p e code) : Statement (.scall p e code) := by
  intro f h _; cases h
  simp [decodeFields, decodeOp, Fields.exitNo, Fields.offs20]
theorem trap (p e code) : Statement (.trap p e code) := by
  intro f h _; cases h
  simp [decodeFields, decodeOp, Fields.exitNo, Fields.offs20]
theorem halt (p e) : Statement (.halt p e) := by
  intro f h _; cases h
  simp [decodeFields, decodeOp, Fields.exitNo, Fields.offs20]
theorem eret (p e) : Statement (.eret p e) := by
  intro f h _; cases h
  simp [decodeFields, decodeOp, Fields.exitNo, Fields.offs20]
theorem csrr (p n t0) : Statement (.csrr p n t0) := by
  intro f h wf; cases h
  simp [wellFormed] at wf
  simp [decodeFields, decodeOp, Fields.csrNo, wf]
theorem csrw (p n) : Statement (.csrw p n) := by
  intro f h wf; cases h
  simp [wellFormed] at wf
  simp [decodeFields, decodeOp, Fields.csrNo, wf]
theorem cfgLoad (p r sl full) : Statement (.cfgLoad p r sl full) := by
  intro f h _; cases h
  have h0 : ∀ (r : BitVec 3) (sl : BitVec 2) (full : Bool), (r ++ sl ++ BitVec.ofBool full ++ 0#3 : BitVec 9).extractLsb' 0 3 = 0#3 := by decide
  have h1 : ∀ (r : BitVec 3) (sl : BitVec 2) (full : Bool), (r ++ sl ++ BitVec.ofBool full ++ 0#3 : BitVec 9).extractLsb' 4 2 = sl := by decide
  have h2 : ∀ (r : BitVec 3) (sl : BitVec 2) (full : Bool), (r ++ sl ++ BitVec.ofBool full ++ 0#3 : BitVec 9).extractLsb' 6 3 = r := by decide
  have h3 : ∀ (r : BitVec 3) (sl : BitVec 2) (full : Bool), (r ++ sl ++ BitVec.ofBool full ++ 0#3 : BitVec 9)[3] = full := by decide
  simp [decodeFields, decodeOp, decodeCfg, h0, h1, h2, h3]
theorem cfgWr (p r) : Statement (.cfgWr p r) := by
  intro f h _; cases h
  have h0 : ∀ (r : BitVec 3), (r ++ 0#6 : BitVec 9).extractLsb' 0 6 = 0#6 := by decide
  have h1 : ∀ (r : BitVec 3), (r ++ 0#6 : BitVec 9).extractLsb' 6 3 = r := by decide
  simp [decodeFields, decodeOp, decodeCfg, h0, h1]
theorem cfgSwap (p r sl drained reset t0) : Statement (.cfgSwap p r sl drained reset t0) := by
  intro f h _; cases h
  have h0 : ∀ (r : BitVec 3) (sl : BitVec 2) (drained : Bool) (reset : Bool), (r ++ sl ++ BitVec.ofBool drained ++ BitVec.ofBool reset ++ 0#2 : BitVec 9).extractLsb' 0 2 = 0#2 := by decide
  have h1 : ∀ (r : BitVec 3) (sl : BitVec 2) (drained : Bool) (reset : Bool), (r ++ sl ++ BitVec.ofBool drained ++ BitVec.ofBool reset ++ 0#2 : BitVec 9).extractLsb' 4 2 = sl := by decide
  have h2 : ∀ (r : BitVec 3) (sl : BitVec 2) (drained : Bool) (reset : Bool), (r ++ sl ++ BitVec.ofBool drained ++ BitVec.ofBool reset ++ 0#2 : BitVec 9).extractLsb' 6 3 = r := by decide
  have h3 : ∀ (r : BitVec 3) (sl : BitVec 2) (drained : Bool) (reset : Bool), (r ++ sl ++ BitVec.ofBool drained ++ BitVec.ofBool reset ++ 0#2 : BitVec 9)[2] = reset := by decide
  have h4 : ∀ (r : BitVec 3) (sl : BitVec 2) (drained : Bool) (reset : Bool), (r ++ sl ++ BitVec.ofBool drained ++ BitVec.ofBool reset ++ 0#2 : BitVec 9)[3] = drained := by decide
  simp [decodeFields, decodeOp, decodeCfg, h0, h1, h2, h3, h4]
theorem cfgRetire (p r sl) : Statement (.cfgRetire p r sl) := by
  intro f h _; cases h
  have h0 : ∀ (r : BitVec 3) (sl : BitVec 2), (r ++ sl ++ 0#4 : BitVec 9).extractLsb' 0 4 = 0#4 := by decide
  have h1 : ∀ (r : BitVec 3) (sl : BitVec 2), (r ++ sl ++ 0#4 : BitVec 9).extractLsb' 4 2 = sl := by decide
  have h2 : ∀ (r : BitVec 3) (sl : BitVec 2), (r ++ sl ++ 0#4 : BitVec 9).extractLsb' 6 3 = r := by decide
  simp [decodeFields, decodeOp, decodeCfg, h0, h1, h2]
theorem cfgStat (p r t0) : Statement (.cfgStat p r t0) := by
  intro f h _; cases h
  have h0 : ∀ (r : BitVec 3), (r ++ 0#6 : BitVec 9).extractLsb' 0 6 = 0#6 := by decide
  have h1 : ∀ (r : BitVec 3), (r ++ 0#6 : BitVec 9).extractLsb' 6 3 = r := by decide
  simp [decodeFields, decodeOp, decodeCfg, h0, h1]
theorem strBind (p dir ix lane go base t0) : Statement (.strBind p dir ix lane go base t0) := by
  intro f h _; cases h
  have h0 : ∀ (dir : BitVec 2) (ix : BitVec 4) (lane : Bool) (go : Bool) (base : Bool), (dir ++ ix ++ BitVec.ofBool lane ++ BitVec.ofBool go ++ BitVec.ofBool base : BitVec 9).extractLsb' 3 4 = ix := by decide
  have h1 : ∀ (dir : BitVec 2) (ix : BitVec 4) (lane : Bool) (go : Bool) (base : Bool), (dir ++ ix ++ BitVec.ofBool lane ++ BitVec.ofBool go ++ BitVec.ofBool base : BitVec 9).extractLsb' 7 2 = dir := by decide
  have h2 : ∀ (dir : BitVec 2) (ix : BitVec 4) (lane : Bool) (go : Bool) (base : Bool), (dir ++ ix ++ BitVec.ofBool lane ++ BitVec.ofBool go ++ BitVec.ofBool base : BitVec 9)[0] = base := by decide
  have h3 : ∀ (dir : BitVec 2) (ix : BitVec 4) (lane : Bool) (go : Bool) (base : Bool), (dir ++ ix ++ BitVec.ofBool lane ++ BitVec.ofBool go ++ BitVec.ofBool base : BitVec 9)[1] = go := by decide
  have h4 : ∀ (dir : BitVec 2) (ix : BitVec 4) (lane : Bool) (go : Bool) (base : Bool), (dir ++ ix ++ BitVec.ofBool lane ++ BitVec.ofBool go ++ BitVec.ofBool base : BitVec 9)[2] = lane := by decide
  simp [decodeFields, decodeOp, decodeStr, h0, h1, h2, h3, h4]
theorem strGo (p dl) : Statement (.strGo p dl) := by
  intro f h _; cases h
  have h0 : ∀ (dl : Bool), (0#8 ++ BitVec.ofBool dl : BitVec 9).extractLsb' 1 8 = 0#8 := by decide
  have h1 : ∀ (dl : Bool), (0#8 ++ BitVec.ofBool dl : BitVec 9)[0] = dl := by decide
  simp [decodeFields, decodeOp, decodeStr, h0, h1]
theorem strCancel (p) : Statement (.strCancel p) := by
  intro f h _; cases h
  simp [decodeFields, decodeOp, decodeStr]
theorem strWait (p t0) : Statement (.strWait p t0) := by
  intro f h _; cases h
  simp [decodeFields, decodeOp, decodeStr]
theorem strPush (p buf sz rand) : Statement (.strPush p buf sz rand) := by
  intro f h _; cases h
  have h0 : ∀ (buf : BitVec 4) (sz : BitVec 2) (rand : Bool), (buf ++ sz ++ BitVec.ofBool rand ++ 0#2 : BitVec 9).extractLsb' 0 2 = 0#2 := by decide
  have h1 : ∀ (buf : BitVec 4) (sz : BitVec 2) (rand : Bool), (buf ++ sz ++ BitVec.ofBool rand ++ 0#2 : BitVec 9).extractLsb' 3 2 = sz := by decide
  have h2 : ∀ (buf : BitVec 4) (sz : BitVec 2) (rand : Bool), (buf ++ sz ++ BitVec.ofBool rand ++ 0#2 : BitVec 9).extractLsb' 5 4 = buf := by decide
  have h3 : ∀ (buf : BitVec 4) (sz : BitVec 2) (rand : Bool), (buf ++ sz ++ BitVec.ofBool rand ++ 0#2 : BitVec 9)[2] = rand := by decide
  simp [decodeFields, decodeOp, decodeStr, h0, h1, h2, h3]
theorem strPop (p buf sz rand t0) : Statement (.strPop p buf sz rand t0) := by
  intro f h _; cases h
  have h0 : ∀ (buf : BitVec 4) (sz : BitVec 2) (rand : Bool), (buf ++ sz ++ BitVec.ofBool rand ++ 0#2 : BitVec 9).extractLsb' 0 2 = 0#2 := by decide
  have h1 : ∀ (buf : BitVec 4) (sz : BitVec 2) (rand : Bool), (buf ++ sz ++ BitVec.ofBool rand ++ 0#2 : BitVec 9).extractLsb' 3 2 = sz := by decide
  have h2 : ∀ (buf : BitVec 4) (sz : BitVec 2) (rand : Bool), (buf ++ sz ++ BitVec.ofBool rand ++ 0#2 : BitVec 9).extractLsb' 5 4 = buf := by decide
  have h3 : ∀ (buf : BitVec 4) (sz : BitVec 2) (rand : Bool), (buf ++ sz ++ BitVec.ofBool rand ++ 0#2 : BitVec 9)[2] = rand := by decide
  simp [decodeFields, decodeOp, decodeStr, h0, h1, h2, h3]
theorem strStat (p kind dir ix t0) : Statement (.strStat p kind dir ix t0) := by
  intro f h _; cases h
  have h0 : ∀ (kind : Bool) (dir : BitVec 2) (ix : BitVec 4), (BitVec.ofBool kind ++ dir ++ 0#2 ++ ix : BitVec 9).extractLsb' 0 4 = ix := by decide
  have h1 : ∀ (kind : Bool) (dir : BitVec 2) (ix : BitVec 4), (BitVec.ofBool kind ++ dir ++ 0#2 ++ ix : BitVec 9).extractLsb' 4 2 = 0#2 := by decide
  have h2 : ∀ (kind : Bool) (dir : BitVec 2) (ix : BitVec 4), (BitVec.ofBool kind ++ dir ++ 0#2 ++ ix : BitVec 9).extractLsb' 6 2 = dir := by decide
  have h3 : ∀ (kind : Bool) (dir : BitVec 2) (ix : BitVec 4), (BitVec.ofBool kind ++ dir ++ 0#2 ++ ix : BitVec 9)[8] = kind := by decide
  simp [decodeFields, decodeOp, decodeStr, h0, h1, h2, h3]
theorem rgnArm (p r sec) : Statement (.rgnArm p r sec) := by
  intro f h _; cases h
  have h0 : ∀ (r : BitVec 3) (sec : BitVec 3), (r ++ sec ++ 0#3 : BitVec 9).extractLsb' 0 3 = 0#3 := by decide
  have h1 : ∀ (r : BitVec 3) (sec : BitVec 3), (r ++ sec ++ 0#3 : BitVec 9).extractLsb' 3 3 = sec := by decide
  have h2 : ∀ (r : BitVec 3) (sec : BitVec 3), (r ++ sec ++ 0#3 : BitVec 9).extractLsb' 6 3 = r := by decide
  simp [decodeFields, decodeOp, decodeRgn, h0, h1, h2]
theorem rgnFreeze (p r) : Statement (.rgnFreeze p r) := by
  intro f h _; cases h
  have h0 : ∀ (r : BitVec 3), (r ++ 0#6 : BitVec 9).extractLsb' 0 6 = 0#6 := by decide
  have h1 : ∀ (r : BitVec 3), (r ++ 0#6 : BitVec 9).extractLsb' 6 3 = r := by decide
  simp [decodeFields, decodeOp, decodeRgn, h0, h1]
theorem rgnThaw (p r) : Statement (.rgnThaw p r) := by
  intro f h _; cases h
  have h0 : ∀ (r : BitVec 3), (r ++ 0#6 : BitVec 9).extractLsb' 0 6 = 0#6 := by decide
  have h1 : ∀ (r : BitVec 3), (r ++ 0#6 : BitVec 9).extractLsb' 6 3 = r := by decide
  simp [decodeFields, decodeOp, decodeRgn, h0, h1]
theorem rgnAbort (p r) : Statement (.rgnAbort p r) := by
  intro f h _; cases h
  have h0 : ∀ (r : BitVec 3), (r ++ 0#6 : BitVec 9).extractLsb' 0 6 = 0#6 := by decide
  have h1 : ∀ (r : BitVec 3), (r ++ 0#6 : BitVec 9).extractLsb' 6 3 = r := by decide
  simp [decodeFields, decodeOp, decodeRgn, h0, h1]
theorem rgnQuiet (p r span t0) : Statement (.rgnQuiet p r span t0) := by
  intro f h _; cases h
  have h0 : ∀ (r : BitVec 3) (span : Bool), (r ++ BitVec.ofBool span ++ 0#5 : BitVec 9).extractLsb' 0 5 = 0#5 := by decide
  have h1 : ∀ (r : BitVec 3) (span : Bool), (r ++ BitVec.ofBool span ++ 0#5 : BitVec 9).extractLsb' 6 3 = r := by decide
  have h2 : ∀ (r : BitVec 3) (span : Bool), (r ++ BitVec.ofBool span ++ 0#5 : BitVec 9)[5] = span := by decide
  simp [decodeFields, decodeOp, decodeRgn, h0, h1, h2]
theorem rgnStat (p r t0) : Statement (.rgnStat p r t0) := by
  intro f h _; cases h
  have h0 : ∀ (r : BitVec 3), (r ++ 0#6 : BitVec 9).extractLsb' 0 6 = 0#6 := by decide
  have h1 : ∀ (r : BitVec 3), (r ++ 0#6 : BitVec 9).extractLsb' 6 3 = r := by decide
  simp [decodeFields, decodeOp, decodeRgn, h0, h1]
theorem spawn (p r t0) : Statement (.spawn p r t0) := by
  intro f h _; cases h
  have h0 : ∀ (r : BitVec 3), (r ++ 0#6 : BitVec 9).extractLsb' 0 6 = 0#6 := by decide
  have h1 : ∀ (r : BitVec 3), (r ++ 0#6 : BitVec 9).extractLsb' 6 3 = r := by decide
  simp [decodeFields, decodeOp, decodeRgn, h0, h1]
theorem xaClr (p r tile evt) : Statement (.xaClr p r tile evt) := by
  intro f h _; cases h
  have h0 : ∀ (r : BitVec 3) (tile : Bool) (evt : Bool), (r ++ BitVec.ofBool tile ++ BitVec.ofBool evt ++ 0#4 : BitVec 9).extractLsb' 0 4 = 0#4 := by decide
  have h1 : ∀ (r : BitVec 3) (tile : Bool) (evt : Bool), (r ++ BitVec.ofBool tile ++ BitVec.ofBool evt ++ 0#4 : BitVec 9).extractLsb' 6 3 = r := by decide
  have h2 : ∀ (r : BitVec 3) (tile : Bool) (evt : Bool), (r ++ BitVec.ofBool tile ++ BitVec.ofBool evt ++ 0#4 : BitVec 9)[4] = evt := by decide
  have h3 : ∀ (r : BitVec 3) (tile : Bool) (evt : Bool), (r ++ BitVec.ofBool tile ++ BitVec.ofBool evt ++ 0#4 : BitVec 9)[5] = tile := by decide
  simp [decodeFields, decodeOp, decodeXa, h0, h1, h2, h3]
theorem xaDrain (p r tile evt mem) : Statement (.xaDrain p r tile evt mem) := by
  intro f h _; cases h
  have h0 : ∀ (r : BitVec 3) (tile : Bool) (evt : Bool) (mem : Bool), (r ++ BitVec.ofBool tile ++ BitVec.ofBool evt ++ BitVec.ofBool mem ++ 0#3 : BitVec 9).extractLsb' 0 3 = 0#3 := by decide
  have h1 : ∀ (r : BitVec 3) (tile : Bool) (evt : Bool) (mem : Bool), (r ++ BitVec.ofBool tile ++ BitVec.ofBool evt ++ BitVec.ofBool mem ++ 0#3 : BitVec 9).extractLsb' 6 3 = r := by decide
  have h2 : ∀ (r : BitVec 3) (tile : Bool) (evt : Bool) (mem : Bool), (r ++ BitVec.ofBool tile ++ BitVec.ofBool evt ++ BitVec.ofBool mem ++ 0#3 : BitVec 9)[3] = mem := by decide
  have h3 : ∀ (r : BitVec 3) (tile : Bool) (evt : Bool) (mem : Bool), (r ++ BitVec.ofBool tile ++ BitVec.ofBool evt ++ BitVec.ofBool mem ++ 0#3 : BitVec 9)[4] = evt := by decide
  have h4 : ∀ (r : BitVec 3) (tile : Bool) (evt : Bool) (mem : Bool), (r ++ BitVec.ofBool tile ++ BitVec.ofBool evt ++ BitVec.ofBool mem ++ 0#3 : BitVec 9)[5] = tile := by decide
  simp [decodeFields, decodeOp, decodeXa, h0, h1, h2, h3, h4]
theorem xaSpill (p r tile evt) : Statement (.xaSpill p r tile evt) := by
  intro f h _; cases h
  have h0 : ∀ (r : BitVec 3) (tile : Bool) (evt : Bool), (r ++ BitVec.ofBool tile ++ BitVec.ofBool evt ++ 0#4 : BitVec 9).extractLsb' 0 4 = 0#4 := by decide
  have h1 : ∀ (r : BitVec 3) (tile : Bool) (evt : Bool), (r ++ BitVec.ofBool tile ++ BitVec.ofBool evt ++ 0#4 : BitVec 9).extractLsb' 6 3 = r := by decide
  have h2 : ∀ (r : BitVec 3) (tile : Bool) (evt : Bool), (r ++ BitVec.ofBool tile ++ BitVec.ofBool evt ++ 0#4 : BitVec 9)[4] = evt := by decide
  have h3 : ∀ (r : BitVec 3) (tile : Bool) (evt : Bool), (r ++ BitVec.ofBool tile ++ BitVec.ofBool evt ++ 0#4 : BitVec 9)[5] = tile := by decide
  simp [decodeFields, decodeOp, decodeXa, h0, h1, h2, h3]
theorem xaFill (p r tile evt) : Statement (.xaFill p r tile evt) := by
  intro f h _; cases h
  have h0 : ∀ (r : BitVec 3) (tile : Bool) (evt : Bool), (r ++ BitVec.ofBool tile ++ BitVec.ofBool evt ++ 0#4 : BitVec 9).extractLsb' 0 4 = 0#4 := by decide
  have h1 : ∀ (r : BitVec 3) (tile : Bool) (evt : Bool), (r ++ BitVec.ofBool tile ++ BitVec.ofBool evt ++ 0#4 : BitVec 9).extractLsb' 6 3 = r := by decide
  have h2 : ∀ (r : BitVec 3) (tile : Bool) (evt : Bool), (r ++ BitVec.ofBool tile ++ BitVec.ofBool evt ++ 0#4 : BitVec 9)[4] = evt := by decide
  have h3 : ∀ (r : BitVec 3) (tile : Bool) (evt : Bool), (r ++ BitVec.ofBool tile ++ BitVec.ofBool evt ++ 0#4 : BitVec 9)[5] = tile := by decide
  simp [decodeFields, decodeOp, decodeXa, h0, h1, h2, h3]
theorem xaMerge (p r tile evt) : Statement (.xaMerge p r tile evt) := by
  intro f h _; cases h
  have h0 : ∀ (r : BitVec 3) (tile : Bool) (evt : Bool), (r ++ BitVec.ofBool tile ++ BitVec.ofBool evt ++ 0#4 : BitVec 9).extractLsb' 0 4 = 0#4 := by decide
  have h1 : ∀ (r : BitVec 3) (tile : Bool) (evt : Bool), (r ++ BitVec.ofBool tile ++ BitVec.ofBool evt ++ 0#4 : BitVec 9).extractLsb' 6 3 = r := by decide
  have h2 : ∀ (r : BitVec 3) (tile : Bool) (evt : Bool), (r ++ BitVec.ofBool tile ++ BitVec.ofBool evt ++ 0#4 : BitVec 9)[4] = evt := by decide
  have h3 : ∀ (r : BitVec 3) (tile : Bool) (evt : Bool), (r ++ BitVec.ofBool tile ++ BitVec.ofBool evt ++ 0#4 : BitVec 9)[5] = tile := by decide
  simp [decodeFields, decodeOp, decodeXa, h0, h1, h2, h3]
theorem xaStat (p r t0) : Statement (.xaStat p r t0) := by
  intro f h _; cases h
  have h0 : ∀ (r : BitVec 3), (r ++ 0#6 : BitVec 9).extractLsb' 0 6 = 0#6 := by decide
  have h1 : ∀ (r : BitVec 3), (r ++ 0#6 : BitVec 9).extractLsb' 6 3 = r := by decide
  simp [decodeFields, decodeOp, decodeXa, h0, h1]
theorem markWait (p kind t0) : Statement (.markWait p kind t0) := by
  intro f h _; cases h
  have h0 : ∀ (kind : Bool), (BitVec.ofBool kind ++ 0#8 : BitVec 9).extractLsb' 0 8 = 0#8 := by decide
  have h1 : ∀ (kind : Bool), (BitVec.ofBool kind ++ 0#8 : BitVec 9)[8] = kind := by decide
  simp [decodeFields, decodeOp, decodeSync, h0, h1]
theorem markRaise (p kind strm) : Statement (.markRaise p kind strm) := by
  intro f h _; cases h
  have h0 : ∀ (kind : Bool) (strm : BitVec 5), (BitVec.ofBool kind ++ 0#3 ++ strm : BitVec 9).extractLsb' 0 5 = strm := by decide
  have h1 : ∀ (kind : Bool) (strm : BitVec 5), (BitVec.ofBool kind ++ 0#3 ++ strm : BitVec 9).extractLsb' 5 3 = 0#3 := by decide
  have h2 : ∀ (kind : Bool) (strm : BitVec 5), (BitVec.ofBool kind ++ 0#3 ++ strm : BitVec 9)[8] = kind := by decide
  simp [decodeFields, decodeOp, decodeSync, h0, h1, h2]
theorem evtWait (p ev t0) : Statement (.evtWait p ev t0) := by
  intro f h _; cases h
  have h0 : ∀ (ev : BitVec 7), (0#2 ++ ev : BitVec 9).extractLsb' 0 7 = ev := by decide
  have h1 : ∀ (ev : BitVec 7), (0#2 ++ ev : BitVec 9).extractLsb' 7 2 = 0#2 := by decide
  simp [decodeFields, decodeOp, decodeSync, h0, h1]
theorem evtSignal (p ev) : Statement (.evtSignal p ev) := by
  intro f h _; cases h
  have h0 : ∀ (ev : BitVec 7), (0#2 ++ ev : BitVec 9).extractLsb' 0 7 = ev := by decide
  have h1 : ∀ (ev : BitVec 7), (0#2 ++ ev : BitVec 9).extractLsb' 7 2 = 0#2 := by decide
  simp [decodeFields, decodeOp, decodeSync, h0, h1]
theorem semWait (p o sc t0) : Statement (.semWait p o sc t0) := by
  intro f h _; cases h
  have h0 : (0#5 ++ o.bits ++ sc.bits : BitVec 9).extractLsb' 0 2 = sc.bits := by cases o <;> cases sc <;> decide
  have h1 : (0#5 ++ o.bits ++ sc.bits : BitVec 9).extractLsb' 2 2 = o.bits := by cases o <;> cases sc <;> decide
  have h2 : (0#5 ++ o.bits ++ sc.bits : BitVec 9).extractLsb' 4 5 = 0#5 := by cases o <;> cases sc <;> decide
  simp [decodeFields, decodeOp, decodeSync, h0, h1, h2]
theorem semPost (p o sc t0) : Statement (.semPost p o sc t0) := by
  intro f h _; cases h
  have h0 : (0#5 ++ o.bits ++ sc.bits : BitVec 9).extractLsb' 0 2 = sc.bits := by cases o <;> cases sc <;> decide
  have h1 : (0#5 ++ o.bits ++ sc.bits : BitVec 9).extractLsb' 2 2 = o.bits := by cases o <;> cases sc <;> decide
  have h2 : (0#5 ++ o.bits ++ sc.bits : BitVec 9).extractLsb' 4 5 = 0#5 := by cases o <;> cases sc <;> decide
  simp [decodeFields, decodeOp, decodeSync, h0, h1, h2]
theorem fadd (p t0 t1) : Statement (.fadd p t0 t1) := by
  intro f h _; cases h
  simp [decodeFields, decodeOp, decodeFloat]
theorem fsub (p t0 t1) : Statement (.fsub p t0 t1) := by
  intro f h _; cases h
  simp [decodeFields, decodeOp, decodeFloat]
theorem fmul (p t0 t1) : Statement (.fmul p t0 t1) := by
  intro f h _; cases h
  simp [decodeFields, decodeOp, decodeFloat]
theorem fdiv (p t0 t1) : Statement (.fdiv p t0 t1) := by
  intro f h _; cases h
  simp [decodeFields, decodeOp, decodeFloat]
theorem fsqrt (p t0 t1) : Statement (.fsqrt p t0 t1) := by
  intro f h _; cases h
  simp [decodeFields, decodeOp, decodeFloat]
theorem fmin (p t0 t1) : Statement (.fmin p t0 t1) := by
  intro f h _; cases h
  simp [decodeFields, decodeOp, decodeFloat]
theorem fmax (p t0 t1) : Statement (.fmax p t0 t1) := by
  intro f h _; cases h
  simp [decodeFields, decodeOp, decodeFloat]
theorem fabs (p t0 t1) : Statement (.fabs p t0 t1) := by
  intro f h _; cases h
  simp [decodeFields, decodeOp, decodeFloat]
theorem fneg (p t0 t1) : Statement (.fneg p t0 t1) := by
  intro f h _; cases h
  simp [decodeFields, decodeOp, decodeFloat]
theorem fcmpEq (p t0 t1) : Statement (.fcmpEq p t0 t1) := by
  intro f h _; cases h
  simp [decodeFields, decodeOp, decodeFcmp]
theorem fcmpLt (p t0 t1) : Statement (.fcmpLt p t0 t1) := by
  intro f h _; cases h
  simp [decodeFields, decodeOp, decodeFcmp]
theorem fcmpLe (p t0 t1) : Statement (.fcmpLe p t0 t1) := by
  intro f h _; cases h
  simp [decodeFields, decodeOp, decodeFcmp]
theorem fcmpUn (p t0 t1) : Statement (.fcmpUn p t0 t1) := by
  intro f h _; cases h
  simp [decodeFields, decodeOp, decodeFcmp]
theorem fcvtS32F (p t0 t1) : Statement (.fcvtS32F p t0 t1) := by
  intro f h _; cases h
  simp [decodeFields, decodeOp, decodeFcvt]
theorem fcvtS64F (p t0 t1) : Statement (.fcvtS64F p t0 t1) := by
  intro f h _; cases h
  simp [decodeFields, decodeOp, decodeFcvt]
theorem fcvtFS32 (p t0 t1) : Statement (.fcvtFS32 p t0 t1) := by
  intro f h _; cases h
  simp [decodeFields, decodeOp, decodeFcvt]
theorem fcvtFS64 (p t0 t1) : Statement (.fcvtFS64 p t0 t1) := by
  intro f h _; cases h
  simp [decodeFields, decodeOp, decodeFcvt]
theorem fcvtFN64 (p t0 t1) : Statement (.fcvtFN64 p t0 t1) := by
  intro f h _; cases h
  simp [decodeFields, decodeOp, decodeFcvt]
theorem fcvtBf16F (p t0 t1) : Statement (.fcvtBf16F p t0 t1) := by
  intro f h _; cases h
  simp [decodeFields, decodeOp, decodeFcvt]
theorem fcvtFBf16 (p t0 t1) : Statement (.fcvtFBf16 p t0 t1) := by
  intro f h _; cases h
  simp [decodeFields, decodeOp, decodeFcvt]
theorem fcvtFp16F (p t0 t1) : Statement (.fcvtFp16F p t0 t1) := by
  intro f h _; cases h
  simp [decodeFields, decodeOp, decodeFcvt]
theorem fcvtFFp16 (p t0 t1) : Statement (.fcvtFFp16 p t0 t1) := by
  intro f h _; cases h
  simp [decodeFields, decodeOp, decodeFcvt]
theorem blockFetch (c x ) : Statement (.blockFetch c x) := no_word rfl
theorem blockCommit (c x ) : Statement (.blockCommit c x) := no_word rfl
theorem blockAbandon (c x ) : Statement (.blockAbandon c x) := no_word rfl
theorem stallDetect (c x ) : Statement (.stallDetect c x) := no_word rfl
theorem engineAccept (c x k ) : Statement (.engineAccept c x k) := no_word rfl
theorem waitSatisfied (c x ) : Statement (.waitSatisfied c x) := no_word rfl
theorem swapTakesEffect (c r ) : Statement (.swapTakesEffect c r) := no_word rfl
theorem loaderServe (c ) : Statement (.loaderServe c) := no_word rfl
theorem configLoadComplete (c ) : Statement (.configLoadComplete c) := no_word rfl
theorem regionSchedulerDecision (c r ) : Statement (.regionSchedulerDecision c r) := no_word rfl
theorem quantumExpiry (c r ) : Statement (.quantumExpiry c r) := no_word rfl
theorem pass (c e ) : Statement (.pass c e) := no_word rfl
theorem steer (c e ) : Statement (.steer c e) := no_word rfl
theorem loopExitSteer (c e ) : Statement (.loopExitSteer c e) := no_word rfl
theorem swch (c e ) : Statement (.swch c e) := no_word rfl
theorem merge (c e ) : Statement (.merge c e) := no_word rfl
theorem amrg (c e ) : Statement (.amrg c e) := no_word rfl
theorem filt (c e ) : Statement (.filt c e) := no_word rfl
theorem expd (c e ) : Statement (.expd c e) := no_word rfl
theorem rep (c e ) : Statement (.rep c e) := no_word rfl
theorem cnt (c e ) : Statement (.cnt c e) := no_word rfl
theorem gate (c e ) : Statement (.gate c e) := no_word rfl
theorem taga (c e ) : Statement (.taga c e) := no_word rfl
theorem tagf (c e ) : Statement (.tagf c e) := no_word rfl
theorem reord (c e ) : Statement (.reord c e) := no_word rfl
theorem join (c e ) : Statement (.join c e) := no_word rfl
theorem const (c e ) : Statement (.const c e) := no_word rfl
theorem iadd (c e ) : Statement (.iadd c e) := no_word rfl
theorem isub (c e ) : Statement (.isub c e) := no_word rfl
theorem imul (c e ) : Statement (.imul c e) := no_word rfl
theorem imac (c e ) : Statement (.imac c e) := no_word rfl
theorem iand (c e ) : Statement (.iand c e) := no_word rfl
theorem ior (c e ) : Statement (.ior c e) := no_word rfl
theorem ixor (c e ) : Statement (.ixor c e) := no_word rfl
theorem ishl (c e ) : Statement (.ishl c e) := no_word rfl
theorem ishr (c e ) : Statement (.ishr c e) := no_word rfl
theorem isra (c e ) : Statement (.isra c e) := no_word rfl
theorem imin (c e ) : Statement (.imin c e) := no_word rfl
theorem imax (c e ) : Statement (.imax c e) := no_word rfl
theorem iabs (c e ) : Statement (.iabs c e) := no_word rfl
theorem isat (c e ) : Statement (.isat c e) := no_word rfl
theorem icmp (c e ) : Statement (.icmp c e) := no_word rfl
theorem elemFadd (c e ) : Statement (.elemFadd c e) := no_word rfl
theorem elemFmul (c e ) : Statement (.elemFmul c e) := no_word rfl
theorem ffma (c e ) : Statement (.ffma c e) := no_word rfl
theorem elemFmin (c e ) : Statement (.elemFmin c e) := no_word rfl
theorem elemFmax (c e ) : Statement (.elemFmax c e) := no_word rfl
theorem elemFcmp (c e ) : Statement (.elemFcmp c e) := no_word rfl
theorem elemFcvt (c e ) : Statement (.elemFcvt c e) := no_word rfl
theorem frcp (c e ) : Statement (.frcp c e) := no_word rfl
theorem frsq (c e ) : Statement (.frsq c e) := no_word rfl
theorem fexp2 (c e ) : Statement (.fexp2 c e) := no_word rfl
theorem flog2 (c e ) : Statement (.flog2 c e) := no_word rfl
theorem qmul (c e ) : Statement (.qmul c e) := no_word rfl
theorem qrsq (c e ) : Statement (.qrsq c e) := no_word rfl
theorem qdiv (c e ) : Statement (.qdiv c e) := no_word rfl
theorem pivg (c e ) : Statement (.pivg c e) := no_word rfl
theorem cadd (c e ) : Statement (.cadd c e) := no_word rfl
theorem csub (c e ) : Statement (.csub c e) := no_word rfl
theorem cmul (c e ) : Statement (.cmul c e) := no_word rfl
theorem cmac (c e ) : Statement (.cmac c e) := no_word rfl
theorem cconj (c e ) : Statement (.cconj c e) := no_word rfl
theorem cabs2 (c e ) : Statement (.cabs2 c e) := no_word rfl
theorem cscl (c e ) : Statement (.cscl c e) := no_word rfl
theorem rotz (c e ) : Statement (.rotz c e) := no_word rfl
theorem perm (c e ) : Statement (.perm c e) := no_word rfl
theorem mins (c e ) : Statement (.mins c e) := no_word rfl
theorem llrs (c e ) : Statement (.llrs c e) := no_word rfl
theorem xorr (c e ) : Statement (.xorr c e) := no_word rfl
theorem crcs (c e ) : Statement (.crcs c e) := no_word rfl
theorem mma (c e ) : Statement (.mma c e) := no_word rfl
theorem xacc (c e ) : Statement (.xacc c e) := no_word rfl
theorem req (c e ) : Statement (.req c e) := no_word rfl
theorem rng (c e ) : Statement (.rng c e) := no_word rfl
theorem markerConsume (c e ) : Statement (.markerConsume c e) := no_word rfl
theorem squashArrival (c e lane ) : Statement (.squashArrival c e lane) := no_word rfl
theorem enablePulse (c e ) : Statement (.enablePulse c e) := no_word rfl
theorem donePulse (c e route ) : Statement (.donePulse c e route) := no_word rfl
theorem commitPulse (c e ) : Statement (.commitPulse c e) := no_word rfl
theorem creditPulse (c e route ) : Statement (.creditPulse c e route) := no_word rfl
theorem switchboxPass (c e lane ) : Statement (.switchboxPass c e lane) := no_word rfl
theorem drainChainForward (c e ) : Statement (.drainChainForward c e) := no_word rfl
theorem klenDrain (c e ) : Statement (.klenDrain c e) := no_word rfl
theorem xaCommandAct (c e ) : Statement (.xaCommandAct c e) := no_word rfl
theorem xaCommandComplete (c id ) : Statement (.xaCommandComplete c id) := no_word rfl
theorem quiescenceWaveComplete (c x ) : Statement (.quiescenceWaveComplete c x) := no_word rfl
theorem freezeWave (c r ) : Statement (.freezeWave c r) := no_word rfl
theorem freezeImageWritten (c r ) : Statement (.freezeImageWritten c r) := no_word rfl
theorem thawInstall (a c r ) : Statement (.thawInstall a c r) := no_word rfl
theorem abortComplete (a c r ) : Statement (.abortComplete a c r) := no_word rfl
theorem spawnQueueService (a ) : Statement (.spawnQueueService a) := no_word rfl
theorem endRelease (c k ) : Statement (.endRelease c k) := no_word rfl
theorem detRoundApply (a ) : Statement (.detRoundApply a) := no_word rfl
theorem tagdry (c e ) : Statement (.tagdry c e) := no_word rfl
theorem bindingActivate (c p ) : Statement (.bindingActivate c p) := no_word rfl
theorem streamMove (c p ) : Statement (.streamMove c p) := no_word rfl
theorem gatherRequest (c p ) : Statement (.gatherRequest c p) := no_word rfl
theorem scatterRequest (c p ) : Statement (.scatterRequest c p) := no_word rfl
theorem itemFinish (c p ) : Statement (.itemFinish c p) := no_word rfl
theorem bindingDone (c p ) : Statement (.bindingDone c p) := no_word rfl
theorem translateAhead (c p ) : Statement (.translateAhead c p) := no_word rfl
theorem ringSend (c p ) : Statement (.ringSend c p) := no_word rfl
theorem ringDeliver (c p ) : Statement (.ringDeliver c p) := no_word rfl
theorem ringSlotReturn (c p ) : Statement (.ringSlotReturn c p) := no_word rfl
theorem arbitrationRound (c ) : Statement (.arbitrationRound c) := no_word rfl
theorem walk (d id ) : Statement (.walk d id) := no_word rfl
theorem accessPerformed (id ) : Statement (.accessPerformed id) := no_word rfl
theorem semRetest (id ) : Statement (.semRetest id) := no_word rfl
theorem sweep (c ) : Statement (.sweep c) := no_word rfl
theorem stagingSweep (d ) : Statement (.stagingSweep d) := no_word rfl
theorem patrolScrub (line ) : Statement (.patrolScrub line) := no_word rfl
theorem softErrorDetect (place ) : Statement (.softErrorDetect place) := no_word rfl
theorem markUnitApply : Statement .markUnitApply := no_word rfl
theorem markApply (c ) : Statement (.markApply c) := no_word rfl
theorem eventDelivery (n ) : Statement (.eventDelivery n) := no_word rfl
theorem packetRead : Statement .packetRead := no_word rfl
theorem teaselWake (q ) : Statement (.teaselWake q) := no_word rfl
theorem irqToleranceExpiry (q ) : Statement (.irqToleranceExpiry q) := no_word rfl
theorem packetComplete (id ) : Statement (.packetComplete id) := no_word rfl
theorem placement : Statement .placement := no_word rfl
theorem copyPiece (id ) : Statement (.copyPiece id) := no_word rfl
theorem nop (q ) : Statement (.nop q) := no_word rfl
theorem launch (q ) : Statement (.launch q) := no_word rfl
theorem mark (q ) : Statement (.mark q) := no_word rfl
theorem signal (q ) : Statement (.signal q) := no_word rfl
theorem wait (q ) : Statement (.wait q) := no_word rfl
theorem copy (q ) : Statement (.copy q) := no_word rfl
theorem fencePacket (q ) : Statement (.fencePacket q) := no_word rfl
theorem budget (q ) : Statement (.budget q) := no_word rfl
theorem freeze (q ) : Statement (.freeze q) := no_word rfl
theorem thaw (q ) : Statement (.thaw q) := no_word rfl
theorem abort (q ) : Statement (.abort q) := no_word rfl
theorem attest (q ) : Statement (.attest q) := no_word rfl
theorem indirect (q ) : Statement (.indirect q) := no_word rfl
theorem faultRecordWrite : Statement .faultRecordWrite := no_word rfl
theorem hostRead (h ) : Statement (.hostRead h) := no_word rfl
theorem hostWrite (h data mask ) : Statement (.hostWrite h data mask) := no_word rfl
theorem modeRegisterWrite (n v ) : Statement (.modeRegisterWrite n v) := no_word rfl
theorem modeRegisterRead (n ) : Statement (.modeRegisterRead n) := no_word rfl
theorem refresh (ch ) : Statement (.refresh ch) := no_word rfl
theorem powerDown (ch enter ) : Statement (.powerDown ch enter) := no_word rfl
theorem selfRefresh (ch enter ) : Statement (.selfRefresh ch enter) := no_word rfl
theorem commandBusTraining (ch ) : Statement (.commandBusTraining ch) := no_word rfl
theorem wck2ckLevelling (ch ) : Statement (.wck2ckLevelling ch) := no_word rfl
theorem readDqCalibration (ch ) : Statement (.readDqCalibration ch) := no_word rfl
theorem writeFifo (ch data ) : Statement (.writeFifo ch data) := no_word rfl
theorem readFifo (ch ) : Statement (.readFifo ch) := no_word rfl
theorem qtailWrite (q v bm ) : Statement (.qtailWrite q v bm) := no_word rfl
theorem qsizeWrite (q v bm ) : Statement (.qsizeWrite q v bm) := no_word rfl
theorem qbaseWrite (q v bm ) : Statement (.qbaseWrite q v bm) := no_word rfl
theorem qstatWrite (q v bm ) : Statement (.qstatWrite q v bm) := no_word rfl
theorem markwWrite (m v bm ) : Statement (.markwWrite m v bm) := no_word rfl
theorem limitWrite (m b v bm ) : Statement (.limitWrite m b v bm) := no_word rfl
theorem bctlWrite (m v bm ) : Statement (.bctlWrite m v bm) := no_word rfl
theorem bootctlStart (v bm ) : Statement (.bootctlStart v bm) := no_word rfl
theorem feath0Write (v bm ) : Statement (.feath0Write v bm) := no_word rfl
theorem pwrcapWrite (v bm ) : Statement (.pwrcapWrite v bm) := no_word rfl
theorem irqstatWrite (v bm ) : Statement (.irqstatWrite v bm) := no_word rfl
theorem irqmaskWrite (v bm ) : Statement (.irqmaskWrite v bm) := no_word rfl
theorem fltringWrite (v bm ) : Statement (.fltringWrite v bm) := no_word rfl
theorem fltptrWrite (v bm ) : Statement (.fltptrWrite v bm) := no_word rfl
theorem registerWrite (off v bm ) : Statement (.registerWrite off v bm) := no_word rfl
theorem flitReceive (l down cls ) : Statement (.flitReceive l down cls) := no_word rfl
theorem creditFlit (l down ) : Statement (.creditFlit l down) := no_word rfl
theorem linkretrain (l ) : Statement (.linkretrain l) := no_word rfl
theorem linkdown (l ) : Statement (.linkdown l) := no_word rfl
theorem powerEstimate (est temps ) : Statement (.powerEstimate est temps) := no_word rfl
theorem thermalTrip : Statement .thermalTrip := no_word rfl
theorem powerOn : Statement .powerOn := no_word rfl
theorem bundleVerify : Statement .bundleVerify := no_word rfl
theorem initComplete (res ) : Statement (.initComplete res) := no_word rfl
theorem campionTimeout : Statement .campionTimeout := no_word rfl
theorem serviceAccess (o ) : Statement (.serviceAccess o) := no_word rfl
theorem linkArbitrationRound (l down ) : Statement (.linkArbitrationRound l down) := no_word rfl

end Sys2Proof.Laws.WordFields
end

