-- ==== Sys2Proof/Tests/Slice0.lean ====
section
/-! SUPPORT. Tests on small states: words written out from the encoding tables, results worked out by hand from the
rules, terms that WellFormed refuses, and for every obligation with hypotheses a state and operands that meet them. -/

namespace Sys2Proof.Tests

open Sys2Proof Sys2Proof.Machine

set_option Elab.async false

/-! ## Small states -/

/-- Did the step lead on, to a state with a property? -/
def leads (o : Host.Outcome State Fault Refusal) (f : State → Bool) : Bool :=
  match o with
  | .next t => f t
  | .fault _ => false
  | .refused _ => false

/-- A member of allocation 0 under generation 1, with a partition of 4 KB and a trap vector. -/
def member : Ctx := { gen := 1, tvec := 0xFFFD_0000_0000_0040, psize := 0x1000, next := 0xFFFD_0000_0000_0100 }

/-- A device with that member on context 0 of core 0. -/
def device (k : Ctx) (q : Core) : State :=
  { cores := [(0, { q with ctxs := [(0, k)] })], allocs := [(0, { st := .running, members := [⟨0, 0⟩], sgens := [1, 1, 1, 1] })] }

/-- A block of one word whose three slots are full. -/
def solo (i : Instr) (a b p : Word) : Block :=
  { addr := 0xFFFD_0000_0000_0100, words := [(encode i).getD 0], slotA := [(0, a)], slotB := [(0, b)], slotP := [(0, p)] }

/-- The member with a block in flight. -/
def within (k : Ctx) (b : Block) : Ctx := { k with block := some b, blocks := 1 }

/-- Word 0 of the block in flight of context 0 of core 0. -/
def hereOf (k : Ctx) (b : Block) : Here := { c := 0, x := 0, k := 0, ctx := within k b, blk := b }

/-- A device about to execute one word. -/
def about (i : Instr) (a b p : Word) : State := device (within member (solo i a b p)) {}

/-- The value that a word sends to slot A of word 1. -/
def sent (o : Host.Outcome State Fault Refusal) : Option Word :=
  match o with
  | .next t => ((t.ctx? 0 0).bind (·.block)).bind fun b => b.slotA.look 1
  | .fault _ => none
  | .refused _ => none

/-- Does a word send the value expected? -/
def yields (e : Instr × Word × Word × Word) : Bool := sent (exec e.1 (about e.1 e.2.1 e.2.2.1 1)) == some e.2.2.2

/-- The block in flight after a step. -/
def blockAfter (o : Host.Outcome State Fault Refusal) : Option Block :=
  match o with
  | .next t => (t.ctx? 0 0).bind (·.block)
  | .fault _ => none
  | .refused _ => none

/-- Does a word decode to the instruction expected? -/
def readsAs (e : W32 × Instr) : Bool :=
  match decode e.1 with
  | .ok i => i == e.2
  | .error _ => false

/-! ## Words written out from the tables of R176 to R180, R208, R210, R217, R223, R226 to R228, R233, R234 and R239 -/

theorem test_decode_read_to_div :
    ([(0x02CD171F, .read .onTrue 0x13 0x08B 0x11F),
      (0x04CC0000, .write .onTrue 0x13),
      (0x06D4BA8B, .movi .onTrue 0x2a5d 0x08B),
      (0x08D4BA8B, .appi .onTrue 0x2a5d 0x08B),
      (0x0A81171F, .mov .onTrue 0x08B 0x11F),
      (0x0C01171F, .sel 0x08B 0x11F),
      (0x0ECC0000, .nullw .onTrue 0x13),
      (0x10CC0000, .nulls .onTrue 0x13),
      (0x20C1171F, .add .onTrue true 0x08B 0x11F),
      (0x20C5171F, .sub .onTrue true 0x08B 0x11F),
      (0x20C9171F, .mul .onTrue true 0x08B 0x11F),
      (0x20CD171F, .mulh .onTrue true 0x08B 0x11F),
      (0x20D1171F, .mulhu .onTrue true 0x08B 0x11F),
      (0x20D5171F, .div .onTrue true 0x08B 0x11F)] : List (W32 × Instr)).all readsAs = true := by
  decide

theorem test_decode_divu_to_shr :
    ([(0x20D9171F, .divu .onTrue true 0x08B 0x11F),
      (0x20DD171F, .rem .onTrue true 0x08B 0x11F),
      (0x20E1171F, .remu .onTrue true 0x08B 0x11F),
      (0x20E5171F, .min .onTrue true 0x08B 0x11F),
      (0x20E9171F, .max .onTrue true 0x08B 0x11F),
      (0x20ED171F, .minu .onTrue true 0x08B 0x11F),
      (0x20F1171F, .maxu .onTrue true 0x08B 0x11F),
      (0x22C1171F, .and .onTrue true 0x08B 0x11F),
      (0x22C5171F, .or .onTrue true 0x08B 0x11F),
      (0x22C9171F, .xor .onTrue true 0x08B 0x11F),
      (0x22CD171F, .andn .onTrue true 0x08B 0x11F),
      (0x22D1171F, .orn .onTrue true 0x08B 0x11F),
      (0x22D5171F, .shl .onTrue true 0x08B 0x11F),
      (0x22D9171F, .shr .onTrue true 0x08B 0x11F)] : List (W32 × Instr)).all readsAs = true := by
  decide

theorem test_decode_sra_to_sext32 :
    ([(0x22DD171F, .sra .onTrue true 0x08B 0x11F),
      (0x22E1171F, .rol .onTrue true 0x08B 0x11F),
      (0x22E5171F, .ror .onTrue true 0x08B 0x11F),
      (0x22E9171F, .bfx .onTrue true 0x08B 0x11F),
      (0x24C1171F, .clz .onTrue true 0x08B 0x11F),
      (0x24C5171F, .ctz .onTrue true 0x08B 0x11F),
      (0x24C9171F, .popc .onTrue true 0x08B 0x11F),
      (0x24CD171F, .brev .onTrue true 0x08B 0x11F),
      (0x24D1171F, .bswap .onTrue true 0x08B 0x11F),
      (0x24D5171F, .neg .onTrue true 0x08B 0x11F),
      (0x24D9171F, .not .onTrue true 0x08B 0x11F),
      (0x24DD171F, .sext8 .onTrue true 0x08B 0x11F),
      (0x24E1171F, .sext16 .onTrue true 0x08B 0x11F),
      (0x24E5171F, .sext32 .onTrue true 0x08B 0x11F)] : List (W32 × Instr)).all readsAs = true := by
  decide

theorem test_decode_zext8_to_tlt :
    ([(0x24E9171F, .zext8 .onTrue true 0x08B 0x11F),
      (0x24ED171F, .zext16 .onTrue true 0x08B 0x11F),
      (0x24F1171F, .zext32 .onTrue true 0x08B 0x11F),
      (0x40C3468B, .addi .onTrue true 0x1a3 0x08B),
      (0x40C7468B, .andi .onTrue true 0x1a3 0x08B),
      (0x40CB468B, .ori .onTrue true 0x1a3 0x08B),
      (0x40CF468B, .xori .onTrue true 0x1a3 0x08B),
      (0x40D3468B, .shli .onTrue true 0x1a3 0x08B),
      (0x40D7468B, .shri .onTrue true 0x1a3 0x08B),
      (0x40DB468B, .srai .onTrue true 0x1a3 0x08B),
      (0x40DF468B, .muli .onTrue true 0x1a3 0x08B),
      (0x60C1171F, .teq .onTrue true 0x08B 0x11F),
      (0x60C5171F, .tne .onTrue true 0x08B 0x11F),
      (0x60C9171F, .tlt .onTrue true 0x08B 0x11F)] : List (W32 × Instr)).all readsAs = true := by
  decide

theorem test_decode_tle_to_ldh :
    ([(0x60CD171F, .tle .onTrue true 0x08B 0x11F),
      (0x60D1171F, .tltu .onTrue true 0x08B 0x11F),
      (0x60D5171F, .tleu .onTrue true 0x08B 0x11F),
      (0x62C3468B, .teqi .onTrue true 0x1a3 0x08B),
      (0x62C7468B, .tnei .onTrue true 0x1a3 0x08B),
      (0x62CB468B, .tlti .onTrue true 0x1a3 0x08B),
      (0x62CF468B, .tlei .onTrue true 0x1a3 0x08B),
      (0x62D3468B, .tgti .onTrue true 0x1a3 0x08B),
      (0x62D7468B, .tgei .onTrue true 0x1a3 0x08B),
      (0x62DB468B, .tltui .onTrue true 0x1a3 0x08B),
      (0x62DF468B, .tgtui .onTrue true 0x1a3 0x08B),
      (0x80CF468B, .ldb .onTrue 0x13 0x1a3 0x08B),
      (0x82CF468B, .ldbx .onTrue 0x13 0x1a3 0x08B),
      (0x84CF468B, .ldh .onTrue 0x13 0x1a3 0x08B)] : List (W32 × Instr)).all readsAs = true := by
  decide

theorem test_decode_ldhx_to_amoor :
    ([(0x86CF468B, .ldhx .onTrue 0x13 0x1a3 0x08B),
      (0x88CF468B, .ldw .onTrue 0x13 0x1a3 0x08B),
      (0x8ACF468B, .ldwx .onTrue 0x13 0x1a3 0x08B),
      (0x8CCF468B, .ldd .onTrue 0x13 0x1a3 0x08B),
      (0x8ECF468B, .lda .onTrue 0x13 0x1a3 0x08B),
      (0x90CF4600, .stb .onTrue 0x13 0x1a3),
      (0x92CF4600, .sth .onTrue 0x13 0x1a3),
      (0x94CF4600, .stw .onTrue 0x13 0x1a3),
      (0x96CF4600, .std .onTrue 0x13 0x1a3),
      (0x98CF4600, .stl .onTrue 0x13 0x1a3),
      (0x9ACC268B, .amoadd .onTrue 0x13 .rel .die true 0x08B),
      (0x9ACC668B, .amoswp .onTrue 0x13 .rel .die true 0x08B),
      (0x9ACCA68B, .amoand .onTrue 0x13 .rel .die true 0x08B),
      (0x9ACCE68B, .amoor .onTrue 0x13 .rel .die true 0x08B)] : List (W32 × Instr)).all readsAs = true := by
  decide

theorem test_decode_amoxor_to_halt :
    ([(0x9ACD268B, .amoxor .onTrue 0x13 .rel .die true 0x08B),
      (0x9ACD668B, .amomin .onTrue 0x13 .rel .die true 0x08B),
      (0x9ACDA68B, .amomax .onTrue 0x13 .rel .die true 0x08B),
      (0x9ACDE68B, .amominu .onTrue 0x13 .rel .die true 0x08B),
      (0x9ACE268B, .amomaxu .onTrue 0x13 .rel .die true 0x08B),
      (0x9ACE668B, .amocas .onTrue 0x13 .rel .die 0x08B),
      (0x9CCC0400, .fence .onTrue 0x13 .die),
      (0xA0D9C3F1, .bri .onTrue 5 0x9c3f1),
      (0xA2D9C3F1, .calli .onTrue 5 0x9c3f1),
      (0xA4D00000, .br .onTrue 5),
      (0xA6D00000, .call .onTrue 5),
      (0xA8D9C3F1, .scall .onTrue 5 0x9c3f1),
      (0xAAD9C3F1, .trap .onTrue 5 0x9c3f1),
      (0xACD00000, .halt .onTrue 5)] : List (W32 × Instr)).all readsAs = true := by
  decide

theorem test_decode_eret_to_strPop :
    ([(0xAED00000, .eret .onTrue 5),
      (0xB0820A8B, .csrr .onTrue 0x105 0x08B),
      (0xB2820A00, .csrw .onTrue 0x105),
      (0xC082D000, .cfgLoad .onTrue 5 2 true),
      (0xC0868000, .cfgWr .onTrue 5),
      (0xC08AD08B, .cfgSwap .onTrue 5 2 true false 0x08B),
      (0xC08EC000, .cfgRetire .onTrue 5 2),
      (0xC092808B, .cfgStat .onTrue 5 0x08B),
      (0xC2829A8B, .strBind .onTrue 2 9 true false true 0x08B),
      (0xC2840200, .strGo .onTrue true),
      (0xC2880000, .strCancel .onTrue),
      (0xC28C008B, .strWait .onTrue 0x08B),
      (0xC2926800, .strPush .onTrue 9 2 true),
      (0xC296688B, .strPop .onTrue 9 2 true 0x08B)] : List (W32 × Instr)).all readsAs = true := by
  decide

theorem test_decode_strStat_to_xaStat :
    ([(0xC29B128B, .strStat .onTrue true 2 9 0x08B),
      (0xC482D000, .rgnArm .onTrue 5 5),
      (0xC4868000, .rgnFreeze .onTrue 5),
      (0xC48A8000, .rgnThaw .onTrue 5),
      (0xC48E8000, .rgnAbort .onTrue 5),
      (0xC492C08B, .rgnQuiet .onTrue 5 true 0x08B),
      (0xC496808B, .rgnStat .onTrue 5 0x08B),
      (0xC49A808B, .spawn .onTrue 5 0x08B),
      (0xC682C000, .xaClr .onTrue 5 true false),
      (0xC686D000, .xaDrain .onTrue 5 true false true),
      (0xC68AC000, .xaSpill .onTrue 5 true false),
      (0xC68EC000, .xaFill .onTrue 5 true false),
      (0xC692C000, .xaMerge .onTrue 5 true false),
      (0xC696808B, .xaStat .onTrue 5 0x08B)] : List (W32 × Instr)).all readsAs = true := by
  decide

theorem test_decode_markWait_to_fabs :
    ([(0xC882008B, .markWait .onTrue true 0x08B),
      (0xC8862600, .markRaise .onTrue true 0x13),
      (0xC888AA8B, .evtWait .onTrue 0x55 0x08B),
      (0xC88CAA00, .evtSignal .onTrue 0x55),
      (0xC890128B, .semWait .onTrue .rel .die 0x08B),
      (0xC894128B, .semPost .onTrue .rel .die 0x08B),
      (0xE081171F, .fadd .onTrue 0x08B 0x11F),
      (0xE085171F, .fsub .onTrue 0x08B 0x11F),
      (0xE089171F, .fmul .onTrue 0x08B 0x11F),
      (0xE08D171F, .fdiv .onTrue 0x08B 0x11F),
      (0xE091171F, .fsqrt .onTrue 0x08B 0x11F),
      (0xE095171F, .fmin .onTrue 0x08B 0x11F),
      (0xE099171F, .fmax .onTrue 0x08B 0x11F),
      (0xE09D171F, .fabs .onTrue 0x08B 0x11F)] : List (W32 × Instr)).all readsAs = true := by
  decide

theorem test_decode_fneg_to_fcvtFFp16 :
    ([(0xE0A1171F, .fneg .onTrue 0x08B 0x11F),
      (0xE281171F, .fcmpEq .onTrue 0x08B 0x11F),
      (0xE285171F, .fcmpLt .onTrue 0x08B 0x11F),
      (0xE289171F, .fcmpLe .onTrue 0x08B 0x11F),
      (0xE28D171F, .fcmpUn .onTrue 0x08B 0x11F),
      (0xE481171F, .fcvtS32F .onTrue 0x08B 0x11F),
      (0xE485171F, .fcvtS64F .onTrue 0x08B 0x11F),
      (0xE489171F, .fcvtFS32 .onTrue 0x08B 0x11F),
      (0xE48D171F, .fcvtFS64 .onTrue 0x08B 0x11F),
      (0xE491171F, .fcvtFN64 .onTrue 0x08B 0x11F),
      (0xE495171F, .fcvtBf16F .onTrue 0x08B 0x11F),
      (0xE499171F, .fcvtFBf16 .onTrue 0x08B 0x11F),
      (0xE49D171F, .fcvtFp16F .onTrue 0x08B 0x11F),
      (0xE4A1171F, .fcvtFFp16 .onTrue 0x08B 0x11F)] : List (W32 × Instr)).all readsAs = true := by
  decide

/-- Words under reserved opcodes and under predicate 11 (R176, R179): the ends of each range. -/
theorem test_reserved_words :
    ([0x00000000, 0x12000000, 0x1E000000, 0x26000000, 0x3E000000, 0x42000000, 0x5E000000, 0x64000000, 0x7E000000,
      0x9E000000, 0xB4000000, 0xBE000000, 0xCA000000, 0xDE000000, 0xE6000000, 0xFE000000, 0x03800000] : List W32).all
      (fun w => match decode w with | .ok _ => false | .error _ => true) = true := by
  decide

theorem witness_ReservedWordsRejected :
    (([0, 0x12000000, 0x1E000000, 0x26000000, 0x3E000000, 0x42000000, 0x5E000000, 0x64000000, 0x7E000000, 0x9E000000,
      0xB4000000, 0xBE000000, 0xCA000000, 0xDE000000, 0xE6000000, 0xFE000000] : List W32).map fun w => (unpack w).op.toNat) =
      [0, 0x09, 0x0F, 0x13, 0x1F, 0x21, 0x2F, 0x32, 0x3F, 0x4F, 0x5A, 0x5F, 0x65, 0x6F, 0x73, 0x7F] ∧
    (unpack 0x03800000).p = 3 := by
  decide

/-! ## Terms that WellFormed refuses: one for each of its checks -/

theorem test_ill_formed_body :
    ([.read .always 3 0x041 0, .read .always 3 0x081 0x001, .movi .always 5 0x001, .mov .always 0x0A1 0, .sel 0 0x001,
      .add .always true 0x060 0, .clz .always false 0x001 0, .addi .always false 1 0x001, .teq .always false 0 0x002,
      .teqi .always false 1 0x002, .ldd .always 0 0 0x041, .amoadd .always 0 .rlx .core false 0x041,
      .amocas .always 0 .rlx .core 0x041, .csrr .always 0x005 0x081, .csrr .always 0x000 0x041, .csrw .always 0x7FF,
      .cfgSwap .always 0 0 false false 0x041, .cfgStat .always 0 0x041, .strBind .always 0 0 false false false 0x041,
      .strWait .always 0x041, .strPop .always 0 0 false 0x041, .strStat .always false 0 0 0x041,
      .rgnQuiet .always 0 false 0x041, .rgnStat .always 0 0x041, .spawn .always 0 0x041, .xaStat .always 0 0x041,
      .markWait .always false 0x041, .evtWait .always 64 0x041, .semWait .always .rlx .core 0x041,
      .semPost .always .rlx .core 0x041, .fadd .always 0x041 0, .fcvtS32F .always 0 0x041] : List Instr).all
      (fun i => !wellFormed i) = true := by
  decide

theorem test_ill_formed_steps :
    ([.blockFetch 160 0, .blockFetch 0 4, .engineAccept 0 0 32, .swapTakesEffect 0 16, .loaderServe 160, .pass 160 0,
      .pass 0 256, .squashArrival 0 0 8, .donePulse 0 0 8, .xaCommandComplete 160 1, .freezeWave 0 16,
      .thawInstall 256 0 0, .abortComplete 0 160 0, .spawnQueueService 256, .endRelease 160 0, .streamMove 0 64,
      .walk 4 0, .stagingSweep 4, .markApply 160, .teaselWake 20, .launch 20] : List Instr).all
      (fun i => !wellFormed i) = true := by
  decide

def aBurst : HostCmd :=
  { channel := 0, lead := .activate 0, bank := 0, col := 0, bl32 := false, reserved := false }

theorem test_ill_formed_host :
    ([.hostRead { aBurst with channel := 2 }, .hostRead { aBurst with lead := .activate 0x20000 }, .hostRead { aBurst with bank := 16 },
      .hostRead { aBurst with col := 1024 }, .hostWrite aBurst [] [], .hostWrite aBurst (List.replicate 32 0) [],
      .refresh 2, .powerDown 2 true, .qtailWrite 20 0 0xFF, .markwWrite 16 0 0xFF, .limitWrite 0 3 0 0xFF,
      .bctlWrite 16 0 0xFF, .registerWrite 0x10000 0 0xFF, .flitReceive 8 false 0, .flitReceive 0 false 4,
      .linkdown 8, .powerEstimate 0 []] : List Instr).all
      (fun i => !wellFormed i) = true := by
  decide

theorem test_well_formed :
    ([.read .always 31 0x19F 0x100, .csrr .onTrue 0x10F 0, .blockFetch 159 3, .pass 159 255, .streamMove 0 63,
      .hostWrite aBurst (List.replicate 32 7) (List.replicate 32 true), .registerWrite 0xFFFF 0 1,
      .powerEstimate 0 [1, 2, 3, 4, 5]] : List Instr).all wellFormed = true := by
  decide

/-! ## Encoding, the step and memory -/

theorem witness_DecodeOfEncode :
    wellFormed (.ldd .onTrue 5 0x008 0x100) = true ∧ encode (.ldd .onTrue 5 0x008 0x100) = some 0x8C941100#32 := by
  decide

theorem witness_EncodeOfDecode : decode 0x8C941100#32 = .ok (.ldd .onTrue 5 0x008 0x100) := rfl

/-- ADDI.w in flight, its operand there, named by the agenda. -/
def toFire : State := { about (.addi .always true (-1) 0x081) 7 0 1 with agenda := [.cp 0 0] }

theorem witness_StepRunsDecodedWord_cp :
    toFire.agenda = .cp 0 0 :: [] ∧ ({ toFire with agenda := [] } : State).readyWord 0 0 = some (0, 0x4043FE81#32) ∧
    decode 0x4043FE81#32 = .ok (.addi .always true (-1) 0x081) := by
  refine ⟨rfl, ?_, rfl⟩; decide

theorem test_step_fires_word : sent (step toFire) = some 6 := by decide

theorem witness_StepRunsDecodedWord_ev :
    ({ State.reset with agenda := [.ev .powerOn] } : State).agenda = .ev .powerOn :: [] := rfl

theorem witness_PlacedWordRuns : decode (BitVec.ofNat 32 0x4043FE81) = .ok (.addi .always true (-1) 0x081) := rfl

theorem test_placed_word_runs : sent (step (State.reset.withFetchWord 32 0x4043FE81)) = some (-1) := by decide

theorem witness_StepKeepsMemory : MemOk State.reset ∧ leads (step State.reset) (fun _ => true) = true :=
  ⟨rfl, by decide +kernel⟩

/-! ## Integer, test and F32 results, worked out by hand -/

theorem witness_operands (a b p : Word) (i : Instr) :
    FiresAt (about i a b p) .always (hereOf member (solo i a b p)) ∧ (hereOf member (solo i a b p)).a = some a ∧
    (hereOf member (solo i a b p)).b = some b := ⟨⟨rfl, rfl⟩, rfl, rfl⟩

theorem test_predicates :
    FiresAt (about .powerOn 0 0 1) .onTrue (hereOf member (solo .powerOn 0 0 1)) ∧
    FiresAt (about .powerOn 0 0 2) .onFalse (hereOf member (solo .powerOn 0 0 2)) ∧
    exec (.add .onTrue false 0x081 0) (about .powerOn 1 1 2) = .next (about .powerOn 1 1 2) :=
  ⟨⟨rfl, rfl⟩, ⟨rfl, rfl⟩, rfl⟩

theorem test_arithmetic :
    ([(.add .always false 0x081 0, 0xFFFFFFFFFFFFFFFF, 2, 1), (.add .always true 0x081 0, 0x7FFFFFFF, 1, 0xFFFFFFFF80000000),
      (.sub .always false 0x081 0, 3, 5, 0xFFFFFFFFFFFFFFFE), (.mul .always true 0x081 0, 0x10000, 0x10001, 0x10000),
      (.mulh .always false 0x081 0, 0xFFFFFFFFFFFFFFFF, 2, 0xFFFFFFFFFFFFFFFF), (.mulhu .always false 0x081 0, 0xFFFFFFFFFFFFFFFF, 2, 1),
      (.div .always false 0x081 0, 0xFFFFFFFFFFFFFFF9, 2, 0xFFFFFFFFFFFFFFFD), (.div .always true 0x081 0, 0x80000000, 0xFFFFFFFF, 0xFFFFFFFF80000000),
      (.divu .always false 0x081 0, 9, 0, 0xFFFFFFFFFFFFFFFF), (.divu .always true 0x081 0, 0x1_0000_0009, 2, 4),
      (.rem .always false 0x081 0, 0xFFFFFFFFFFFFFFF9, 2, 0xFFFFFFFFFFFFFFFF), (.remu .always false 0x081 0, 9, 0, 9),
      (.min .always false 0x081 0, 0xFFFFFFFFFFFFFFFF, 1, 0xFFFFFFFFFFFFFFFF), (.max .always true 0x081 0, 0x80000000, 1, 1),
      (.minu .always false 0x081 0, 0xFFFFFFFFFFFFFFFF, 1, 1), (.maxu .always true 0x081 0, 0x80000000, 1, 0xFFFFFFFF80000000)]).all
      yields = true := by
  decide

theorem test_logic :
    ([(.and .always false 0x081 0, 12, 10, 8), (.or .always false 0x081 0, 12, 10, 14), (.xor .always true 0x081 0, 0x80000000, 0, 0xFFFFFFFF80000000),
      (.andn .always false 0x081 0, 12, 10, 4), (.orn .always false 0x081 0, 0, 1, 0xFFFFFFFFFFFFFFFE),
      (.shl .always false 0x081 0, 3, 63, 0x8000000000000000), (.shl .always true 0x081 0, 1, 32, 0), (.shr .always true 0x081 0, 0xFFFFFFFF80000000, 31, 1),
      (.shr .always false 0x081 0, 1, 0x100000000, 0), (.sra .always false 0x081 0, 0x8000000000000000, 100, 0xFFFFFFFFFFFFFFFF),
      (.rol .always true 0x081 0, 0x80000001, 33, 3), (.ror .always false 0x081 0, 1, 1, 0x8000000000000000),
      (.bfx .always false 0x081 0, 0xABCD, 0x0804, 0xBC), (.bfx .always true 0x081 0, 0xABCD, 0x0820, 0)]).all
      yields = true := by
  decide

theorem test_unary :
    ([(.clz .always false 0x081 0, 1, 0, 63), (.clz .always true 0x081 0, 0, 0, 32), (.ctz .always false 0x081 0, 8, 0, 3),
      (.ctz .always true 0x081 0, 0, 0, 32), (.popc .always true 0x081 0, 0xFFFFFFFF_000000FF, 0, 8), (.brev .always false 0x081 0, 1, 0, 0x8000000000000000),
      (.bswap .always false 0x081 0, 0x0102030405060708, 0, 0x0807060504030201), (.bswap .always true 0x081 0, 0x80, 0, 0xFFFFFFFF80000000),
      (.neg .always false 0x081 0, 1, 0, 0xFFFFFFFFFFFFFFFF), (.not .always true 0x081 0, 0, 0, 0xFFFFFFFFFFFFFFFF),
      (.sext8 .always false 0x081 0, 0x180, 0, 0xFFFFFFFFFFFFFF80), (.sext16 .always true 0x081 0, 0x8000, 0, 0xFFFFFFFFFFFF8000),
      (.sext32 .always false 0x081 0, 0x80000000, 0, 0xFFFFFFFF80000000), (.zext8 .always false 0x081 0, 0x1FF, 0, 0xFF),
      (.zext16 .always false 0x081 0, 0x1FFFF, 0, 0xFFFF), (.zext32 .always false 0x081 0, 0xFFFFFFFFFFFFFFFF, 0, 0xFFFFFFFF)]).all
      yields = true := by
  decide

theorem test_immediates :
    ([(.addi .always false (-256) 0x081, 1, 0, 0xFFFFFFFFFFFFFF01), (.andi .always false (-2) 0x081, 7, 0, 6),
      (.ori .always true 255 0x081, 0x100, 0, 0x1FF), (.xori .always false (-1) 0x081, 0, 0, 0xFFFFFFFFFFFFFFFF),
      (.shli .always false 63 0x081, 1, 0, 0x8000000000000000), (.shli .always false (-1) 0x081, 1, 0, 0),
      (.shri .always true 4 0x081, 0xF0, 0, 0xF), (.srai .always true 31 0x081, 0x80000000, 0, 0xFFFFFFFFFFFFFFFF),
      (.muli .always false (-3) 0x081, 5, 0, 0xFFFFFFFFFFFFFFF1)]).all
      yields = true := by
  decide

theorem test_tests :
    ([(.teq .always true 0x081 0, 0x1_0000_0005, 5, 1), (.tne .always false 0x081 0, 5, 5, 0), (.tlt .always false 0x081 0, 0xFFFFFFFFFFFFFFFF, 0, 1),
      (.tle .always false 0x081 0, 5, 5, 1), (.tltu .always false 0x081 0, 0xFFFFFFFFFFFFFFFF, 0, 0), (.tleu .always true 0x081 0, 0x1_0000_0000, 0, 1),
      (.teqi .always false (-1) 0x081, 0xFFFFFFFFFFFFFFFF, 0, 1), (.tnei .always true (-1) 0x081, 0xFFFFFFFF, 0, 0),
      (.tlti .always false 0 0x081, 0x8000000000000000, 0, 1), (.tlei .always false 4 0x081, 5, 0, 0), (.tgti .always false (-1) 0x081, 0, 0, 1),
      (.tgei .always false 5 0x081, 5, 0, 1), (.tltui .always false (-1) 0x081, 5, 0, 1), (.tgtui .always false 4 0x081, 5, 0, 1)]).all
      yields = true := by
  decide

theorem test_float :
    ([(.fadd .always 0x081 0, 0x3F800000, 0x40000000, 0x40400000), (.fsub .always 0x081 0, 0x3F800000, 0x3F800000, 0),
      (.fmul .always 0x081 0, 0x40400000, 0xC0000000, 0xC0C00000), (.fdiv .always 0x081 0, 0x3F800000, 0, 0x7F800000),
      (.fsqrt .always 0x081 0, 0x40800000, 0, 0x40000000), (.fmin .always 0x081 0, 0x80000000, 0, 0x80000000),
      (.fmax .always 0x081 0, 0x3F800000, 0xBF800000, 0x3F800000), (.fabs .always 0x081 0, 0xFFFFFFFF_BF800000, 0, 0x3F800000),
      (.fneg .always 0x081 0, 0x3F800000, 0, 0xBF800000), (.fcmpEq .always 0x081 0, 0, 0x80000000, 1),
      (.fcmpLt .always 0x081 0, 0xBF800000, 0x3F800000, 1), (.fcmpLe .always 0x081 0, 0x7FC00000, 0x7FC00000, 0),
      (.fcmpUn .always 0x081 0, 0x7FC00000, 0, 1)]).all
      yields = true := by
  decide +kernel

/-- Operands of FEXP2 and FLOG2 in each clause: 3.0, 1.0, -0.5, -0.0, infinities and NaN, under no flushing. -/
theorem witness_FloatResults :
    f32.int (FCtl.reads ⟨0, false, false⟩ 0x40400000) = ((152 : Nat) - 149 : Int) * 2 ^ 149 ∧
    f32.int (FCtl.reads ⟨0, false, false⟩ 0x3F800000) = 2 ^ 149 ∧ f32.int (FCtl.reads ⟨0, false, false⟩ 1) = 2 ^ 0 ∧
    f32.isNan 0x3F800000 = false ∧ f32.isInf 0x3F800000 = false ∧ f32.isNan 0x7FC00000 = true ∧ f32.isInf 0xFF800000 = true ∧
    f32.mag (FCtl.reads ⟨0, false, false⟩ 0x80000000) = 0 ∧ f32.neg 0xBF000000 = true ∧
    f32.mag (FCtl.reads ⟨0, false, false⟩ 0xBF000000) ≠ 0 := by
  decide +kernel

theorem test_conversions :
    ([(.fcvtS32F .always 0x081 0, 0xCF800000, 0, 0xFFFFFFFF80000000), (.fcvtS64F .always 0x081 0, 0xC0000000, 0, 0xFFFFFFFFFFFFFFFE),
      (.fcvtFS32 .always 0x081 0, 0xFFFFFFFF, 0, 0xBF800000), (.fcvtFS64 .always 0x081 0, 0x8000000000000000, 0, 0xDF000000),
      (.fcvtFN64 .always 0x081 0, 0x8000000000000000, 0, 0x5F000000), (.fcvtBf16F .always 0x081 0, 0x3F808000, 0, 0x3F80),
      (.fcvtFBf16 .always 0x081 0, 0x3F80, 0, 0x3F800000), (.fcvtFp16F .always 0x081 0, 0x3F800000, 0, 0x3C00),
      (.fcvtFFp16 .always 0x081 0, 0x0001, 0, 0x33800000)]).all
      yields = true := by
  decide +kernel

/-! ## Registers and moves -/

/-- g3 under the member's generation, g4 under another with poison, g5 under its own with poison. -/
def withRegs : Ctx :=
  { member with regs := [(3, { val := 9, tag := 1 }), (4, { val := 8, tag := 2, poison := true }), (5, { tag := 1, poison := true })] }

def regState (i : Instr) : State := device (within withRegs (solo i 7 6 1)) {}

/-- The same member under STRICT, and a block in which g3 is resolved. -/
def strictRegs : Ctx := { withRegs with strict := true }
def resolved3 (i : Instr) : Block := { solo i 7 6 1 with regw := [(3, none)] }

theorem witness_MovesAndRegisters :
    FiresAt (regState (.read .always 3 0x081 0)) .always (hereOf withRegs (solo (.read .always 3 0x081 0) 7 6 1)) ∧
    (withRegs.reg 3).tag = withRegs.gen ∧ (withRegs.reg 3).poison = false ∧
    (withRegs.reg 4).tag ≠ withRegs.gen ∧ withRegs.strict = false ∧
    (solo (.sel 0x081 0) 7 6 1).slotP.look 0 = some 1 ∧ (solo (.write .always 3) 7 6 1).regw.look 3 = none :=
  ⟨⟨rfl, rfl⟩, rfl, rfl, by decide, rfl, rfl, rfl⟩

theorem witness_MovesAndRegisters_traps :
    FiresAt (device (within strictRegs (solo (.read .always 4 0x081 0) 7 6 1)) {}) .always
      (hereOf strictRegs (solo (.read .always 4 0x081 0) 7 6 1)) ∧
    (strictRegs.reg 4).tag ≠ strictRegs.gen ∧ (withRegs.reg 5).tag = withRegs.gen ∧ (withRegs.reg 5).poison = true ∧
    FiresAt (device (within withRegs (resolved3 (.nullw .always 3))) {}) .always (hereOf withRegs (resolved3 (.nullw .always 3))) ∧
    ((resolved3 (.nullw .always 3)).regw.look 3).isSome = true :=
  ⟨⟨rfl, rfl⟩, by decide, rfl, rfl, ⟨rfl, rfl⟩, rfl⟩

theorem test_moves :
    ([(.movi .always (-2) 0x081, 0, 0, 0xFFFFFFFFFFFFFFFE), (.appi .always 0x3FFF 0x081, 1, 0, 0x7FFF), (.mov .always 0x081 0, 5, 0, 5),
      (.sel 0x081 0, 5, 6, 5)]).all yields = true := by
  decide

theorem test_registers :
    sent (exec (.read .always 3 0x081 0) (regState (.read .always 3 0x081 0))) = some 9 ∧
    sent (exec (.read .always 4 0x081 0) (regState (.read .always 4 0x081 0))) = some 0 ∧
    (blockAfter (exec (.write .always 3) (regState (.write .always 3)))).map (·.regw) = some [(3, some 7)] ∧
    (blockAfter (exec (.nullw .always 3) (regState (.nullw .always 3)))).map (·.regw) = some [(3, none)] := by
  decide

/-- A register of a fresh context under which the core's FEAT0 is known. -/
theorem witness_ControlRegisters :
    FiresAt (about (.csrr .always 0x10F 0x081) 5 0 1) .always (hereOf member (solo (.csrr .always 0x10F 0x081) 5 0 1)) ∧
    member.alloc < 256 ∧ (0x10F : BitVec 12) = BitVec.ofNat 12 (0x100 + 15) ∧
    ({ about (.csrr .always 0x010 0x081) 5 0 1 with feat0 := [(0, 6)] } : State).feat0.look 0 = some 6 :=
  ⟨⟨rfl, rfl⟩, by decide, rfl, rfl⟩

theorem test_control_registers :
    sent (exec (.csrr .always 0x004 0x081) (about (.csrr .always 0x004 0x081) 5 0 1)) = some 0xFFFD000000000040 ∧
    (blockAfter (exec (.csrw .always 0x001) (about (.csrw .always 0x001) 5 0 1))).map (·.csrw) = some [(0, (0x001, 5))] := by
  decide

/-! ## Memory instructions -/

/-- A partition address that is no virtual one has no page to look up. -/
theorem goes_part {s : State} {h : Here} {k : AccKind} {n o : Nat} {a : Word} (f : addrForm a = .part o)
    (g : h.ctx.checkAddr {} a n n = none) : MemGoes s h k n a :=
  ⟨g, fun va e hv _ => by rw [f] at hv; cases hv⟩

/-- The one access that a word issues: its kind, address, size, data and whether it acquires and releases. -/
def issues (i : Instr) (a b : Word) (k : AccKind) (addr : Word) (n : Nat) (data : List Byte) (acq rel : Bool) : Bool :=
  leads (exec i (about i a b 1)) fun t =>
    match t.accesses with
    | [x] => x.kind == k && x.addr == addr && x.size == n && x.data == data && x.acq == acq && x.rel == rel
    | _ => false

theorem witness_LoadsAndStoresIssue :
    FiresAt (about (.ldw .always 2 (-4) 0x081) 0xFFFD000000000204 7 1) .always (hereOf member (solo (.ldw .always 2 (-4) 0x081) 0xFFFD000000000204 7 1)) ∧
    MemAlone (hereOf member (solo (.ldw .always 2 (-4) 0x081) 0xFFFD000000000204 7 1)) (.ldw .always 2 (-4) 0x081) 2 ∧
    MemGoes (about (.ldw .always 2 (-4) 0x081) 0xFFFD000000000204 7 1) (hereOf member (solo (.ldw .always 2 (-4) 0x081) 0xFFFD000000000204 7 1))
      .load 4 (0xFFFD000000000204 + (-4 : BitVec 9).signExtend 64) ∧
    MemAlone (hereOf member (solo (.stb .always 2 0) 0xFFFD000000000204 7 1)) (.stb .always 2 0) 2 ∧
    MemGoes (about (.stb .always 2 0) 0xFFFD000000000FFF 7 1) (hereOf member (solo (.stb .always 2 0) 0xFFFD000000000FFF 7 1))
      .store 1 (0xFFFD000000000FFF + (0 : BitVec 9).signExtend 64) :=
  ⟨⟨rfl, rfl⟩, ⟨_, rfl, rfl, rfl, rfl, by decide, by decide⟩, goes_part (o := 0x200) (by decide) (by decide),
    ⟨_, rfl, rfl, rfl, rfl, by decide, by decide⟩, goes_part (o := 0xFFF) (by decide) (by decide)⟩

/-- A store of LSID 1 at word 0 and a load of LSID 2 at word 1, which has fired, of a block whose mask names both; and the
load at word 0, the store behind it not fired. -/
def storeThenLoad : Block :=
  { solo (.stw .always 1 0) 0xFFFD000000000200 7 1 with
    words := [(encode (.stw .always 1 0)).getD 0, (encode (.ldw .always 2 4 0x081)).getD 0], smask := 6, fired := [1],
    ops := [(1, .ldw .always 2 4 0x081)], slotA := [(0, 0xFFFD000000000200), (1, 0xFFFD000000000FF8)] }
def loadBeforeStore : Block :=
  { solo (.ldw .always 2 4 0x081) 0xFFFD000000000200 7 1 with
    words := [(encode (.ldw .always 2 4 0x081)).getD 0, (encode (.stw .always 1 0)).getD 0], smask := 6 }

theorem witness_LoadsAndStoresIssue_held :
    FiresAt (device (within member loadBeforeStore) {}) .always (hereOf member loadBeforeStore) ∧
    (hereOf member loadBeforeStore).a = some 0xFFFD000000000200 ∧ (hereOf member loadBeforeStore).b = some 7 ∧
    (.ldw .always 2 4 0x081, .load, 4, false, false) ∈ plainMems .always 2 4 0x081 ∧
    WordIs loadBeforeStore 0 (.ldw .always 2 4 0x081) ∧ (2 : BitVec 5).toNat ∉ loadBeforeStore.nulled ∧
    loadBeforeStore.smask.getLsbD 1 = true ∧ loadBeforeStore.lsidKnown 1 = false ∧
    (loadBeforeStore.memWords.map (·.1)) = [0, 1] ∧ loadBeforeStore.fired = [] :=
  ⟨⟨rfl, rfl⟩, rfl, rfl, by decide, ⟨_, rfl, rfl⟩, by decide, by decide, by decide, by decide, rfl⟩

theorem witness_LoadsAndStoresIssue_pair :
    FiresAt (device (within member storeThenLoad) {}) .always (hereOf member storeThenLoad) ∧
    (hereOf member storeThenLoad).a = some 0xFFFD000000000200 ∧ (hereOf member storeThenLoad).b = some 7 ∧
    (.stw .always 1 0, .store, 4, false, false) ∈ plainMems .always 1 0 0 ∧
    (.ldw .always 2 4 0x081, .load, 4, false, false) ∈ plainMems .always 2 4 0x081 ∧
    WordIs storeThenLoad 0 (.stw .always 1 0) ∧ WordIs storeThenLoad 1 (.ldw .always 2 4 0x081) ∧
    storeThenLoad.waitOver = true ∧ (storeThenLoad.memWords.map (·.1)) = [0, 1] ∧
    (∀ j, j < 2 → storeThenLoad.smask.getLsbD j = true → j = 1) ∧
    addrForm (0xFFFD000000000200 + (0 : BitVec 9).signExtend 64) = .part 0x200 ∧
    member.checkAddr {} (0xFFFD000000000200 + (0 : BitVec 9).signExtend 64) 4 4 = none ∧
    addrForm (0xFFFD000000000FF8 + (4 : BitVec 9).signExtend 64) = .part 0xFFC ∧
    member.checkAddr {} (0xFFFD000000000FF8 + (4 : BitVec 9).signExtend 64) 4 4 = none := by
  refine ⟨⟨rfl, rfl⟩, rfl, rfl, ?_, ?_, ⟨_, rfl, rfl⟩, ⟨_, rfl, rfl⟩, ?_, ?_, ?_, ?_, ?_, ?_, ?_⟩ <;> decide

theorem test_pair_issues :
    leads (exec (.stw .always 1 0) (device (within member storeThenLoad) {})) (fun t =>
      t.accesses.map (fun x => (x.order, x.addr, x.size)) == [(1, 0xFFFD000000000200, 4), (2, 0xFFFD000000000FFC, 4)]) = true ∧
    leads (exec (.ldw .always 2 4 0x081) (device (within member loadBeforeStore) {})) (fun t => t.accesses.isEmpty) = true := by
  decide

theorem test_loads_issue :
    ([(.ldb .always 0 8 0x081, 1, false), (.ldbx .always 0 8 0x081, 1, false), (.ldh .always 0 8 0x081, 2, false),
      (.ldhx .always 0 8 0x081, 2, false), (.ldw .always 0 8 0x081, 4, false), (.ldwx .always 0 8 0x081, 4, false),
      (.ldd .always 0 8 0x081, 8, false), (.lda .always 0 8 0x081, 8, true)] : List (Instr × Nat × Bool)).all
      (fun e => issues e.1 0xFFFD000000000200 0 .load 0xFFFD000000000208 e.2.1 [] e.2.2 false) = true := by
  decide

theorem test_stores_issue :
    ([(.stb .always 0 8, [1], false), (.sth .always 0 8, [1, 2], false), (.stw .always 0 8, [1, 2, 3, 4], false),
      (.std .always 0 8, [1, 2, 3, 4, 5, 6, 7, 8], false), (.stl .always 0 8, [1, 2, 3, 4, 5, 6, 7, 8], true)] :
        List (Instr × List Byte × Bool)).all
      (fun e => issues e.1 0xFFFD000000000200 0x0807060504030201 .store 0xFFFD000000000208 e.2.1.length e.2.1 false e.2.2) =
        true := by
  decide

theorem witness_AtomicsAndFenceIssue :
    MemAlone (hereOf member (solo (.amoadd .always 2 .ar .die true 0x081) 0xFFFD000000000204 7 1)) (.amoadd .always 2 .ar .die true 0x081) 2 ∧
    MemGoes (about (.amoadd .always 2 .ar .die true 0x081) 0xFFFD000000000204 7 1)
      (hereOf member (solo (.amoadd .always 2 .ar .die true 0x081) 0xFFFD000000000204 7 1)) (.atomic .add) 4 0xFFFD000000000204 ∧
    MemAlone (hereOf member (solo (.fence .always 2 .die) 0 0 1)) (.fence .always 2 .die) 2 :=
  ⟨⟨_, rfl, rfl, rfl, rfl, by decide, by decide⟩, goes_part (o := 0x204) (by decide) (by decide),
    ⟨_, rfl, rfl, rfl, rfl, by decide, by decide⟩⟩

theorem test_atomics_issue :
    ([(.amoadd .always 0 .acq .die false 0x081, .add, 8, true, false), (.amoswp .always 0 .rel .die false 0x081, .swap, 8, false, true),
      (.amoand .always 0 .rlx .die false 0x081, .and, 8, false, false), (.amoor .always 0 .ar .die false 0x081, .or, 8, true, true),
      (.amoxor .always 0 .rlx .die false 0x081, .xor, 8, false, false), (.amomin .always 0 .rlx .die true 0x081, .min, 4, false, false),
      (.amomax .always 0 .rlx .die true 0x081, .max, 4, false, false), (.amominu .always 0 .rlx .die true 0x081, .minu, 4, false, false),
      (.amomaxu .always 0 .rlx .die true 0x081, .maxu, 4, false, false), (.amocas .always 0 .rlx .die 0x081, .cas, 4, false, false)] :
        List (Instr × AOp × Nat × Bool × Bool)).all
      (fun e => issues e.1 0xFFFD000000000200 1 (.atomic e.2.1) 0xFFFD000000000200 e.2.2.1 [1, 0, 0, 0, 0, 0, 0, 0]
        e.2.2.2.1 e.2.2.2.2) = true ∧
    issues (.fence .always 0 .die) 0 0 .fence 0 0 [] false false = true := by
  decide

theorem witness_NullsResolves :
    FiresAt (about (.nulls .always 5) 0 0 1) .always (hereOf member (solo (.nulls .always 5) 0 0 1)) ∧
    (solo (.nulls .always 5) 0 0 1).memWords = [] ∧ (solo (.nulls .always 5) 0 0 1).lsidKnown 5 = false ∧
    ({ solo (.nulls .always 5) 0 0 1 with nulled := [5] } : Block).lsidKnown 5 = true := by
  refine ⟨⟨rfl, rfl⟩, ?_, ?_, ?_⟩ <;> decide

/-- The cause of the trap that a step has taken. -/
def trapped (o : Host.Outcome State Fault Refusal) : Option (BitVec 8) :=
  match o with
  | .next t => (t.ctx? 0 0).bind fun q => if q.inh && q.block.isNone && q.next == 0xFFFD000000000040 then some q.cause else none
  | .fault _ => none
  | .refused _ => none

theorem test_nulls :
    (blockAfter (exec (.nulls .always 5) (about (.nulls .always 5) 0 0 1))).map (·.nulled) = some [5] ∧
    trapped (exec (.nulls .always 5) (device (within member { solo (.nulls .always 5) 0 0 1 with nulled := [5] }) {})) =
      some 0x08 := by
  decide

/-! ## Exits -/

/-- A member in its handler, which may return to offset 0x300. -/
def handling : Ctx := { member with epc := 0xFFFD000000000300 }

theorem witness_ExitsRecord :
    FiresAt (about (.bri .always 2 4) 0 0 1) .always (hereOf member (solo (.bri .always 2 4) 0 0 1)) ∧
    (solo (.bri .always 2 4) 0 0 1).exit = none ∧
    member.blockAddrOk (0xFFFD000000000100 + (4 : BitVec 20).signExtend 64 * 4) = true ∧
    member.blockAddrOk 0xFFFD000000000200 = true ∧ member.inh = false ∧
    (hereOf handling (solo (.eret .always 0) 0 0 1)).epc = some 0xFFFD000000000300 ∧
    handling.blockAddrOk 0xFFFD000000000300 = true ∧ (solo (.eret .always 0) 0 0 1).csrw = [] ∧
    (solo (.eret .always 0) 0 0 1).epcOpen = false :=
  ⟨⟨rfl, rfl⟩, rfl, by decide, by decide, rfl, by decide, by decide, rfl, by decide⟩

theorem test_exits :
    ([.bri .always 1 4, .calli .always 2 0xFFFFF, .br .always 3, .call .always 4, .scall .always 5 9, .trap .always 6 9,
      .halt .always 7, .eret .always 0] : List Instr).map
      (fun i => ((blockAfter (exec i (device (within handling (solo i 0xFFFD000000000200 0 1)) {}))).bind (·.exit)).map
        fun e => (e.no, e.kind, e.next)) =
    [some (1, .branch, 0xFFFD000000000110), some (2, .call, 0xFFFD0000000000FC), some (3, .branch, 0xFFFD000000000200),
      some (4, .call, 0xFFFD000000000200), some (5, .scall 9, 0), some (6, .trap 9, 0), some (7, .halt, 0),
      some (0, .eret, 0xFFFD000000000300)] := by
  decide

/-- One state for each clause of the statement on exits that fault. -/
theorem witness_ExitFaultsTrap :
    ({ solo (.halt .always 0) 0 0 1 with exit := some { no := 1, idx := 5, kind := .halt, next := 0 } } : Block).exit.isSome = true ∧
    member.blockAddrOk (0xFFFD000000000100 + (0x80000 : BitVec 20).signExtend 64 * 4) = false ∧
    member.blockAddrOk 0xFFFD000000001000 = false ∧ member.blockAddrOk 0xFFFD000000000102 = false ∧
    (hereOf member (solo (.eret .always 0) 0 0 1)).epc = some member.epc ∧ member.blockAddrOk member.epc = false ∧
    ({ member with inh := true } : Ctx).inh = true := by
  decide

theorem test_exit_faults :
    trapped (exec (.halt .always 0) (device (within member
      { solo (.halt .always 0) 0 0 1 with exit := some { no := 1, idx := 5, kind := .halt, next := 0 } }) {})) = some 0x0B ∧
    trapped (exec (.bri .always 0 0x80000) (about (.bri .always 0 0x80000) 0 0 1)) = some 0x0C ∧
    trapped (exec (.br .always 0) (about (.br .always 0) 0xFFFD000000001000 0 1)) = some 0x0C ∧
    leads (exec (.scall .always 0 9) (device (within { member with inh := true } (solo (.scall .always 0 9) 0 0 1)) {}))
      (fun t => t.faultQ.map (fun f => (f.cause, f.fatal)) == [(0x0D, true)] &&
        (t.alloc? 0).map (fun a => (a.st, a.aborting)) == some (.ending, true)) = true := by
  decide

/-! ## Blocks -/

/-- A block of MOVI and HALT at offset 0x100 of the partition, as the assembler would lay it out: header, masks, words. -/
def withCode (bytes : List Byte) (tag : BitVec 12) : State :=
  { device member {} with mem := Memory.writeN [] (member.partPlace 0 0x100) bytes, gran := [(member.partPlace 0 0x100 / 64, { tag })] }

/-- H0 = 0xA0800000 (two words), no masks, MOVI 5, HALT of exit 0 (R174, R208, R228). -/
def goodBlock : List Byte :=
  leBytes 0xA0800000 4 ++ leBytes 0 4 ++ leBytes 0 4 ++ leBytes 0x06000A00 4 ++ leBytes 0xAC000000 4

/-- The same with the reserved opcode 0x7F in word 0. -/
def badBlock : List Byte :=
  leBytes 0xA0800000 4 ++ leBytes 0 4 ++ leBytes 0 4 ++ leBytes 0xFE000000 4 ++ leBytes 0xAC000000 4

theorem witness_FetchBeginsTheBlock :
    (withCode goodBlock 1).ctx? 0 0 = some member ∧ ((withCode goodBlock 1).core 0).fetchTurn 0 = true ∧ addrForm member.next = .part 0x100 ∧ 0x100 + 12 + 4 * 2 ≤ member.psize ∧
    Machine.sizeOf (w32At (Memory.readN (withCode goodBlock 1).mem (member.partPlace 0 0x100) 12) 0) + 1 = 2 ∧
    bitsOf (w32At (Memory.readN (withCode goodBlock 1).mem (member.partPlace 0 0x100) 12) 0).toNat 28 4 = 0xA ∧
    OwnLines (withCode goodBlock 1) 1 (member.partPlace 0 0x100) 12 ∧
    OwnLines (withCode goodBlock 1) 1 (member.partPlace 0 0x10C) 8 ∧
    blockCause 0xA0800000 0 0 [0x06000A00, 0xAC000000] = none ∧
    blockCause 0xA0800000 0 0 [0xFE000000, 0xAC000000] = some (some 0, 0x05) ∧
    blockCause 0xA0900000 0 0 [0x06000A00, 0xAC000000] = some (none, 0x02) := by
  unfold OwnLines; decide +kernel

theorem test_fetch :
    (blockAfter (exec (.blockFetch 0 0) (withCode goodBlock 1))).map (fun b => (b.words, b.addr)) =
      some ([0x06000A00, 0xAC000000], 0xFFFD000000000100) ∧
    leads (exec (.blockFetch 0 0) (withCode badBlock 1)) (fun t => (t.ctx? 0 0).map (fun q => (q.cause, q.tval)) ==
      some (0x05, 0xFE000000)) = true := by
  decide +kernel

/-- A block whose HALT, or other exit, has fired: WRITE g3 := 7 and NULLW g4 (R182, R186). -/
def done_ (k : ExitKind) : Block :=
  { addr := 0xFFFD_0000_0000_0100, h0 := 0xA1000000, wmask := 0x18, words := [0x04CC0000, 0x0E100000, 0xAC000000], fired := [2, 1, 0],
    regw := [(3, some 7), (4, none)], exit := some { no := 5, idx := 2, kind := k, next := 0xFFFD_0000_0000_0200 } }

def holdsRegs : Ctx := { member with regs := [(3, { val := 1, tag := 1 }), (4, { val := 2, tag := 1 })], epc := 0xFFFD_0000_0000_0300 }

def committing (k : ExitKind) : State := device (within holdsRegs (done_ k)) {}

/-- The registers g3 and g4, the next block, LEXIT, STATUS.INH and CAUSE after a commit. -/
def commits (k : ExitKind) (g30 next : Word) (inh : Bool) (cause : BitVec 8) (run : RunState) : Bool :=
  leads (exec (.blockCommit 0 0) (committing k)) fun t =>
    match t.ctx? 0 0 with
    | some q => (q.reg 3).val == 7 && (q.reg 4).val == 2 && (q.reg 30).val == g30 && q.lexit == 5 && q.next == next &&
        q.inh == inh && q.cause == cause && q.block.isNone && decide (q.run = run)
    | none => false

theorem witness_CommitWritesAndContinues :
    ((committing .eret).ctx? 0 0 = some (within holdsRegs (done_ .eret)) ∧ (done_ .eret).complete = true ∧
    (committing .eret).accesses.any (holdsCommit 0 0 0) = false ∧ (done_ .eret).csrw = [] ∧
    ((done_ .eret).regw.map (·.1)).Nodup ∧ holdsRegs.blockAddrOk holdsRegs.epc = true) ∧
    (done_ .call).complete = true ∧ (done_ (.scall 9)).complete = true ∧ (done_ .halt).complete = true := by
  decide

theorem test_commit :
    commits .branch 0 0xFFFD000000000200 false 0 .running = true ∧
    commits .call 0xFFFD000000000118 0xFFFD000000000200 false 0 .running = true ∧
    commits (.scall 9) 0 0xFFFD000000000040 true 0x00 .running = true ∧
    commits (.trap 9) 0 0xFFFD000000000040 true 0x1F .running = true ∧
    commits .halt 0 0xFFFD000000000100 false 0 .halted = true ∧
    commits .eret 0 0xFFFD000000000300 false 0 .running = true := by
  decide

/-- A block whose CSRWs set FPCTL twice, the second time under a reserved mode, and SCRATCH15. -/
def writesCsrs : Block :=
  { done_ .branch with csrw := [(0, (0x030, 0x1C)), (1, (0x030, 0x07)), (2, (0x10F, 6))] }

theorem witness_ControlRegisterWrites :
    (device (within holdsRegs writesCsrs) {}).ctx? 0 0 = some (within holdsRegs writesCsrs) ∧ writesCsrs.complete = true ∧
    writesCsrs.exit.map (·.kind) = some .branch ∧
    (device (within holdsRegs writesCsrs) {}).accesses.any (holdsCommit 0 0 0) = false ∧
    writesCsrs.csrw = [(0, (0x030, 0x1C))] ++ (1, (0x030, 0x07)) :: [(2, (0x10F, 6))] ∧
    (∀ z, z ∈ ([(2, (0x10F, 6))] : SMap (BitVec 12 × Word)) → z.2.1 ≠ 0x030) ∧
    (∀ z, z ∈ writesCsrs.csrw → z.2.1 ≠ 0x004) ∧ (0x10F : BitVec 12) = BitVec.ofNat 12 (0x100 + 15) := by
  decide

theorem test_control_registers_commit :
    leads (exec (.blockCommit 0 0) (device (within holdsRegs writesCsrs) {})) (fun t =>
      (t.ctx? 0 0).map (fun q => (q.rnd, q.ftz, q.scratch.look 15, q.epc)) == some (4, false, some 6, 0xFFFD000000000300)) = true := by
  decide

theorem test_control_register_writes :
    (member.csrWrite 0x004 0xFFFD000000000043).tvec = 0xFFFD000000000040 ∧ (member.csrWrite 0x001 0x1FF).cause = 0xFF ∧
    (member.csrWrite 0x030 0x1D).rnd = 0 ∧ (member.csrWrite 0x030 0x1C).rnd = 4 ∧ (member.csrWrite 0x030 0x1C).ftz = true ∧
    (member.csrWrite 0x10F 6).scratch.lookD 15 0 = 6 ∧ member.csrWrite 0x000 5 = member := by
  decide

/-- A block that two words have faulted, and one in which nothing can happen any more: its MOV waits for A. -/
def faulted : Block :=
  { solo (.halt .always 0) 0 0 1 with faults := [{ idx := 4, cause := 0x0C, tval := 1 }, { idx := 2, cause := 0x0B, tval := 2 }] }
def stuck : Block := { addr := 0xFFFD_0000_0000_0100, h0 := 0xA0000000, words := [(encode (.mov .always 0 0)).getD 0] }

theorem witness_FaultsEnterThroughTvec :
    worstFault faulted.faults = some { idx := 2, cause := 0x0B, tval := 2 } ∧
    stalled (device (within member stuck) {}) 0 0 stuck = true ∧
    (device { member with inh := true } {}).alloc? 0 =
      some { st := .running, members := [⟨0, 0⟩], sgens := [1, 1, 1, 1] } := by
  decide

theorem test_faults_enter :
    trapped (exec (.blockAbandon 0 0) (device (within member faulted) {})) = some 0x0B ∧
    trapped (exec (.stallDetect 0 0) (device (within member stuck) {})) = some 0x09 ∧
    trapped (exec (.stallDetect 0 0) (device (within member { stuck with wmask := 8, exit := some { no := 0, idx := 1, kind := .halt, next := 0 } }) {})) =
      some 0x0A ∧
    leads (exec (.blockAbandon 0 0) (device (within { member with tvec := 0 } faulted) {})) (fun t =>
      t.faultQ.map (fun f => (f.cause, f.fatal, f.addr)) == [(0x0B, true, 2)] &&
      (t.ctx? 0 0).map (·.run) == some .stopped && (t.alloc? 0).map (·.st) == some .ending) = true := by
  decide

/-! ## Engine and synchronisation instructions -/

/-- Region number 0 of core 0: local region 2 of the member, four elements by four, slot 0 CURRENT and slot 1 READY. -/
def field : Region :=
  { lr := 2, row0 := 0, col0 := 0, rows := 4, cols := 4, slots := [(0, { st := .current }), (1, { st := .ready })] }

/-- The core with that region, its ports and elements as given. -/
def fieldCore (r : Region) : Core := { regions := [(0, r)] }

/-- A device about to accept an engine instruction; its context, its core. -/
def asks (i : Instr) (a b : Word) (k : Ctx) (q : Core) : State := device (within k (solo i a b 1)) q

theorem alone_of {k : Ctx} {q : Core} {i : Instr} {a b : Word} {w : W32} (e : encode i = some w)
    (m : (solo i a b 1).memWords = []) : EngineAlone (asks i a b k q) .always (hereOf k (solo i a b 1)) i := by
  refine ⟨⟨rfl, rfl⟩, ⟨w, e, by simp [hereOf, solo, e]⟩, rfl, rfl, rfl, m, ?_, fun _ _ => .inr rfl⟩
  intro j f hj hf
  cases j with
  | zero => exact absurd rfl hj
  | succ j => simp [hereOf, solo, Block.fields] at hf

/-- The instruction has been accepted with a result in slot A of word 1. -/
def accepts (o : Host.Outcome State Fault Refusal) (v : Word) : Bool :=
  match blockAfter o with
  | some b => b.done == [0] && b.slotA.look 1 == some v
  | none => false

theorem region_is (k : Ctx) (q : Region) (i : Instr) (a b : Word) (lr : BitVec 3) (h : q.ctx = 0) (g : q.lr = lr.toNat) :
    RegionIs (asks i a b k (fieldCore q)) (hereOf k (solo i a b 1)) lr 0 q := by
  refine ⟨?_, rfl⟩
  simp [asks, device, State.core, SMap.lookD, SMap.look, Core.regionOf, fieldCore, hereOf, h, g]

/-- Port 0 as it stands: a binding DONE under number 5, and nothing bound. -/
def donePort : Core := { fieldCore field with ports := [(0, { dones := [{ seq := 5, ctx := 0, items := 3, failAny := false, lateAny := false, cancelled := false }], seqNext := 6 })] }

def queueOf16 : Ctx := { member with bufs := [(3, { base := 0x1000, size := 16, queue := true, wptr := 12, rptr := 4 }), (4, { base := 0x2000, size := 64, queue := false })] }

theorem witness_EngineAnswers_region :
    EngineAlone (asks (.rgnStat .always 2 0x081) 0 0 member (fieldCore field)) .always
      (hereOf member (solo (.rgnStat .always 2 0x081) 0 0 1)) (.rgnStat .always 2 0x081) ∧
    RegionIs (asks (.rgnStat .always 2 0x081) 0 0 member (fieldCore field)) (hereOf member (solo (.rgnStat .always 2 0x081) 0 0 1)) 2 0 field ∧
    field.imageBound < 2 ^ 16 ∧ (field.slot field.cur).conf < 256 ∧ field.ireg < 256 ∧ field.rows ≤ 16 ∧ field.cols ≤ 16 ∧
    (field.slot field.cur).nsec ≤ 8 := by
  refine ⟨alone_of rfl (by decide), region_is _ _ _ _ _ _ rfl rfl,
    Nat.lt_of_le_of_lt (Nat.min_le_left 0xFFFF _) (by decide), ?_, ?_, ?_, ?_, ?_⟩ <;> decide

theorem witness_EngineAnswers :
    EngineAlone (asks (.cfgStat .always 2 0x081) 0 0 member (fieldCore field)) .always
      (hereOf member (solo (.cfgStat .always 2 0x081) 0 0 1)) (.cfgStat .always 2 0x081) ∧
    RegionIs (asks (.cfgStat .always 2 0x081) 0 0 member (fieldCore field)) (hereOf member (solo (.cfgStat .always 2 0x081) 0 0 1)) 2 0 field ∧
    ((asks (.strWait .always 0x081) 0x500 0 member donePort).port 0 (member.portOf (handlePort 0x500))).dones.find?
      (fun d => d.seq = handleSeq 0x500) = some { seq := 5, ctx := 0, items := 3, failAny := false, lateAny := false, cancelled := false } ∧
    ((asks (.strWait .always 0x081) 0x400 0 member donePort).port 0 (member.portOf (handlePort 0x400))).dones.find?
      (fun d => d.seq = handleSeq 0x400) = none ∧
    (asks (.rgnStat .always 3 0x081) 0 0 member (fieldCore field)).lrTaken 0 0 0 3 = false ∧
    field.demandMode = false ∧ field.cur = (0 : BitVec 2).toNat ∧ (field.slot (3 : BitVec 2).toNat).st = .idle ∧
    field.hasElem ((0x11 : Word).toNat % 256) = true := by
  refine ⟨alone_of rfl (by decide), region_is _ _ _ _ _ _ rfl rfl, ?_, ?_, ?_, ?_, ?_, ?_, ?_⟩ <;> decide

theorem test_engine_answers :
    accepts (exec (.strStat .always true 0 3 0x081) (asks (.strStat .always true 0 3 0x081) 0 0 queueOf16 {})) 0x0000_0008_0000_0008 = true ∧
    accepts (exec (.strWait .always 0x081) (asks (.strWait .always 0x081) 0x400 0 member donePort)) 8 = true ∧
    accepts (exec (.rgnStat .always 3 0x081) (asks (.rgnStat .always 3 0x081) 0 0 member (fieldCore field))) 0 = true ∧
    accepts (exec (.cfgSwap .always 2 0 false false 0x081) (asks (.cfgSwap .always 2 0 false false 0x081) 0 0 member (fieldCore field))) 0 = true ∧
    accepts (exec (.markWait .always true 0x081) (asks (.markWait .always true 0x081) 3 0 { member with stream := 2 }
      { marks := [(2, { sym := 9, slot := 4 })] })) 4 = true := by
  decide

/-- What the configuration path of core 0 holds after a step that accepts an instruction. -/
def onPath (i : Instr) (a b : Word) (op : CfgOp) (tile evt : Bool) : Bool :=
  let o := exec i (asks i a b member (fieldCore field))
  leads o (fun t => match (t.core 0).cfgPath with
    | [c] => decide (c.op = op) && c.tile == tile && c.evt == evt && c.region == 0 && decide (c.ctx = some 0)
    | _ => false) && (match blockAfter o with | some b => b.done == [0] | none => false)

theorem witness_PathCommands :
    RegionIs (asks (.cfgLoad .always 2 1 true) 0xFFFD000000000200 0 member (fieldCore field))
      (hereOf member (solo (.cfgLoad .always 2 1 true) 0xFFFD000000000200 0 1)) 2 0 field ∧
    EngineAlone (asks (.cfgLoad .always 2 1 true) 0xFFFD000000000200 0 member (fieldCore field)) .always
      (hereOf member (solo (.cfgLoad .always 2 1 true) 0xFFFD000000000200 0 1)) (.cfgLoad .always 2 1 true) ∧
    (asks (.cfgLoad .always 2 1 true) 0xFFFD000000000200 0 member (fieldCore field)).pathUsed 0 0 < 4 ∧
    16 ≤ member.stream.toNat ∧ field.demandMode = false ∧ member.checkAddr {} 0xFFFD000000000200 4 4 = none ∧
    cwField (0x00460005 : W32) < 48 ∧
    field.hasElem (cwElem 0x00460005) = true ∧ fieldOk (cwField 0x00460005) (cwValue 0x00460005) = true ∧ member.checkAddr { part := false } 0x10000 64 64 = none ∧
    field.selOk 0x3300 = true ∧ addrForm 0x20 = .virt 0x20 := by
  refine ⟨region_is _ _ _ _ _ _ rfl rfl, alone_of rfl (by decide), ?_, ?_, ?_, ?_, ?_, ?_, ?_, ?_, ?_, ?_⟩ <;> decide

/-- A member bound to stream 3 whose loader budget is spent. -/
def spent : Ctx := { member with stream := 3, budget := { load := { limit := some 1, used := 1 } } }

/-- Two RGN.ABORTs; the second has fired. -/
def twoAborts (fired : List Nat) (ops : SMap Instr) : Block :=
  { solo (.rgnAbort .always 2) 0 0 1 with
    words := [(encode (.rgnAbort .always 2)).getD 0, (encode (.rgnAbort .always 3)).getD 0], fired, ops }
def twoFields : Core := { fieldCore field with regions := [(0, field), (1, { field with lr := 3, row0 := 4 })] }

theorem witness_PathCommands_deferred :
    EngineAlone (asks (.cfgLoad .always 2 1 true) 0xFFFD000000000200 0 spent (fieldCore field)) .always
      (hereOf spent (solo (.cfgLoad .always 2 1 true) 0xFFFD000000000200 0 1)) (.cfgLoad .always 2 1 true) ∧
    spent.stream.toNat = 3 ∧ (solo (.cfgLoad .always 2 1 true) 0xFFFD000000000200 0 1).deferred.look 0 = none ∧
    spent.budget.load.limit = some 1 ∧ 1 ≤ spent.budget.load.used :=
  ⟨alone_of rfl (by decide), rfl, rfl, rfl, by decide⟩

theorem witness_PathCommands_pair :
    FiresAt (device (within member (twoAborts [1] [(1, .rgnAbort .always 3)])) twoFields) .always
      (hereOf member (twoAborts [1] [(1, .rgnAbort .always 3)])) ∧
    WordIs (twoAborts [1] [(1, .rgnAbort .always 3)]) 0 (.rgnAbort .always 2) ∧
    WordIs (twoAborts [1] [(1, .rgnAbort .always 3)]) 1 (.rgnAbort .always 3) ∧
    (twoAborts [1] [(1, .rgnAbort .always 3)]).memWords = [] ∧
    (device (within member (twoAborts [1] [(1, .rgnAbort .always 3)])) twoFields).recordsWritten 0 0 0 = true ∧
    (device (within member (twoAborts [1] [(1, .rgnAbort .always 3)])) twoFields).pathUsed 0 0 < 3 ∧
    twoFields.regionOf 0 2 = some (0, field) ∧ twoFields.regionOf 0 3 = some (1, { field with lr := 3, row0 := 4 }) := by
  refine ⟨⟨rfl, rfl⟩, ⟨_, rfl, rfl⟩, ⟨_, rfl, rfl⟩, ?_, ?_, ?_, ?_, ?_⟩ <;> decide

theorem test_path_in_order :
    leads (exec (.rgnAbort .always 2) (device (within member (twoAborts [1] [(1, .rgnAbort .always 3)])) twoFields)) (fun t =>
      (t.core 0).cfgPath.map (·.region) == [0, 1]) = true ∧
    leads (exec (.cfgLoad .always 2 1 true) (asks (.cfgLoad .always 2 1 true) 0xFFFD000000000200 0 spent (fieldCore field))) (fun t =>
      (t.stream 3).defer == 1 && (t.core 0).cfgPath.isEmpty) = true := by
  decide

theorem test_path_commands :
    onPath (.cfgLoad .always 2 1 true) 0xFFFD000000000200 0 (.load 1 0xFFFD000000000200 true false) false false = true ∧
    onPath (.rgnFreeze .always 2) 0x10000 0 (.freeze 0x10000) false false = true ∧
    onPath (.rgnAbort .always 2) 0 0 .abort false false = true ∧
    onPath (.xaClr .always 2 true false) 0x3300 0 (.clr 0x3300) true false = true ∧
    onPath (.xaDrain .always 2 false true false) 0x3300 0 (.drain 0x3300 none) false true = true ∧
    onPath (.xaDrain .always 2 false true true) 0x3300 0x24 (.drain 0x3300 (some 0x24)) false true = true ∧
    onPath (.xaSpill .always 2 false false) 0x3300 0x40 (.spill 0x3300 0x40) false false = true ∧
    onPath (.xaFill .always 2 false false) 0x3300 0x40 (.fill 0x3300 0x40) false false = true ∧
    onPath (.xaMerge .always 2 true true) 0x3300 0x40 (.merge 0x3300 0x40) true true = true ∧
    onPath (.cfgWr .always 2) 0x00460005 0 (.write 0x00460005) false false = true := by
  decide

/-- A pattern of eight 32-bit loads from buffer allocation 4 (R244, R245), as the record at offset 0x240 holds it. -/
def eightLoads : Pattern :=
  { base := 0xFFFE_0000_0040_0000, cnt0 := 8, str0 := 4, cnt1 := 1, cnt2 := 1, cnt3 := 1, ctrl := 0x40000 }

/-- The member with its buffers, and a device whose partition holds that record. -/
def withRecord (i : Instr) (a b : Word) (q : Core) : State :=
  { asks i a b queueOf16 q with
    mem := Memory.writeN [] (member.partPlace 0 0x240) (patternBytes eightLoads)
    gran := [(sbufAddr 0 0x1000 / 64, { tag := 1 }), (sbufAddr 0 0x2000 / 64, { tag := 1 }), (member.partPlace 0 0x240 / 64, { tag := 1 })] }

theorem witness_StreamCommands_bind :
    addrForm 0xFFFD000000000240 = .part 0x240 ∧ 0x240 + 64 ≤ queueOf16.psize ∧
    OwnLines (withRecord (.strBind .always 0 0 false true false 0x081) 0xFFFD000000000240 0 (fieldCore field)) 1
      (queueOf16.partPlace 0 0x240) 64 ∧
    ((fieldCore field).regionAt (portElem (queueOf16.portOf 0)) = some (0, field)) ∧
    patternOf (Memory.readN (withRecord (.strBind .always 0 0 false true false 0x081) 0xFFFD000000000240 0 (fieldCore field)).mem
      (queueOf16.partPlace 0 0x240) 64) = eightLoads ∧
    queueOf16.bindCause eightLoads = none := by
  unfold OwnLines; decide +kernel

/-- A binding of that pattern under number 7. -/
def bound7 : Binding := { seq := 7, pat := eightLoads, gen := 1 }
def boundPort (v : Binding) : Core := { fieldCore field with ports := [(0, { bindings := [v], seqNext := 8 })] }

theorem witness_StreamCommands_queue :
    (asks (.strGo .always true) 0x700 55 member (boundPort bound7)).binding? 0 (member.portOf (handlePort 0x700)) (handleSeq 0x700) =
      some bound7 ∧ bound7.st = .bound ∧ bound7.ended = none ∧
    queueOf16.bufs.look 3 = some { base := 0x1000, size := 16, queue := true, wptr := 12, rptr := 4 } ∧
    2 ^ (2 : BitVec 2).toNat ≤ ({ base := 0x1000, size := 16, queue := true, wptr := 12, rptr := 4 } : Buf).space ∧
    2 ^ (3 : BitVec 2).toNat ≤ ({ base := 0x1000, size := 16, queue := true, wptr := 12, rptr := 4 } : Buf).fill ∧
    4 % 16 + 2 ^ (3 : BitVec 2).toNat ≤ 16 ∧
    OwnLines (withRecord (.strPop .always 3 3 false 0x081) 0 0 {}) 1 (sbufAddr 0 0x1004) 8 ∧
    OwnLines (withRecord (.strPop .always 4 2 true 0x081) 0x3C 0 {}) 1 (sbufAddr 0 0x203C) 4 := by
  unfold OwnLines; decide +kernel

theorem test_stream_commands :
    accepts (exec (.strBind .always 0 0 false true false 0x081)
      (withRecord (.strBind .always 0 0 false true false 0x081) 0xFFFD000000000240 0 (fieldCore field))) 0 = true ∧
    leads (exec (.strGo .always true) (asks (.strGo .always true) 0x700 55 member (boundPort bound7))) (fun t =>
      (t.port 0 0).bindings.map (fun b => (b.st, b.deadline)) == [(.queued, 55)]) = true ∧
    leads (exec (.strCancel .always) (asks (.strCancel .always) 0x700 0 member (boundPort bound7))) (fun t =>
      (t.port 0 0).bindings.map (fun b => (b.st, b.ended)) == [(.drained, some 0)]) = true ∧
    leads (exec (.strPush .always 3 2 false) (withRecord (.strPush .always 3 2 false) 0x0A0B0C0D 0 {})) (fun t =>
      Memory.readN t.mem (sbufAddr 0 0x100C) 4 == [0x0D, 0x0C, 0x0B, 0x0A] &&
      ((t.ctx? 0 0).bind fun q => q.bufs.look 3).map (·.wptr) == some 16) = true ∧
    leads (exec (.strPush .always 4 0 true) (withRecord (.strPush .always 4 0 true) 0xAB 5 {})) (fun t =>
      Memory.read t.mem (sbufAddr 0 0x2005) == 0xAB) = true := by
  decide +kernel

/-- Sixteen bytes 1 to 16 at the start of buffer allocation 3. -/
def filled (i : Instr) (a : Word) : State :=
  { withRecord i a 0 {} with mem := Memory.writeN [] (sbufAddr 0 0x1000) [1, 2, 3, 4, 5, 6, 7, 8, 9, 10, 11, 12, 13, 14, 15, 16] }

theorem test_pop :
    accepts (exec (.strPop .always 3 3 false 0x081) (filled (.strPop .always 3 3 false 0x081) 0)) 0x0C0B0A0908070605 = true ∧
    accepts (exec (.strPop .always 4 2 true 0x081) (filled (.strPop .always 4 2 true 0x081) 0x3C)) 0 = true := by
  decide +kernel

/-- An image whose subgraph 1 may be spawned: two by two (R200). -/
def spawnable : Image :=
  { shapes := [{ rows := 4, cols := 4, flags := 0, nconf := 1, init := 0, conftab := 0 },
               { rows := 2, cols := 2, flags := 4, nconf := 1, init := 0, conftab := 0 }] }

def launched : Alloc := { st := .running, members := [⟨0, 0⟩], sgens := [1, 1, 1, 1], img := spawnable }

def asksIn (i : Instr) (a b : Word) (k : Ctx) : State := { asks i a b k (fieldCore field) with allocs := [(0, launched)] }

theorem witness_RegionAndSyncCommands :
    (asksIn (.spawn .always 2 0x081) 1 0 member).alloc? 0 = some launched ∧ launched.spawnQ.length < 16 ∧
    (asksIn (.spawn .always 2 0x081) 1 0 member).lrTaken 0 0 0 0 = false ∧
    launched.img.shapes[(1 : Word).toNat % 2 ^ 16]? = some { rows := 2, cols := 2, flags := 4, nconf := 1, init := 0, conftab := 0 } ∧
    member.checkAddr { part := false } 0x10000 64 64 = none ∧ launched.members[(0 : Word).toNat]? = some ⟨0, 0⟩ ∧
    80 ≤ (80 : BitVec 7).toNat ∧ ({ member with events := [(66, 2)] } : Ctx).events.lookD (66 : BitVec 7).toNat 0 = 1 + 1 ∧
    (asksIn (.markRaise .always true 3) 9 0 member).accesses = [] := by
  decide

theorem test_region_commands :
    leads (exec (.rgnArm .always 2 5) (asksIn (.rgnArm .always 2 5) 0x2000000 0 member)) (fun t =>
      ((t.region? 0 0).map (·.remaining)) == some [(5, 0xFFFFFF)]) = true ∧
    leads (exec (.rgnThaw .always 3) (asksIn (.rgnThaw .always 3) 0x10000 0 member)) (fun t =>
      ((t.alloc? 0).map fun a => a.spawnQ.map (fun q => (q.lr, q.thaw))) == some [(3, some 0x10000)]) = true ∧
    leads (exec (.spawn .always 2 0x081) (asksIn (.spawn .always 2 0x081) 1 0 member)) (fun t =>
      ((t.alloc? 0).map fun a => a.spawnQ.map (fun q => (q.lr, q.subgraph))) == some [(0, 1)]) = true ∧
    leads (exec (.rgnQuiet .always 2 true 0x081) (asksIn (.rgnQuiet .always 2 true 0x081) 0 0 member)) (fun t =>
      ((t.ctx? 0 0).bind (·.block)).map (fun b => (b.ops.map (·.1), b.done)) == some ([0], [])) = true := by
  decide

theorem test_sync_commands :
    leads (exec (.markRaise .always true 3) (asksIn (.markRaise .always true 3) 9 0 member)) (fun t =>
      t.teasel.marks == [{ stream := 3, kind := true, index := 9 }]) = true ∧
    leads (exec (.evtSignal .always 80) (asksIn (.evtSignal .always 80) 0 0 member)) (fun t =>
      t.eventMsgs == [{ core := 0, ctx := 0, event := 80, alloc := 0 }]) = true ∧
    accepts (exec (.evtWait .always 66 0x081) (asksIn (.evtWait .always 66 0x081) 0 0 { member with events := [(66, 2)] })) 1 = true ∧
    issues (.semWait .always .acq .die 0x081) 0xFFFD000000000200 3 (.atomic .semWait) 0xFFFD000000000200 4 [3, 0, 0, 0, 0, 0, 0, 0] true false = true ∧
    issues (.semPost .always .ar .die 0x081) 0xFFFD000000000200 3 (.atomic .semPost) 0xFFFD000000000200 4 [3, 0, 0, 0, 0, 0, 0, 0] true true = true := by
  decide

/-- An engine instruction that has fired and waits. -/
def waitingBlock (i : Instr) : Block := { solo i 0 0 1 with fired := [0], ops := [(0, i)] }

/-- The same, deferred in a period. -/
def deferredBlock (i : Instr) (d : SMap Nat) : Block := { waitingBlock i with deferred := d }

theorem pending_deferred {k : Ctx} {q : Core} {i : Instr} {w : W32} (d : SMap Nat) (e : encode i = some w)
    (m : (deferredBlock i d).memWords = []) :
    EnginePending (device (within k (deferredBlock i d)) q) (hereOf k (deferredBlock i d)) i := by
  refine ⟨rfl, rfl, ⟨w, e, by simp [hereOf, deferredBlock, waitingBlock, solo, e]⟩,
    by simp [hereOf, deferredBlock, waitingBlock], rfl, ⟨rfl, rfl, m, rfl⟩, ?_, fun _ _ => .inr rfl⟩
  intro j f hj hf
  cases j with
  | zero => exact absurd rfl hj
  | succ j => simp [hereOf, deferredBlock, waitingBlock, solo, Block.fields] at hf

theorem pending_of {k : Ctx} {q : Core} {i : Instr} {w : W32} (e : encode i = some w) (m : (waitingBlock i).memWords = []) :
    EnginePending (device (within k (waitingBlock i)) q) (hereOf k (waitingBlock i)) i := pending_deferred [] e m

theorem witness_WaitingInstructionsEnd_deferred :
    EnginePending (device (within spent (deferredBlock (.cfgLoad .always 2 1 true) [(0, 5)])) (fieldCore field))
      (hereOf spent (deferredBlock (.cfgLoad .always 2 1 true) [(0, 5)])) (.cfgLoad .always 2 1 true) ∧
    field.demandMode = false ∧ (hereOf spent (deferredBlock (.cfgLoad .always 2 1 true) [(0, 5)])).a = some 0 ∧
    spent.checkAddr {} 0 4 4 = none ∧ (deferredBlock (.cfgLoad .always 2 1 true) [(0, 5)]).deferred.look 0 = some 5 ∧
    5 ≠ (device (within spent (deferredBlock (.cfgLoad .always 2 1 true) [(0, 5)])) (fieldCore field)).period 0 3 := by
  refine ⟨pending_deferred _ rfl (by decide), ?_, ?_, ?_, ?_, ?_⟩ <;> decide

theorem witness_WaitingInstructionsEnd :
    EnginePending (device (within member (waitingBlock (.rgnAbort .always 2))) (fieldCore field))
      (hereOf member (waitingBlock (.rgnAbort .always 2))) (.rgnAbort .always 2) ∧
    (device (within member (waitingBlock (.rgnAbort .always 2))) (fieldCore field)).pathUsed 0 0 < 4 ∧
    (field.slot (1 : BitVec 2).toNat).st = .ready ∧ field.phase = .placed ∧ field.stopped = false ∧
    (fieldCore field).unserved 0 0 1 true = false := by
  refine ⟨pending_of rfl (by decide), ?_, ?_, ?_, ?_, ?_⟩ <;> decide

theorem test_waits_end :
    leads (exec (.engineAccept 0 0 0) (device (within member (waitingBlock (.rgnAbort .always 2))) (fieldCore field))) (fun t =>
      (t.core 0).cfgPath.map (·.op) == [.abort]) = true ∧
    accepts (exec (.waitSatisfied 0 0) (device (within { member with events := [(66, 2)] } (waitingBlock (.evtWait .always 66 0x081))) {})) 1 = true ∧
    accepts (exec (.swapTakesEffect 0 0) (device (within member (waitingBlock (.cfgSwap .always 2 1 false false 0x081))) (fieldCore field))) 0 = true ∧
    leads (exec (.swapTakesEffect 0 0) (device (within member (waitingBlock (.cfgSwap .always 2 1 false false 0x081))) (fieldCore field))) (fun t =>
      (t.region? 0 0).map (fun r => (r.cur, (r.slot 1).st, r.steps)) == some (1, .current, 1)) = true ∧
    accepts (exec (.quiescenceWaveComplete 0 0) (device (within { member with quiet := some [(0, 0, 0, 0)] }
      (waitingBlock (.rgnQuiet .always 2 false 0x081))) (fieldCore field))) 1 = true := by
  decide +kernel

/-! ## Firings of elements -/

/-- Fields of element 17 in slot 0 (R71): operation, its first n inputs from the west, the south and the north lane 0,
primary route east, secondary route south; fields given besides take their place. -/
def fieldsOf (f0 : Nat) (n : Nat) (more : List (Nat × Nat)) : SMap (BitVec 16) :=
  (more ++ ((0, f0) :: ([(1, 0x4000), (2, 0x3000), (3, 0x1000)].take n)) ++ [(4, 2), (5, 4)]).map fun e : Nat × Nat =>
    (cfgKey 0 17 e.1, BitVec.ofNat 16 e.2)

def data (v : W32) : Token := { pay := v }

/-- A device with that element in a region whose slot 0 alone is in use. -/
def quad : Region := { lr := 2, rows := 4, cols := 4, slots := [(0, { st := .current })] }

def element (f0 n : Nat) (more : List (Nat × Nat)) (v : Elem) : State :=
  device member { regions := [(0, quad)], config := fieldsOf f0 n more, elems := [(17, v)] }

def operands (l : List W32) : Elem :=
  { bufA := (l.take 1).map data, bufB := ((l.drop 1).take 1).map data, bufC := ((l.drop 2).take 1).map data }

/-- The values that have left element 17 to the east and to the south. -/
def left17 (o : Host.Outcome State Fault Refusal) (e s : List W32) : Bool :=
  leads o fun t => (t.stageOf 0 18 6).map (·.pay) == e && (t.stageOf 0 33 0).map (·.pay) == s

def fires (i : Instr) (f0 n : Nat) (more : List (Nat × Nat)) (l : List W32) (e s : List W32) : Bool :=
  left17 (exec i (element f0 n more (operands l))) e s

theorem room_quad (f0 n : Nat) (more : List (Nat × Nat)) (v : Elem) (l : Nat) (h : l = 2 ∨ l = 4) (t : Token)
    (hv : v.lanes = []) : (element f0 n more v).laneSpace 0 17 l t = true := by
  obtain ⟨k, _, _, _, _⟩ := t
  rcases h with rfl | rfl <;> cases k <;> rfl

/-- What is left to check of an element before it may fire. -/
def readyB (s : State) : Bool :=
  let g := (s.core 0).cfg 0 17
  g.gang == 0 && g.works && (s.latest 0 17 ((s.ctx? 0 quad.ctx).getD {}).gen).due.isNone && g.resultLanes.all (fun l => l == 2 || l == 4) &&
    (!holdsIterations (s.core 0) quad 0 17 g || decide ((s.elem 0 17).pend.length < g.pend + 1))

theorem ready_of {f0 n : Nat} {more : List (Nat × Nat)} {v : Elem} (h : readyB (element f0 n more v) = true)
    (ho : v.out = []) (hl : v.lanes = []) : ReadyElem (element f0 n more v) 0 17 0 quad 0 := by
  simp only [readyB, Bool.and_eq_true, Bool.or_eq_true, Bool.not_eq_true', beq_iff_eq, Option.isNone_iff_eq_none,
    List.all_eq_true, decide_eq_true_eq] at h
  obtain ⟨⟨⟨⟨hg, hw⟩, hd⟩, hr⟩, hp⟩ := h
  refine ⟨rfl, rfl, rfl, by decide, ⟨rfl, rfl, rfl⟩, by decide, rfl, hg, hw, ⟨ho, hl, hd⟩, rfl,
    fun l m t => room_quad _ _ _ _ _ (hr l m) _ hl, fun k => ?_⟩
  rcases hp with hp | hp
  · rw [hp] at k; cases k
  · exact hp

/-- The view of element 17 in slot 0. -/
def viewing (f0 n : Nat) (more : List (Nat × Nat)) (v : Elem) : View := (element f0 n more v).viewOf 0 quad 0 17

theorem witness_ComputingFirings :
    ReadyElem (element 0x10 2 [] (operands [5, 7])) 0 17 0 quad 0 ∧ (viewing 0x10 2 [] (operands [5, 7])).clean ∧
    (viewing 0x10 2 [] (operands [5, 7])).g.op = 0x10 ∧ (viewing 0x10 2 [] (operands [5, 7])).val 0 = 5 :=
  ⟨ready_of (by decide +kernel) rfl rfl, ⟨by decide +kernel, by decide +kernel⟩, by decide +kernel, by decide +kernel⟩

/-- One element for each clause: it may fire, its operands are there and not in error, and its operation is the clause's. -/
def clause (f0 n : Nat) (more : List (Nat × Nat)) (v : Elem) (op : Nat) : Bool :=
  readyB (element f0 n more v) && (viewing f0 n more v).ready && (viewing f0 n more v).err (viewing f0 n more v).ins == none &&
    (viewing f0 n more v).g.op == op

theorem witness_ComputingFiringsWithSides :
    clause 0x30 2 [(32, 0x2108)] (operands [0x180, 0x200]) 0x30 = true ∧ clause 0x50 2 [(32, 16)] (operands [1, 1]) 0x50 = true ∧
    clause 0x2053 2 [] (operands [1, 1]) 0x53 = true ∧ clause 0x70 1 [] (operands [0]) 0x70 = true := by
  decide +kernel

theorem witness_KeepingFirings :
    clause 0x33 1 [(6, 16)] (operands [3]) opPivg = true ∧ clause 0x43 2 [] (operands [1, 1]) opCmac = true ∧
    clause 0x2052 1 [(12, 2)] (operands [5]) opMins = true ∧ (viewing 0x2052 1 [(12, 2)] (operands [5])).g.cntA = 2 ∧
    clause 0x2052 1 [(12, 1)] (operands [5]) opMins = true ∧ clause 0x54 1 [] (operands [5]) opXorr = true ∧
    clause 0x2055 1 [(32, 8)] (operands [0x80]) opCrcs = true ∧ clause 0x660 2 [] (operands [0x3F80, 0x4000]) opMma = true ∧
    (viewing 0x660 2 [] (operands [0x3F80, 0x4000])).g.variant < 8 ∧ clause 0x61 1 [] (operands [0x3F800000]) opXacc = true := by
  decide +kernel

/-- Operation state for the clauses on what is under way. -/
def going (o : OpState) (v : Elem) : Elem := { v with priv := { op := o } }

theorem witness_ForwardingFirings :
    clause 0x00 1 [] (operands [9]) opPass = true ∧ clause 0x105 2 [] (operands [9, 0]) opFilt = true ∧
    readyB (element 0x06 2 [] (operands [9, 1])) = true ∧ (viewing 0x06 2 [] (operands [9, 1])).tok 1 = some (data 1) ∧
    (viewing 0x06 2 [] (operands [9, 0])).tok 1 = some (data 0) ∧
    clause 0x07 1 [(12, 2)] (operands [9]) opRep = true ∧ (viewing 0x07 1 [] (operands [9])).priv.op.repTok.isNone = true ∧
    clause 0x07 2 [] (operands [9, 0]) opRep = true ∧ readyB (element 0x07 1 [(12, 2)] (going { repTok := some (data 9), rep := 1 } {})) = true ∧
    clause 0x09 1 [] (operands [9]) opGate = true ∧ clause 0x0D 2 [] (operands [9, 8]) opJoin = true ∧
    readyB (element 0x0E 0 [(6, 44)] {}) = true ∧ (viewing 0x0E 0 [(6, 44)] {}).g.op = opConst ∧
    readyB (element 0x10E 0 [(12, 2)] (going { run := some (0, 1) } {})) = true ∧
    readyB (element 0x08 0 [(12, 3)] (going { run := some (0, 2) } {})) = true ∧
    (viewing 0x08 0 [(12, 3)] {}).g.node = 0 ∧
    readyB (element 0x08 1 [(10, 0x0B00), (12, 3)] (going { run := some (0, 1) } (operands [9]))) = true ∧
    (viewing 0x08 1 [(10, 0x0B00), (12, 3)] (going { run := some (0, 1) } (operands [9]))).g.env = true ∧
    (viewing 0x08 1 [(10, 0x0B00), (12, 3)] (going { run := some (0, 1) } (operands [9]))).tok 0 = some (data 9) := by
  decide +kernel

theorem witness_ForwardingFirings_node :
    readyB (element 0x08 0 [(11, 0x8101), (12, 3)] (going { run := some (0, 0) } {})) = true ∧
    (viewing 0x08 0 [(11, 0x8101), (12, 3)] {}).g.node = 1 ∧ setBits (viewing 0x08 0 [(11, 0x8101), (12, 3)] {}).g.enOut = [0] ∧
    nextEnable (viewing 0x08 0 [(11, 0x8101), (12, 3)] {}).g { run := some (0, 0) } 1 = some (0, 0) ∧
    nodeDone (viewing 0x08 0 [(11, 0x8101), (12, 3)] {}).g { run := some (0, 0) } 1 = false ∧
    nodeDone (viewing 0x08 0 [(11, 0x8101), (12, 3)] {}).g { run := some (0, 0), doneCnt := [3] } 1 = true := by
  decide +kernel

theorem witness_RoutingFirings :
    clause 0x01 2 [] (operands [9, 0]) opSteer = true ∧ clause 0x01 2 [(32, 0x0480)] (operands [9, 0]) opSteer = true ∧
    (viewing 0x01 2 [(32, 0x0480)] (operands [9, 0])).priv.op.outst < (viewing 0x01 2 [(32, 0x0480)] (operands [9, 0])).g.dqd ∧
    clause 0x102 2 [(32, 0x0402)] (operands [9, 7]) opSwch = true ∧ clause 0x902 2 [(32, 0x0402), (36, 0x0100)] (operands [9, 7]) opSwch = true ∧
    (viewing 0x102 2 [(32, 0x0402)] (operands [9, 7])).g.wayFree 1 = 0 ∧
    (viewing 0x902 2 [(32, 0x0402), (36, 0x0100)] (operands [9, 7])).g.wayFree 1 = 1 ∧
    (viewing 0x902 2 [(32, 0x0402), (36, 0x0100)] (going { free := [(1, 1)] } (operands [9, 7]))).priv.op.free.lookD 1 0 ≠ 0 ∧
    readyB (element 0x03 3 [] (operands [9, 8, 0])) = true ∧ (viewing 0x03 3 [] (operands [9, 8, 0])).tok 2 = some (data 0) ∧
    (viewing 0x04 3 [] (operands [9, 8, 7])).ins = [0, 1, 2] ∧ readyB (element 0x04 3 [] (operands [9, 8, 7])) = true := by
  decide +kernel

theorem witness_RoutingFirings_threads :
    readyB (element 0x101 3 [] (operands [9, 1])) = true ∧ (viewing 0x101 3 [] (operands [9, 1])).g.isLoopExit = true ∧
    (viewing 0x101 3 [] (operands [9, 1])).tok 2 = none ∧ (viewing 0x101 3 [] (operands [9, 1])).seg 0 = [data 9] ∧
    (viewing 0x101 3 [] (operands [9, 0])).seg 1 = [data 0] ∧ (viewing 0x101 3 [] (operands [9, 0, 5])).tok 2 = some (data 5) ∧
    readyB (element 0x0A 2 [] (operands [9])) = true ∧ (viewing 0x0A 2 [] (operands [9])).seg 1 = [] ∧
    (viewing 0x0A 2 [] (operands [9, 63])).seg 1 = [data 63] ∧ readyB (element 0x0B 1 [(32, 1)] (operands [9])) = true ∧
    (viewing 0x0B 1 [(32, 1)] (operands [9])).g.opt 0 % 16 = 1 ∧
    (viewing 0x0B 1 [(32, 1)] (going { tagf := [(0, 1)] } (operands [9]))).priv.op.tagf.lookD 0 0 + 1 = 2 := by
  decide +kernel

theorem witness_RoutingFirings_requests :
    readyB (element 0x0C 1 [] (operands [9])) = true ∧ (viewing 0x0C 1 [] (operands [9])).priv.op.window = [] ∧
    readyB (element 0x0C 1 [(32, 1)] (going { next := 3, window := [data 8] } (operands [9]))) = true ∧
    (viewing 0x0C 1 [(32, 1)] (going { next := 3, window := [data 8] } (operands [9]))).priv.op.window.map (·.side) = [(data 9).side] ∧
    readyB (element 0x0C 1 [] (going { window := [data 8] } {})) = true ∧
    (viewing 0x0C 1 [] (going { window := [data 8] } {})).priv.op.window.find?
      (fun t => t.side = (0 : BitVec 8) && t.ctx = (0 : BitVec 2)) = some (data 8) ∧
    (viewing 0x0C 1 [] (going { next := 3 } (operands [9]))).tok 0 = some (data 9) ∧
    readyB (element 0x62 2 [] (operands [9])) = true ∧ (viewing 0x62 2 [] (operands [9])).tok 1 = none ∧
    (viewing 0x62 2 [] { bufB := [data 8] }).tok 1 = some (data 8) ∧
    readyB (element 0x162 3 [(2, 0)] { bufA := [data 9], bufC := [data 7] }) = true ∧
    (viewing 0x162 3 [(2, 0)] { bufA := [data 9], bufC := [data 7] }).err
      ((viewing 0x162 3 [(2, 0)] { bufA := [data 9], bufC := [data 7] }).ins.filter (· ≠ 1)) = none := by
  decide +kernel

theorem test_integer_elements :
    fires (.iadd 0 17) 0x10 2 [] [0xFFFFFFFF, 2] [1] [] = true ∧ fires (.isub 0 17) 0x11 2 [] [5, 7] [0xFFFFFFFE] [] = true ∧
    fires (.imul 0 17) 0x112 2 [] [0x80000000, 2] [0xFFFFFFFF] [] = true ∧ fires (.imac 0 17) 0x13 3 [] [2, 3, 4] [10] [] = true ∧
    fires (.iand 0 17) 0x14 2 [] [12, 10] [8] [] = true ∧ fires (.ior 0 17) 0x15 2 [] [12, 10] [14] [] = true ∧
    fires (.ixor 0 17) 0x16 2 [] [12, 10] [6] [] = true ∧ fires (.ishl 0 17) 0x17 2 [] [1, 32] [0] [] = true ∧
    fires (.ishr 0 17) 0x18 2 [] [0x80000000, 31] [1] [] = true ∧ fires (.isra 0 17) 0x19 2 [] [0x80000000, 40] [0xFFFFFFFF] [] = true ∧
    fires (.imin 0 17) 0x1A 2 [] [0xFFFFFFFF, 1] [0xFFFFFFFF] [] = true ∧ fires (.imax 0 17) 0x81B 2 [] [0xFFFFFFFF, 1] [0xFFFFFFFF] [] = true ∧
    fires (.iabs 0 17) 0x1C 1 [] [0x80000000] [0x80000000] [] = true ∧ fires (.isat 0 17) 0x1D 2 [] [200, 7] [127] [] = true ∧
    fires (.icmp 0 17) 0x21E 2 [] [0xFFFFFFFF, 0] [1] [] = true := by
  decide +kernel

theorem test_float_elements :
    fires (.elemFadd 0 17) 0x120 2 [] [0x40400000, 0x3F800000] [0x40000000] [] = true ∧
    fires (.elemFmul 0 17) 0x21 2 [] [0x40400000, 0x40000000] [0x40C00000] [] = true ∧
    fires (.ffma 0 17) 0x122 3 [] [0x40000000, 0x40400000, 0x3F800000] [0x40A00000] [] = true ∧
    fires (.elemFmin 0 17) 0x23 2 [] [0x3F800000, 0xBF800000] [0xBF800000] [] = true ∧
    fires (.elemFmax 0 17) 0x24 2 [] [0x3F800000, 0xBF800000] [0x3F800000] [] = true ∧
    fires (.elemFcmp 0 17) 0x125 2 [] [0xBF800000, 0x3F800000] [1] [] = true ∧
    fires (.elemFcvt 0 17) 0x26 1 [] [0xC0000000] [0xFFFFFFFE] [] = true ∧ fires (.frcp 0 17) 0x27 1 [] [0x40000000] [0x3F000000] [] = true ∧
    fires (.frsq 0 17) 0x28 1 [] [0x40800000] [0x3F000000] [] = true ∧ fires (.fexp2 0 17) 0x29 1 [] [0x40400000] [0x41000000] [] = true ∧
    fires (.flog2 0 17) 0x2A 1 [] [0x41000000] [0x40400000] [] = true := by
  decide +kernel

/-- Subword 3 of the narrowest width, a fixed-point word of each clause, and 4.0 in Q8, whose inverse root is 1 / 2. -/
theorem witness_ElementIntegerWords :
    ((2, 8) : Nat × Nat) ∈ [(0, 32), (1, 16), (2, 8)] ∧ 8 * (3 + 1) ≤ 32 ∧
    (viewing 0x30 2 [(32, 0x2108)] {}).g.op = 0x30 ∧ (viewing 0x31 1 [(32, 0x2108)] {}).g.op = 0x31 ∧
    (viewing 0x32 2 [(32, 0x2108)] {}).g.op = 0x32 ∧ (viewing 0x30 2 [(32, 0x2108)] {}).g.sub = 0 ∧
    (0x400 : W32).toInt * (0x80 * 0x80) ≤ 2 ^ (2 * 8 + 8) ∧ (2 ^ (2 * 8 + 8) : Int) < 0x400 * (0x81 * 0x81) ∧
    (viewing 0x40 2 [] {}).g.op = 0x40 ∧ (viewing 0x41 2 [] {}).g.op = 0x41 ∧ (viewing 0x42 2 [] {}).g.op = 0x42 ∧
    (viewing 0x44 1 [] {}).g.op = 0x44 ∧ (viewing 0x45 1 [] {}).g.op = 0x45 ∧ (viewing 0x46 2 [] {}).g.op = 0x46 ∧
    (viewing 0x51 2 [] {}).g.variant = 0 ∧ (viewing 0x151 2 [] {}).g.variant = 1 := by
  decide +kernel

/-- Fraction lengths FA = FB = FO = 8 in OPT0; Z = 16 for ROTZ; T of PERM with byte selectors 3, 2, 1, 0. -/
theorem test_other_elements :
    fires (.qmul 0 17) 0x30 2 [(32, 0x2108)] [0x180, 0x200] [0x300] [] = true ∧ fires (.qrsq 0 17) 0x31 1 [(32, 0x2108)] [0x400] [0x80] [] = true ∧
    fires (.qdiv 0 17) 0x32 2 [(32, 0x2108)] [0x100, 0] [0x7FFFFFFF] [] = true ∧ fires (.pivg 0 17) 0x33 1 [(6, 16), (8, 100)] [3] [103] [] = true ∧
    fires (.cadd 0 17) 0x40 2 [] [0x00010002, 0x0003FFFF] [0x00040001] [] = true ∧ fires (.csub 0 17) 0x41 2 [] [0x00010002, 0x00030001] [0xFFFE0001] [] = true ∧
    fires (.cmul 0 17) 0x42 2 [] [0x00010002, 0x00040003] [0x000B0002] [] = true ∧ fires (.cconj 0 17) 0x44 1 [] [0x00010002] [0xFFFF0002] [] = true ∧
    fires (.cabs2 0 17) 0x45 1 [] [0x00030004] [25] [] = true ∧ fires (.cscl 0 17) 0x46 2 [] [0x00010002, 3] [0x00030006] [] = true ∧
    fires (.rotz 0 17) 0x50 2 [(32, 16)] [0x00000001, 1] [0x00008000] [] = true ∧ fires (.perm 0 17) 0x151 2 [(32, 0x8012)] [0x33221100, 0] [0x00001122] [] = true ∧
    fires (.llrs 0 17) 0x2053 2 [] [0x01FF7F80, 0x01017F80] [0x02007F81] [1] = true := by
  decide +kernel

theorem test_keeping_elements :
    leads (exec (.cmac 0 17) (element 0x43 2 [] (operands [0x00010002, 0x00040003]))) (fun t =>
      ((t.elem 0 17).priv.op.sumR, (t.elem 0 17).priv.op.sumI) == (2, 11)) = true ∧
    leads (exec (.pivg 0 17) (element 0x33 1 [(6, 16), (8, 100)] (operands [3]))) (fun t =>
      ((t.elem 0 17).priv.ctr.val, (t.elem 0 17).priv.ctr.tag) == (1, 1) && (t.stageOf 0 18 6).map (·.side) == [0x80]) = true ∧
    leads (exec (.mins 0 17) (element 0x2052 1 [(12, 2)] (operands [5]))) (fun t => (t.elem 0 17).priv.op.group.map (·.pay) == [5]) = true ∧
    leads (exec (.xorr 0 17) (element 0x54 1 [] (operands [5]))) (fun t => (t.elem 0 17).priv.op.x == 5) = true ∧
    leads (exec (.crcs 0 17) (element 0x2055 1 [(6, 7), (32, 8)] (operands [0x80]))) (fun t =>
      (t.elem 0 17).priv.op.crc == 0x89 && (t.stageOf 0 33 0).map (·.pay) == [0x80]) = true ∧
    leads (exec (.mma 0 17) (element 0x660 2 [] (operands [0x3F80, 0x4000]))) (fun t =>
      (t.elem 0 17).priv.xa.count == 1 && (t.stageOf 0 18 6).map (·.pay) == [0x3F80]) = true ∧
    leads (exec (.xacc 0 17) (element 0x61 1 [] (operands [0x3F800000]))) (fun t => (t.elem 0 17).priv.xa.count == 1) = true ∧
    leads (exec (.rng 0 17) (element 0x70 1 [] (operands [0]))) (fun t =>
      (t.stageOf 0 18 6).length == 1 && (t.stageOf 0 33 0).length == 1) = true := by
  decide +kernel

theorem test_forwarding_elements :
    fires (.pass 0 17) 0x00 1 [] [9] [9] [9] = true ∧ fires (.filt 0 17) 0x105 2 [] [9, 0] [] [9] = true ∧
    fires (.expd 0 17) 0x06 2 [(6, 44)] [9, 0] [44] [] = true ∧ fires (.rep 0 17) 0x07 1 [(12, 2)] [9] [9] [] = true ∧
    fires (.gate 0 17) 0x09 1 [] [9] [9] [] = true ∧ fires (.join 0 17) 0x0D 2 [] [9, 8] [9] [8] = true ∧
    fires (.const 0 17) 0x0E 0 [(6, 44)] [] [44] [] = true ∧
    left17 (exec (.cnt 0 17) (element 0x08 0 [(6, 10), (12, 3), (13, 5)] { priv := { op := { run := some (0, 1) } } })) [15] [] = true := by
  decide +kernel

theorem test_elements_under_way :
    left17 (exec (.rep 0 17) (element 0x07 1 [(12, 2)] (going { repTok := some (data 9), rep := 1 } {}))) [9] [] = true ∧
    leads (exec (.cnt 0 17) (element 0x08 1 [(10, 0x0B00), (12, 3)] (going { run := some (0, 1) } (operands [9])))) (fun t =>
      (t.elem 0 17).bufA == [] && (t.stageOf 0 18 6).length == 1) = true ∧
    leads (exec (.const 0 17) (element 0x10E 0 [(6, 44), (12, 2)] (going { run := some (0, 1) } {}))) (fun t =>
      (t.stageOf 0 18 6).map (fun k => (k.kind, k.pay)) == [(.data, 44), (.endTile, 0)] && (t.elem 0 17).priv.op.run == none) = true ∧
    leads (exec (.cnt 0 17) (element 0x08 0 [(11, 0x0101), (12, 3)] (going { run := some (0, 0) } {}))) (fun t =>
      (t.elem 0 17).priv.op.enabled == [1] && (t.elem 0 1).pulses == [{ route := 2, ctx := 0 }]) = true ∧
    left17 (exec (.steer 0 17) (element 0x01 2 [(32, 0x0480)] (operands [9, 1]))) [9] [1] = true ∧
    leads (exec (.swch 0 17) (element 0x902 2 [(32, 0x0402), (36, 0x0100)] (going { seq := 5, free := [(1, 1)] } (operands [9, 7])))) (fun t =>
      (t.stageOf 0 33 0).map (·.side) == [5] && (t.elem 0 17).priv.op.free == [(1, 0)]) = true ∧
    left17 (exec (.amrg 0 17) (element 0x04 3 [] (going { amrgLast := 0 } (operands [9, 8, 7])))) [8] [] = true := by
  decide +kernel

theorem test_threads_and_requests :
    leads (exec (.taga 0 17) (element 0x0A 2 [] (operands [9, 63]))) (fun t => (t.elem 0 17).bufB == [] && (t.elem 0 17).bufA == [data 9]) = true ∧
    left17 (exec (.tagf 0 17) (element 0x0B 1 [(32, 1)] (operands [9]))) [9] [] = true ∧
    leads (exec (.reord 0 17) (element 0x0C 1 [(32, 1)] (going { next := 3 } (operands [9])))) (fun t =>
      (t.elem 0 17).priv.op.window == [data 9]) = true ∧
    leads (exec (.reord 0 17) (element 0x0C 1 [(32, 1)] (going { next := 3, window := [data 8] } (operands [9])))) (fun t =>
      (t.elem 0 17).priv.op.window == [data 8] && (t.stageOf 0 18 6).map (·.kind) == [.error] &&
      t.faultQ.map (·.cause) == [0x4A]) = true ∧
    left17 (exec (.req 0 17) (element 0x62 2 [] { bufB := [data 8] })) [] [8] = true ∧
    leads (exec (.req 0 17) (element 0x162 3 [(2, 0), (4, 0x42)] { bufA := [data 9], bufC := [data 7] })) (fun t =>
      (t.stageOf 0 18 6).map (·.pay) == [9] && (t.stageOf 0 33 1).map (·.pay) == [7]) = true ∧
    leads (exec (.loopExitSteer 0 17) (element 0x101 3 [] (going { issue := [0, 3] } (operands [9, 0])))) (fun t =>
      (t.elem 0 17).priv.op.sq && (t.stageOf 0 33 0).map (fun k => (k.kind, k.tag)) == [(.squash, 3), (.data, 0)]) = true := by
  decide +kernel

theorem test_routing_elements :
    fires (.steer 0 17) 0x01 2 [] [9, 0] [] [9] = true ∧ fires (.merge 0 17) 0x03 3 [] [9, 8, 0] [8] [] = true ∧
    fires (.amrg 0 17) 0x04 1 [] [9] [9] [] = true ∧ fires (.swch 0 17) 0x102 2 [(32, 0x0402)] [9, 7] [] [9] = true ∧
    fires (.taga 0 17) 0x0A 2 [] [9] [9] [0] = true ∧ fires (.tagf 0 17) 0x0B 1 [] [9] [9] [0] = true ∧
    fires (.reord 0 17) 0x0C 1 [] [9] [9] [] = true ∧ fires (.req 0 17) 0x62 2 [] [9] [9] [] = true ∧
    leads (exec (.loopExitSteer 0 17) (element 0x101 3 [] { operands [9, 1] with priv := { op := { issue := [0, 3] } } })) (fun t =>
      (t.elem 0 17).priv.op.issue == [3] && (t.stageOf 0 18 6).map (·.pay) == [9]) = true ∧
    leads (exec (.loopExitSteer 0 17) (element 0x101 3 [] { bufC := [{ tag := 6 }] })) (fun t =>
      (t.elem 0 17).priv.op.issue == [6]) = true := by
  decide +kernel

/-! ## The fabric beside firings -/

def mark (k : Kind) (g : BitVec 6) : Token := { kind := k, tag := g }

def rounds : Elem := { bufA := [mark .round 0], bufB := [mark .round 0] }

def roundsAhead : Elem := { bufA := [mark .round 0, data 1], bufB := [mark .round 0] }

def west (l : List Token) : Elem := { lanes := [(6, { stage := l })] }

def squashed : Elem :=
  { west [mark .squash 3, mark .data 3, mark .data 4] with bufA := [mark .data 3, mark .data 5], pend := [{ tag := 3 }, { tag := 4 }] }

/-- Element 17 passes its west lane 0 to the east (field 20 of R71). -/
def passing (v : Elem) : State := element 0x10 0 [(20, 0xE000)] v

theorem witness_TokensPassElements :
    LiveElem (passing (west [data 9])) 0 17 0 quad ∧
    LeadsTo (passing (west [data 9])) 0 17 2 18 6 0 :=
  ⟨⟨rfl, rfl⟩, rfl, quad, rfl⟩

theorem witness_TokensPassElements_clauses :
    (passing (west [data 9])).headOf 0 17 6 = some (data 9) ∧
    (((passing {}).core 0).cfg 0 17).passTo 6 = [2] ∧ (((passing {}).core 0).cfg 0 17).takers 6 = [] ∧
    (passing {}).laneSpace 0 17 2 (data 9) = true ∧ quad.crosses 17 6 = false ∧
    markerSides (viewing 0x10 2 [(5, 0)] rounds).g = [([0, 1], [2], 8)] ∧
    readyB (element 0x10 2 [(5, 0)] rounds) = true ∧
    (viewing 0x10 2 [(5, 0)] rounds).sideMarker [0, 1] = some (mark .round 0) ∧
    (viewing 0x10 2 [(5, 0)] {}).dete = false ∧
    (passing (west [mark .squash 3, mark .data 3])).headOf 0 17 6 = some (mark .squash 3) ∧
    (viewing 0x660 2 [(32, 2)] {}).g.drainLanes = [2] ∧ (viewing 0x660 2 [(32, 2)] {}).g.chainLane = none := by
  decide +kernel

/-- ENDs at both inputs; a SQUASH at the head of a lane that element 17 takes and that it passes on. -/
def ends : Elem := { bufA := [mark .endTile 0], bufB := [mark .endTile 0] }

theorem witness_TokensPassElements_markers :
    readyB (element 0x10 2 [(5, 0)] ends) = true ∧ (viewing 0x10 2 [(5, 0)] ends).sideMarker [0, 1] = some (mark .endTile 0) ∧
    (viewing 0x10 2 [(5, 0)] ends).g.op ∉ [opPivg, opCmac, opMins, opXorr, opCrcs] ∧
    (element 0x10 2 [(5, 0)] ends).laneSpace 0 17 2 (mark .endTile 0) = true ∧
    (passing (west [mark .squash 3, mark .data 3])).allSpace 0 17 [2] (mark .squash 3) = true ∧
    ((passing (west [mark .squash 3, mark .data 3])).stageOf 0 17 6) = [mark .squash 3, mark .data 3] ∧
    (element 0x00 1 [] squashed).headOf 0 17 6 = some (mark .squash 3) ∧
    (((element 0x00 1 [] squashed).core 0).cfg 0 17).takers 6 = [0] := by
  decide +kernel

theorem test_end_clears_ctr :
    leads (exec (.markerConsume 0 17) (element 0x10 2 [(5, 0)] { ends with priv := { ctr := { val := 5, tag := 1 } } })) (fun t =>
      (t.elem 0 17).priv.ctr.val == 0 && t.stageOf 0 18 6 == [mark .endTile 0]) = true := by
  decide +kernel

theorem test_tokens_pass :
    leads (exec (.switchboxPass 0 17 6) (passing (west [data 9]))) (fun t =>
      t.stageOf 0 17 6 == [] && t.stageOf 0 18 6 == [data 9]) = true ∧
    leads (exec (.markerConsume 0 17) (element 0x10 2 [(5, 0)] roundsAhead)) (fun t =>
      (t.elem 0 17).bufA == [data 1] && (t.elem 0 17).bufB == [] && t.stageOf 0 18 6 == [mark .round 0]) = true ∧
    leads (exec (.squashArrival 0 17 6) (element 0x00 1 [] squashed)) (fun t =>
      t.stageOf 0 17 6 == [mark .data 4] && (t.elem 0 17).bufA == [mark .data 5] && (t.elem 0 17).pend.map (·.tag) == [4]) = true ∧
    leads (exec (.drainChainForward 0 17) (element 0x660 2 [(32, 2)] { drains := [data 7] })) (fun t =>
      (t.elem 0 17).drains == [] && t.stageOf 0 18 6 == [data 7]) = true := by
  decide +kernel

/-- An element with one pulse on route 3 of context 0, enabled from the west (F10: ENV, ENDIR 3). -/
def pulsed (f0 n : Nat) (more : List (Nat × Nat)) (v : Elem) : State := element f0 n more { v with pulses := [{ route := 3, ctx := 0 }] }

def role (s : State) : Option Nat :=
  match pulseRole (s.core 0) quad 17 { route := 3, ctx := 0 } with
  | .enable => some 0
  | .done => some 1
  | .commit => some 2
  | .credit => some 3

theorem witness_PulsesAndDrains :
    LiveElem (pulsed 0x09 1 [(10, 0x0B00)] {}) 0 17 0 quad ∧ role (pulsed 0x09 1 [(10, 0x0B00)] {}) = some 0 ∧
    role (pulsed 0x08 0 [(10, 0x0008), (11, 0x0100)] {}) = some 1 ∧ role (pulsed 0x01 2 [(32, 0x0480), (33, 3)] {}) = some 3 ∧
    role (pulsed 0x302 2 [(37, 0x0100)] {}) = some 3 ∧ role (pulsed 0x43 2 [(10, 0x0B00), (16, 1)] { pend := [{ tag := 3 }] }) = some 2 := by
  refine ⟨⟨rfl, rfl⟩, ?_⟩; decide +kernel

theorem test_pulses :
    leads (exec (.enablePulse 0 17) (pulsed 0x09 1 [(10, 0x0B00), (12, 5)] {})) (fun t =>
      (t.elem 0 17).priv.op.grants == 5 && (t.elem 0 17).pulses == []) = true ∧
    leads (exec (.enablePulse 0 17) (pulsed 0x0E 0 [(10, 0x0B00)] {})) (fun t => (t.elem 0 17).priv.op.runsDue == [0]) = true ∧
    leads (exec (.enablePulse 0 17) (pulsed 0x08 0 [(10, 0x0B00)] {})) (fun t => (t.elem 0 17).priv.op.runsDue == [0]) = true ∧
    leads (exec (.donePulse 0 17 3) (pulsed 0x08 0 [(10, 0x0008), (11, 0x0100)] {})) (fun t => (t.elem 0 17).priv.op.doneCnt == [1]) = true ∧
    leads (exec (.commitPulse 0 17) (pulsed 0x43 2 [(10, 0x0B00), (16, 1)] { pend := [{ tag := 3, gen := 1, own := some 5 }] })) (fun t =>
      (t.elem 0 17).pend == [] && (t.elem 0 17).priv.own.val == 5) = true ∧
    leads (exec (.creditPulse 0 17 3) (pulsed 0x01 2 [(32, 0x0480), (33, 3)] (going { outst := 4 } {}))) (fun t =>
      (t.elem 0 17).priv.op.outst == 3) = true ∧
    leads (exec (.creditPulse 0 17 3) (pulsed 0x302 2 [(37, 0x0100)] (going { free := [(3, 255)] } {}))) (fun t =>
      (t.elem 0 17).priv.op.free == [(3, 255)]) = true := by
  decide +kernel

/-- The oldest of two iterations waits for its commit; a drain route for a full KLEN. -/
theorem witness_PulsesAndDrains_commit :
    role (pulsed 0x43 2 [(10, 0x0B00), (16, 1)] { pend := [{ tag := 3, gen := 1, own := some 5 }, { tag := 4 }] }) = some 2 ∧
    ({ tag := 3, gen := 1, own := some 5 } : Upd).waits = true ∧ ({ tag := 4 } : Upd).tag ≠ 3 ∧
    (((element 0x61 1 [(32, 2)] {}).core 0).cfg 0 17).drainLanes ≠ [] := by
  decide +kernel

def dryPool : State :=
  { device member { regions := [(0, { quad with tagUsed := BitVec.allOnes 64 })], config := fieldsOf 0x0A 2 [], elems := [(17, operands [9])] }
    with allocs := [(0, launched)] }

theorem witness_PulsesAndDrains_dry :
    LiveElem dryPool 0 17 0 { quad with tagUsed := BitVec.allOnes 64 } ∧
    (dryPool.viewOf 0 { quad with tagUsed := BitVec.allOnes 64 } 0 17).g.op = opTaga ∧
    (dryPool.viewOf 0 { quad with tagUsed := BitVec.allOnes 64 } 0 17).g.works = true ∧
    (dryPool.viewOf 0 { quad with tagUsed := BitVec.allOnes 64 } 0 17).tok 0 = some (data 9) ∧
    (dryPool.viewOf 0 { quad with tagUsed := BitVec.allOnes 64 } 0 17).pool = BitVec.allOnes 64 ∧
    (dryPool.viewOf 0 { quad with tagUsed := BitVec.allOnes 64 } 0 17).seg 1 = [] ∧
    ({ quad with tagUsed := BitVec.allOnes 64 } : Region).serves 0 = true ∧ (dryPool.elem 0 17).dry = false := by
  refine ⟨⟨rfl, rfl⟩, ?_⟩; decide +kernel

theorem test_klen_and_tagdry :
    leads (exec (.klenDrain 0 17) (element 0x61 1 [(32, 2)] { priv := { due := some 0, xa := { count := 4 } } })) (fun t =>
      (t.elem 0 17).priv.due == none && (t.elem 0 17).priv.xa.count == 0 && (t.elem 0 17).drains.length == 1) = true ∧
    leads (exec (.tagdry 0 17) dryPool) (fun t =>
      (t.elem 0 17).dry && t.faultQ.map (fun f => (f.cause, f.place, f.info)) == [(0x66, 0x11, 64)]) = true := by
  decide +kernel

/-! ## The loader, the scheduler and accumulator commands -/

def loading (op : CfgOp) (l : Option Loading) : State :=
  device member { regions := [(0, field)], config := fieldsOf 0x10 2 [], loading := l,
                  cfgPath := if l.isSome then [] else [{ id := 1, ctx := some 0, region := 0, alloc := 0, op }] }

theorem witness_LoaderServesThePath :
    (loading (.write 0x00460005) none).region? 0 0 = some field ∧ field.phase = .placed ∧
    (field.slot 2).st ≠ .current ∧ (field.slot 2).st ≠ .retiring ∧
    ((loading .abort none).core 0).loading = none ∧ ((loading .abort none).core 0).cfgPath = [{ id := 1, ctx := some 0, region := 0, alloc := 0, op := .abort }] := by
  decide

theorem test_loader :
    leads (exec (.loaderServe 0) (loading (.write 0x00460005) none)) (fun t => ((t.core 0).cfg 0 1) 6 == 5) = true ∧
    leads (exec (.loaderServe 0) (loading (.load 2 0x10000 true false) none)) (fun t =>
      ((t.core 0).loading.map (·.slot)) == some 2 && ((t.region? 0 0).map fun r => (r.slot 2).st) == some .loading) = true ∧
    leads (exec (.loaderServe 0) (loading (.freeze 0x10000) none)) (fun t => decide ((t.region? 0 0).map (·.phase) = some (.freezing 0x10000 false))) = true ∧
    leads (exec (.loaderServe 0) (loading .abort none)) (fun t => decide ((t.region? 0 0).map (·.phase) = some .aborting)) = true ∧
    leads (exec (.loaderServe 0) (loading (.clr 0x1100) none)) (fun t => (t.core 0).xaCmds.map (fun x => x.left) == [[(0, 0), (1, 1), (16, 2), (17, 3)]]) = true ∧
    leads (exec (.loaderServe 0) (loading (.drain 0x0000 none) none)) (fun t => (t.core 0).xaCmds.length == 1) = true := by
  decide +kernel


/-- A full stream for the region: header, IADD at element 17 of its west and south lanes to the east, end (R68 to R71). -/
def addStream : List W32 := [0x003F0002, 0x33010000, 0, 0x04400010, 0x04414000, 0x04423000, 0x04440002, 0x007F0000]

def ending (cause : Option Nat) : State :=
  device member { regions := [(0, field)],
                  loading := some { cmd := { id := 1, ctx := some 0, region := 0, alloc := 0, op := .load 2 0x10000 true false },
                                    slot := 2, words := addStream, ended := true, cause } }

/-- What that stream says. -/
def addWrites : Stream1 :=
  { header := some [0x33010000, 0], writes := [(17, 0, 0x10), (17, 1, 0x4000), (17, 2, 0x3000), (17, 4, 2)] }

theorem witness_LoaderServesThePath_end :
    (ending none).region? 0 0 = some field ∧ ((ending none).core 0).loading.map (·.words) = some addStream ∧
    (match parseStream field (field.slot 2).hasHeader addStream with | .ok p => decide (p = addWrites) | .error _ => false) = true ∧
    contentsBad ((ending none).applyStream 0 0 2 addWrites) 0 field 2 = none ∧
    ((ending (some 0x25)).core 0).loading.bind (·.cause) = some 0x25 := by
  decide +kernel

theorem test_load_ends :
    leads (exec (.configLoadComplete 0) (ending none)) (fun t =>
      ((t.region? 0 0).map fun r => (r.slot 2).st) == some .ready && (t.core 0).cfg 2 17 1 == 0x4000 && (t.core 0).loading.isNone) = true ∧
    leads (exec (.configLoadComplete 0) (ending (some 0x25))) (fun t =>
      ((t.region? 0 0).map fun r => (r.slot 2).st) == some .idle && (t.core 0).cfg 2 17 1 == 0 &&
      t.faultQ.map (fun f => (f.cause, f.src)) == [(0x25, 3)]) = true := by
  decide +kernel

/-! The region scheduler: slot 0 holds configuration 0 in demand mode and is CURRENT, slot 1 configuration 1, READY; two
tokens wait at the entry of configuration 1 (element 16, west). -/

def onDemand : Region :=
  { field with slots := [(0, { st := .current, header := [0x33000400, 0] }), (1, { st := .ready, header := [0x33010400, 0] })] }

def twoConfs : Image := { shapes := [{ rows := 4, cols := 4, flags := 0, nconf := 2, init := 0, conftab := 0 }] }

def swapper (r : Region) : State :=
  { device member { regions := [(0, r)], config := [(cfgKey 1 16 0, 0), (cfgKey 1 16 1, 0x4000), (cfgKey 1 16 4, 2)],
                    elems := [(16, west [data 1, data 2])] }
    with allocs := [(0, { launched with img := twoConfs })] }

theorem witness_SchedulerSwapsOnDemand :
    (swapper onDemand).region? 0 0 = some onDemand ∧ onDemand.demandMode = true ∧ onDemand.stopped = false ∧
    onDemand.quantumUp = false ∧ onDemand.phase = .placed ∧ (∀ j, j < 4 → (onDemand.slot j).st ≠ .loading) ∧
    ((swapper onDemand).core 0).cfgPath = [] ∧ (swapper onDemand).threads 0 onDemand (onDemand.slot onDemand.cur).conf = 0 ∧
    (swapper onDemand).inFlight 0 onDemand = false ∧ (swapper onDemand).alloc? onDemand.alloc = some { launched with img := twoConfs } ∧
    twoConfs.shapes[onDemand.ireg]? = some { rows := 4, cols := 4, flags := 0, nconf := 2, init := 0, conftab := 0 } ∧
    bestConf (fun m => if m = (onDemand.slot onDemand.cur).conf then 0 else (swapper onDemand).threads 0 onDemand m) 2 = some (1, 2) ∧
    onDemand.slotOf 1 [.ready, .retiring] = some 1 ∧ (onDemand.slot 1).st = .ready := by
  decide +kernel

theorem test_scheduler :
    leads (exec (.regionSchedulerDecision 0 0) (swapper onDemand)) (fun t =>
      ((t.region? 0 0).map fun r => (r.cur, (r.slot 1).st)) == some (1, .current)) = true ∧
    leads (exec (.quantumExpiry 0 0) (swapper onDemand)) (fun t => ((t.region? 0 0).map (·.quantumUp)) == some true) = true := by
  decide +kernel

/-! Accumulator commands: element 17 holds COUNT 3 and V = 2^300, the value 1. -/

def holdsOne : Elem := { priv := { xa := { v := BitVec.ofNat 640 (2 ^ 300), count := 3, gen := 1 } } }

def commanding (op : CfgOp) (left : List (Nat × Nat)) (evt : Bool) : State :=
  device member { regions := [(0, field)], config := (cfgKey 0 17 26, 0x1200) :: (cfgKey 0 17 27, 9) :: fieldsOf 0x61 1 [(32, 2)],
                  elems := [(17, holdsOne)],
                  xaCmds := [{ cmd := { id := 5, ctx := some 0, region := 0, alloc := 0, op, evt }, left, armed := left.map (·.1) }] }

theorem witness_AccumulatorCommandsAct :
    (commanding (.drain 0x1111 none) [(17, 0)] false).region? 0 0 = some field ∧
    (commanding (.drain 0x1111 none) [(17, 0)] false).ctx? 0 field.ctx = some member ∧
    (((commanding (.drain 0x1111 none) [(17, 0)] false).core 0).nextXa 17).map (fun x => (x.left, x.armed)) = some ([(17, 0)], [17]) ∧
    ((commanding (.drain 0x1111 none) [(17, 0)] false).elem 0 17).settled = true ∧ field.live = true ∧
    ((commanding (.drain 0x1111 none) [(17, 0)] false).elem 0 17).priv.xa.gen = member.gen ∧
    (((commanding (.drain 0x1111 none) [(17, 0)] false).core 0).cfg field.cur 17).drainLanes ≠ [] ∧
    ((commanding (.clr 0x1111) [] true).core 0).xaCmds.map (fun x => (x.left, x.guardAt, x.badAt)) = [([], none, none)] := by
  decide +kernel

/-- The element's one command, which acts there for record 0 with nothing before it. -/
def oneCommand (op : CfgOp) (records : SMap (SMap Result)) : XaCmd :=
  { cmd := { id := 5, ctx := some 0, region := 0, alloc := 0, op }, left := [(17, 0)], armed := [17], records }

def commandFor (op : CfgOp) (records : SMap (SMap Result)) : State :=
  { commanding op [(17, 0)] false with
    cores := (commanding op [(17, 0)] false).cores.map fun q => (q.1, { q.2 with xaCmds := [oneCommand op records] }) }

/-- The record of the value 1, in the two lines that it lies in from 0x40, and the same with a read that failed. -/
def cameIn : SMap (SMap Result) :=
  [(0, [(0, .bytes (holdsOne.priv.xa.record.take 64) none), (64, .bytes (holdsOne.priv.xa.record.drop 64) none)])]
def failedRead : SMap (SMap Result) :=
  [(0, [(0, .bytes (holdsOne.priv.xa.record.take 64) none), (64, .failed 0x27)])]

theorem witness_AccumulatorCommandsAct_memory :
    ((commandFor (.spill 0x1111 0x40) []).core 0).xaCmds = [oneCommand (.spill 0x1111 0x40) []] ∧
    ((commandFor (.spill 0x1111 0x40) []).core 0).nextXa 17 = some (oneCommand (.spill 0x1111 0x40) []) ∧
    (oneCommand (.spill 0x1111 0x40) []).left.find? (fun p => p.1 = 17) = some (17, 0) ∧
    ((commandFor (.spill 0x1111 0x40) []).elem 0 17).settled = true ∧ (field.selected 0x1111)[0]? = some 17 ∧
    (oneCommand (.fill 0x1111 0x40) []).recordOf 0 = none ∧ (oneCommand (.fill 0x1111 0x40) []).asked = 0 ∧
    (oneCommand (.drain 0x1111 (some 0x40)) []).nextK = 0 := by
  decide +kernel

theorem witness_AccumulatorCommandsAct_records :
    (oneCommand (.fill 0x1111 0x40) cameIn).recordOf 0 = some (holdsOne.priv.xa.record, false, none) ∧
    ((oneCommand (.merge 0x1111 0x40) failedRead).recordOf 0).map (·.2.2) = some (some 0x27) ∧
    RecordGood holdsOne.priv.xa.record ∧ ¬RecordGood (holdsOne.priv.xa.record.set 80 1) := by
  unfold RecordGood; decide +kernel

theorem test_accumulator_records :
    leads (exec (.xaCommandAct 0 17) (commandFor (.spill 0x1111 0x40) [])) (fun t =>
      t.accesses.map (fun a => (a.addr, a.data.length)) == [(0x40, 64), (0x80, 32)] && (t.core 0).xaCmds.map (·.left) == [[]]) = true ∧
    leads (exec (.xaCommandAct 0 17) (commandFor (.fill 0x1111 0x40) [])) (fun t =>
      t.accesses.map (fun a => (decide (a.kind = .load), a.addr, a.size)) == [(true, 0x40, 64), (true, 0x80, 32)]) = true ∧
    leads (exec (.xaCommandAct 0 17) (commandFor (.merge 0x1111 0x40) cameIn)) (fun t =>
      let a := (t.elem 0 17).priv.xa
      a.v == BitVec.ofNat 640 (2 ^ 301) && a.count == 6 && (t.core 0).xaCmds.map (·.left) == [[]]) = true ∧
    leads (exec (.xaCommandAct 0 17) (commandFor (.merge 0x1111 0x40) failedRead)) (fun t =>
      (t.elem 0 17).priv.xa.count == 3 && t.faultQ.map (·.cause) == [0x27]) = true := by
  decide +kernel

theorem test_accumulator_commands :
    leads (exec (.xaCommandAct 0 17) (commanding (.clr 0x1111) [(17, 0)] false)) (fun t =>
      let a := (t.elem 0 17).priv.xa
      a.v == 0 && a.count == 0 && a.dfmt == 1 && a.drnd == 1 && a.klen == 9 && (t.core 0).xaCmds.map (·.left) == [[]]) = true ∧
    leads (exec (.xaCommandAct 0 17) (commanding (.drain 0x1111 none) [(17, 0)] false)) (fun t =>
      (t.elem 0 17).drains.map (·.pay) == [0x3F800000] && (t.elem 0 17).priv.xa.isEmpty) = true ∧
    leads (exec (.xaCommandComplete 0 5) (commanding (.clr 0x1111) [] true)) (fun t =>
      (t.core 0).xaCmds.isEmpty && ((t.ctx? 0 0).map fun k => k.events.look 74) == some (some 1)) = true := by
  decide +kernel

/-! ## Freezing, thawing, aborting, spawning -/

/-- A region of one element, and a device that holds it. -/
def cell (f : RegionPhase) (stopped : Bool) : Region :=
  { lr := 2, rows := 1, cols := 1, slots := [(0, { st := .current })], phase := f, stopped }

def holding (r : Region) (q : Core) : State :=
  { device { member with regs := [(4, { val := 6, tag := 1 })] } { q with regions := [(0, r)] } with allocs := [(0, launched)] }

def thawed : FrozenRegion := { region := cell .placed false, elems := [(0, operands [9])], config := [(cfgKey 0 0 0, 0x10)], gen := 5 }

def thawing : State := holding (cell .joining false) { installs := [(0, thawed)] }

/-- Port 0 with a binding under way. -/
def bindingAt0 (b : Binding) : Core := { ports := [(0, { bindings := [b] })] }

def anArea : Area := { core := 0, row := 0, col := 0, rows := 4, cols := 4 }

def spawning : State :=
  { device member {} with allocs := [(0, { launched with
      areas := [anArea], spawnQ := [{ core := 0, ctx := 0, region := 2, lr := 5, thaw := none, subgraph := 1 }] })] }

theorem witness_RegionsComeAndGo :
    (holding (cell (.freezing 0x10000 false) false) {}).region? 0 0 = some (cell (.freezing 0x10000 false) false) ∧
    ((holding (cell (.freezing 0x10000 false) false) {}).core 0).loadingFor 0 = false ∧
    ((holding (cell (.freezing 0x10000 false) false) {}).core 0).xaCmds = [] ∧
    (holding (cell (.freezing 0x10000 false) true) {}).quietPorts 0 (cell (.freezing 0x10000 false) true) = true ∧
    (thawing.core 0).installs.look 0 = some thawed ∧ thawing.alloc? 0 = some launched ∧ launched.st ≠ .frozen ∧
    (holding (cell .aborting false) (bindingAt0 bound7)).region? 0 0 = some (cell .aborting false) ∧
    (∀ p, p ∈ (cell .aborting true).ports → ((holding (cell .aborting true) {}).port 0 p).bindings = []) ∧
    (holding (cell .aborting true) {}).regionAccesses 0 (cell .aborting true) = [] ∧
    (holding (cell .aborting true) {}).stillLoads 0 0 = false := by
  decide +kernel

/-- Tables at 0x10000 and 0x20000 that map the first 512 MiB to themselves map an image there line by line. -/
theorem maps_image {s : State} {al : Alloc} {n : Nat} (hn : n ≤ 0x10000) (ha : s.alloc? 0 = some al) (hr : al.root = 0x10000)
    (h1 : Memory.readN s.mem 0x10000 8 = [3, 0, 2, 0, 0, 0, 0, 0]) (h2 : Memory.readN s.mem 0x20000 8 = [0x31, 0, 0, 0, 0, 0, 0, 0])
    (o1 : OwnLines s 0 0x10000 8) (o2 : OwnLines s 0 0x20000 8) : MapsImage s 0 0 0x40000 0x40000 n := by
  have home : ∀ i, 64 * i < n → homeOf (0x40000 + 64 * i) = some (.dram 0) := fun i hi => by
    unfold homeOf
    rw [if_pos (by simp only [dramEnd]; omega), show (0x40000 + 64 * i) / 0x4_0000_0000 = 0 by omega]
  refine ⟨by decide, fun i hi => ⟨0, home i hi⟩, fun u i rc hu hb hg hi => ?_⟩
  have e : ∀ k a, a + k ≤ 0x40000 → Memory.readN u.mem a k = Memory.readN s.mem a k := by
    intro k
    induction k with
    | zero => intros; rfl
    | succ k ih => intro a h; simp only [Memory.readN]; rw [hb a (by omega), ih (a + 1) (by omega)]
  have p1 : OwnLines u 0 0x10000 8 := fun l hl => by
    rw [show linesOf 0x10000 8 = [0x400] from rfl, List.mem_singleton] at hl
    rw [hg l (.inl (by omega))]; exact o1 l (by rw [hl]; decide)
  have p2 : OwnLines u 0 0x20000 8 := fun l hl => by
    rw [show linesOf 0x20000 8 = [0x800] from rfl, List.mem_singleton] at hl
    rw [hg l (.inl (by omega))]; exact o2 l (by rw [hl]; decide)
  have q1 : u.entryAt 0x10000 rc = (u, some 0x20003) := by
    unfold State.entryAt
    rw [show homeOf 0x10000 = some (.dram 0) from rfl]
    simp only [readAs_own false rc p1, e 8 0x10000 (by omega), h1]; rfl
  have q2 : u.entryAt 0x20000 rc = (u, some 0x31) := by
    unfold State.entryAt
    rw [show homeOf 0x20000 = some (.dram 0) from rfl]
    simp only [readAs_own false rc p2, e 8 0x20000 (by omega), h2]; rfl
  have low : bitsOf (0x40000 + 64 * i) 29 13 = 0 ∧ bitsOf (0x40000 + 64 * i) 42 6 = 0 ∧
      bitsOf (0x40000 + 64 * i) 0 29 = 0x40000 + 64 * i := by
    simp only [bitsOf]; omega
  have leaf : walkNext (0 + 1) 0x31 (0x40000 + 64 * i) = .ends (.page 0 true .normal true true) := by
    show WalkNext.ends (leafEnd 0x31 true (0x40000 + 64 * i)) = _
    unfold leafEnd
    simp only [if_true, low.2.2, show bitsOf 0x31 29 19 * 2 ^ 29 = 0 from rfl, Nat.zero_add, home i hi]
    rfl
  have w : u.walk 0x10000 (0x40000 + 64 * i) rc = (u, .page 0 true .normal true true) := by
    have t0 : tableEntry 0 0x10000 (0x40000 + 64 * i) = 0x10000 := by
      show 0x10000 + 8 * bitsOf (0x40000 + 64 * i) 42 6 = _
      rw [low.2.1]
    have t1 : tableEntry (0 + 1) 0x20000 (0x40000 + 64 * i) = 0x20000 := by
      show 0x20000 + 8 * bitsOf (0x40000 + 64 * i) 29 13 = _
      rw [low.1]
    simp only [State.walk, State.walkFrom, t0, q1, show walkNext 0 0x20003 (0x40000 + 64 * i) = .table 0x20000 from rfl, t1,
      q2, leaf]
  unfold State.linePlace
  simp only [hu, ha, hr, w, low.2.2, Nat.zero_add, if_true]
  rfl

/-- A stopped region whose image goes to 0x40000 of an allocation with such tables. -/
def freezingAt : State :=
  { holding (cell (.freezing 0x40000 false) true) {} with
    mem := Memory.writeN (Memory.writeN [] 0x10000 [3, 0, 2]) 0x20000 [0x31], allocs := [(0, { launched with root := 0x10000 })] }

theorem witness_RegionsComeAndGo_image :
    MapsImage freezingAt 0 0 ((0x40000 : Word).extractLsb' 0 48).toNat 0x40000
      (freezingAt.regionImage 0 (cell (.freezing 0x40000 false) true)).length :=
  maps_image (al := { launched with root := 0x10000 }) (by decide +kernel) rfl rfl (by decide) (by decide)
    (by unfold OwnLines; decide) (by unfold OwnLines; decide)

theorem witness_RegionsComeAndGo_installs :
    (thawed.elems.map fun v => (cell .joining false).elemAt v.1).Nodup ∧ (0, operands [9]) ∈ thawed.elems ∧
    (thawed.ports.map fun v => movedPort thawed.region ((cell .joining false).rect 0) v.1).Nodup ∧
    (thawed.config.map fun h => cfgKey (h.1 / 64 / 256) ((cell .joining false).elemAt (thawed.region.posOf (h.1 / 64 % 256))) (h.1 % 64)).Nodup ∧
    ((holding (cell .aborting false) (bindingAt0 bound7)).core 0).regionAt (portElem 0) = some (0, cell .aborting false) ∧
    0 ∈ (cell .aborting false).ports ∧ ((holding (cell .aborting false) (bindingAt0 bound7)).port 0 0).bindings = [bound7] ∧
    bound7.ended = none := by
  decide +kernel

theorem witness_RegionsComeAndGo_spawn :
    (spawning.alloc? 0).map (fun al => (al.spawnQ.map (·.lr), al.st)) = some ([5], .running) ∧ spawning.packetFreeze 0 = false ∧
    spawning.leavingSpawn 0 = none ∧ launched.img.shapes[1]? = some { rows := 2, cols := 2, flags := 4, nconf := 1, init := 0, conftab := 0 } ∧
    freeNo (spawning.core 0).regions 16 = some 0 ∧
    spawning.spawnRect 0 { launched with areas := [anArea] } 0 1 { rows := 2, cols := 2, flags := 4, nconf := 1, init := 0, conftab := 0 } =
      some (anArea, { core := 0, row := 0, col := 0, rows := 2, cols := 2 }) := by
  decide +kernel

/-- Event n of the member. -/
def eventOf (t : State) (n : Nat) : Option Nat := (t.ctx? 0 0).map fun k => k.events.lookD n 0

theorem test_regions_come_and_go :
    leads (exec (.freezeWave 0 0) (holding (cell (.freezing 0x10000 false) false) {})) (fun t =>
      ((t.region? 0 0).map (·.stopped)) == some true) = true ∧
    leads (exec (.thawInstall 0 0 0) thawing) (fun t =>
      ((t.region? 0 0).map (·.phase)) == some .placed && (t.elem 0 0).bufA == [data 9] && (t.core 0).cfg 0 0 0 == 0x10 &&
      eventOf t 66 == some 1) = true ∧
    leads (exec (.abortComplete 0 0 0) (holding (cell .aborting false) (bindingAt0 bound7))) (fun t =>
      (t.port 0 0).bindings.map (·.ended) == [some 0x7B] && ((t.region? 0 0).map (·.stopped)) == some true) = true ∧
    leads (exec (.abortComplete 0 0 0) (holding (cell .aborting true) {})) (fun t =>
      (t.core 0).regions.isEmpty && eventOf t 66 == some 1) = true ∧
    leads (exec (.spawnQueueService 0) spawning) (fun t =>
      ((t.region? 0 0).map fun r => (r.lr, r.ireg, r.rows, r.spawned)) == some (5, 1, 2, true) &&
      ((t.alloc? 0).map fun a => (a.spawnQ.length, a.areas.map (·.used))) == some (0, [some 0])) = true := by
  decide +kernel

theorem test_freeze_image :
    leads (exec (.freezeImageWritten 0 0) (holding (cell (.freezing 0x10000 false) true) {})) (fun t =>
      (t.core 0).regions.isEmpty && t.frozen.length == 1 && eventOf t 66 == some 1) = true := by
  decide +kernel

/-! ## Streams

The binding is under number 7 at port 0 (north of element 0), over buffer allocation 4 (R113): 64 bytes from 0x2000. -/

def streaming (b : Binding) (w : Port) : State :=
  device queueOf16 { fieldCore field with ports := [(0, { w with bindings := [b] })] }

/-- Eight words, to or from the buffer, an item of the whole. -/
def moving (dir : Nat) (st : BState) (fetched : List Fetched) : Binding :=
  { bound7 with pat := { eightLoads with ctrl := BitVec.ofNat 32 (0x40000 + dir * 0x400000) }, st, fetched }

theorem witness_BindingsMoveTokens :
    (streaming (moving 0 .queued []) {}).portLive 0 0 = true ∧ (streaming (moving 0 .active []) {}).engineTurn 0 0 = true ∧
    (streaming (moving 1 .active []) { out0 := [data 5] }).engineTurn 0 0 = true ∧ (moving 0 .active []).pat.hasScale = false ∧
    ((streaming (moving 0 .queued []) {}).port 0 0).bindings = [moving 0 .queued []] ∧
    (streaming (moving 0 .queued []) {}).ctx? 0 0 = some queueOf16 ∧ (moving 0 .active []).issued < (moving 0 .active []).pat.totalMoves ∧
    (moving 0 .active []).pat.addrAt ((moving 0 .active []).pat.moveOffset 0) = 0xFFFE000000400000 ∧
    addrForm 0xFFFE000000400000 = .buf 4 0 ∧ queueOf16.bufs.look 4 = some { base := 0x2000, size := 64, queue := false } ∧
    0 + (moving 0 .active []).pat.tb ≤ 64 ∧ queueOf16.queueOf (moving 0 .active []).pat = none ∧ (moving 0 .active []).pat.dir = 0 ∧
    (moving 1 .active []).pat.dir = 1 ∧ (moving 1 .active []).pat.perMove = 1 ∧ (moving 1 .active []).pat.hasScale = false ∧
    (streaming (moving 0 .active [{ move := 0, item := 0, ready := true, toks := [data 5] }]) {}).portSpace 0 0 0 = true := by
  decide +kernel

theorem test_bindings_move :
    leads (exec (.bindingActivate 0 0) (streaming (moving 0 .queued []) {})) (fun t => (t.port 0 0).bindings.map (·.st) == [.active]) = true ∧
    leads (exec (.streamMove 0 0) (streaming (moving 0 .active []) {})) (fun t =>
      t.accesses.map (fun a => (a.kind, a.addr, a.size, a.place)) == [(.load, 0xFFFE000000400000, 4, some (sbufAddr 0 0x2000, .normal))]) = true ∧
    leads (exec (.streamMove 0 0) (streaming (moving 0 .active [{ move := 0, item := 0, ready := true, toks := [data 5] }]) {})) (fun t =>
      t.stageOf 0 0 0 == [data 5]) = true ∧
    leads (exec (.streamMove 0 0) (streaming (moving 1 .active []) { out0 := [data 5] })) (fun t =>
      t.accesses.map (fun a => (a.kind, a.data, a.place)) == [(.store, [5, 0, 0, 0], some (sbufAddr 0 0x2000, .normal))] &&
      (t.port 0 0).out0 == []) = true := by
  decide +kernel

/-- A gather or scatter: index times 4 from the start of the same buffer. -/
def indexed (dir : Nat) : Binding :=
  { bound7 with pat := { eightLoads with ctrl := BitVec.ofNat 32 (0x40000 + dir * 0x400000), cnt0 := 0 }, st := .active }

/-- A load through page 3 of the allocation's space. -/
def ahead : Binding := { bound7 with pat := { eightLoads with base := 0x30000 }, st := .active }

def pageEntry : TlbEntry := { alloc := 0, page := 3, big := false, pa := 0x50000, attr := .normal, rd := true, wr := true }

def pagesAhead : State :=
  device queueOf16 { fieldCore field with ports := [(0, { bindings := [ahead] })], tlb := [pageEntry] }

def missingAhead : State := device queueOf16 { fieldCore field with ports := [(0, { bindings := [ahead] })] }

def overItem (failed : Bool) : Item := { no := 0, bytes := 4, failed, closed := true, cause := 0x22, addr := 0x77 }

def finishing (failed : Bool) : State := streaming { moving 0 .active [] with items := [overItem failed], itemNo := 1 } {}

def allMoved : Binding := { moving 0 .active [] with issued := 8, moved := 8, finished := 1 }

theorem witness_RequestsAndItems :
    (streaming (indexed 2) { out0 := [data 3] }).portLive 0 0 = true ∧ (indexed 2).pat.cnt0 = 0 ∧ (indexed 2).pat.dir = 2 ∧
    (indexed 3).pat.dir = 3 ∧ queueOf16.indexAddr (indexed 2).pat 3 = some 0xFFFE00000040000C ∧
    addrForm 0xFFFE00000040000C = .buf 4 12 ∧ 12 + (indexed 2).pat.tb ≤ 64 ∧
    (streaming (indexed 2) { out0 := [data 3] }).engineTurn 0 0 = true ∧
    (streaming (indexed 3) { out0 := [data 3], out1 := [data 8] }).engineTurn 0 0 = true ∧ ahead.wantsPage queueOf16 = some (3, []) ∧
    ((pagesAhead.core 0).tlb.find? (·.hits ahead.alloc (3 * 65536))) = some pageEntry ∧
    ((missingAhead.core 0).tlb.find? (·.hits ahead.alloc (3 * 65536))) = none ∧
    ((finishing true).port 0 0).bindings.map (fun b => b.items.find? Item.allOver) = [some (overItem true)] ∧
    (moving 0 .active []).pat.logn = 0 ∧ allMoved.through ((streaming allMoved {}).port 0 0) = true := by
  decide +kernel

theorem test_requests_and_items :
    leads (exec (.gatherRequest 0 0) (streaming (indexed 2) { out0 := [data 3] })) (fun t =>
      t.accesses.map (fun a => (a.kind, a.place)) == [(.load, some (sbufAddr 0 0x200C, .normal))] && (t.port 0 0).out0 == []) = true ∧
    leads (exec (.scatterRequest 0 0) (streaming (indexed 3) { out0 := [data 3], out1 := [data 8] })) (fun t =>
      t.accesses.map (fun a => (a.kind, a.data, a.place)) == [(.store, [8, 0, 0, 0], some (sbufAddr 0 0x200C, .normal))]) = true ∧
    leads (exec (.translateAhead 0 0) pagesAhead) (fun t => (t.port 0 0).bindings.map (·.translated) == [[(3, .placed 0x50000 .normal)]]) = true ∧
    leads (exec (.translateAhead 0 0) missingAhead) (fun t => t.accesses.map (·.client) == [.ahead 0 0 7 3]) = true ∧
    leads (exec (.itemFinish 0 0) (finishing true)) (fun t =>
      (t.port 0 0).bindings.map (fun b => (b.finished, b.failAny, b.items.length)) == [(1, true, 0)] &&
      t.faultQ.map (fun f => (f.cause, f.item, f.src, f.addr)) == [(0x22, true, 1, 0x77)]) = true ∧
    leads (exec (.itemFinish 0 0) (finishing false)) (fun t => t.faultQ.isEmpty) = true ∧
    leads (exec (.bindingDone 0 0) (streaming allMoved {})) (fun t =>
      (t.port 0 0).bindings.isEmpty && (t.port 0 0).dones.map (fun d => (d.seq, d.items)) == [(7, 1)]) = true := by
  decide +kernel

/-! ## Ring channels, ENDs and rounds

The ring lies in buffer allocation 4 of the member; port 0 sends into it, or receives from it. -/

def sendingRing (l : List Token) : State :=
  device queueOf16 { fieldCore field with ports := [(0, { out0 := l, tx := some { core := 0, port := 48, ctx := 0, buf := 4, slots := 8 } })] }

def oneSlot : Ctx := { queueOf16 with bufs := [(4, { base := 0x2000, size := 64, queue := true, wptr := 8 })] }

/-- DATA of tag 2, SIDE 1 and PAYLOAD 7 as its eight bytes (R58). -/
def receivingRing : State :=
  { device oneSlot { fieldCore field with ports := [(0, { rx := some { core := 4, port := 0, ctx := 0, buf := 4 } })] } with
    mem := Memory.writeN [] (sbufAddr 0 0x2000) [7, 0, 0, 0, 1, 2, 0, 0], gran := [(sbufAddr 0 0x2000 / 64, { tag := 1 })] }

/-- Core 40 is on another die. -/
def returning : State :=
  { cores := [(0, { ports := [(0, { tx := some { core := 40, port := 0, ctx := 1, buf := 4, slots := 2 } })] }),
              (40, { ports := [(0, { rx := some { core := 0, port := 0, ctx := 1, buf := 4, owed := 9 } })] })] }

def heldEnd : State :=
  device member { fieldCore field with ports := [(0, { hold := some {} })],
                                       elems := [(3, { hold := some {} }), (4, { lanes := [(6, { hold := some {} })] })] }

theorem witness_RingsAndRounds :
    ((sendingRing [data 7]).port 0 0).tx = some { core := 0, port := 48, ctx := 0, buf := 4, slots := 8 } ∧
    ((sendingRing [data 7]).core 0).regionAt (portElem 0) = some (0, field) ∧ field.live = true ∧
    queueOf16.bufs.look 4 = some { base := 0x2000, size := 64, queue := false } ∧
    8 ≤ ({ base := 0x2000, size := 64, queue := false } : Buf).space ∧ 0 % 64 + 8 ≤ 64 ∧
    (receivingRing.port 0 0).rx = some { core := 4, port := 0, ctx := 0, buf := 4 } ∧
    8 ≤ ({ base := 0x2000, size := 64, queue := true, wptr := 8 } : Buf).fill ∧ receivingRing.portSpace 0 0 0 = true ∧
    OwnLines receivingRing 1 (sbufAddr 0 0x2000) 8 ∧
    (returning.port 40 0).rx = some { core := 0, port := 0, ctx := 1, buf := 4, owed := 9 } := by
  unfold OwnLines; decide +kernel

theorem witness_RingsAndRounds_clauses :
    LiveElem (sendingRing [data 7]) 0 (portElem 0) 0 field ∧
    ((sendingRing [data 7]).core 0).regionAt (portElem 48) = some (0, field) ∧ (field.slot field.cur).st = .current ∧
    dieOf 0 = dieOf 0 ∧ ((sendingRing [data 7]).port 0 0).out1 = [] ∧
    (heldEnd.port 0 0).hold = some {} ∧ heldEnd.holdOver 0 {} = true ∧ ({} : Hold).released = false ∧
    (heldEnd.elem 0 3).hold = some {} ∧ (heldEnd.elem 0 3).out = [] ∧ (heldEnd.elem 0 4).hold = none ∧
    (heldEnd.elem 0 4).lanes = [(6, { hold := some {} })] :=
  ⟨⟨rfl, rfl⟩, by decide +kernel⟩

/-- A DET region of one element that drives port 0 north, with its next round closed there, and its log. -/
def detRegion (l : List LogEntry) : Region := { cell .placed false with det := true, log := l }

def logged : LogEntry :=
  { va := 0x30000, op := none, size := 4, round := 0, value := 0xAABBCCDD, elem := 0, port := 0, seq := 7, item := 0, mark := (0, 1),
    place := 0x10_0000_0000 }

def detField (l : List LogEntry) : State :=
  { device member { regions := [(0, detRegion l)], config := [(cfgKey 0 0 0, 0), (cfgKey 0 0 1, 0x3000), (cfgKey 0 0 4, 1)],
                    ports := [(0, { rounds := [(0, 1)] })] }
    with allocs := [(0, launched)] }

theorem witness_RingsAndRounds_log :
    (detField [logged]).allocRegions 0 = [(0, 0, detRegion [logged])] ∧
    (detField [logged]).region? 0 0 = some (detRegion [logged]) ∧
    (detField [logged]).spanning 0 0 (detRegion [logged]) = [(0, 0, detRegion [logged])] ∧
    (detField [logged]).logs 0 (detRegion [logged]) = true ∧ (detField [logged]).logLanes 0 (detRegion [logged]) = [(0, 0)] ∧
    (detField [logged]).entryQueue 0 (detRegion [logged]) logged = none ∧
    (detField [logged]).published 0 (detRegion [logged]) 0 = true ∧ (detField [logged]).lastLogs 0 = false ∧
    (detRegion [logged]).elems.count logged.elem = 1 ∧ (detField [logged]).accesses = [] ∧
    homeOf logged.place = some (.staging 0) ∧ logged.round.toNat = (detRegion [logged]).applied % 2 ^ 32 ∧
    (detField []).published 0 (detRegion []) 0 = true := by
  decide +kernel

theorem test_rings_and_rounds :
    leads (exec (.ringSend 0 0) (sendingRing [{ kind := .data, ctx := 1, tag := 2, side := 1, pay := 7 }])) (fun t =>
      Memory.readN t.mem (sbufAddr 0 0x2000) 8 == [7, 0, 0, 0, 1, 2, 0, 0] && (t.port 0 0).out0 == [] &&
      ((t.ctx? 0 0).bind fun q => q.bufs.look 4).map (·.wptr) == some 8) = true ∧
    leads (exec (.ringDeliver 0 0) receivingRing) (fun t => t.stageOf 0 0 0 == [{ kind := .data, tag := 2, side := 1, pay := 7 }]) = true ∧
    leads (exec (.ringSlotReturn 40 0) returning) (fun t => ((t.port 40 0).rx.map (·.owed)) == some 1 &&
      t.slotReturns == [{ core := 0, port := 0, rxCore := 40, ctx := 1, buf := 4, units := 1, hops := [(0, true)] }]) = true ∧
    leads (exec (.endRelease 0 256) heldEnd) (fun t => ((t.port 0 0).hold.map (·.released)) == some true) = true ∧
    leads (exec (.endRelease 0 3) heldEnd) (fun t => ((t.elem 0 3).hold.map (·.released)) == some true) = true ∧
    leads (exec (.endRelease 0 4) heldEnd) (fun t => (((t.elem 0 4).lane 6).hold.map (·.released)) == some true) = true ∧
    leads (exec (.detRoundApply 0) (detField [])) (fun t => ((t.region? 0 0).map (·.applied)) == some 1) = true ∧
    leads (exec (.detRoundApply 0) (detField [logged])) (fun t =>
      ((t.region? 0 0).map fun r => (r.applied, r.log.length)) == some (1, 0) &&
      Memory.readN t.mem 0x10_0000_0000 4 == [0xDD, 0xCC, 0xBB, 0xAA]) = true := by
  decide +kernel

/-! ## Memory accesses at their homes -/

/-- The member's only access, of instruction 0 of its block, at 8 bytes into the first granule of its partition. -/
def homeward (kind : AccKind) (bytes : List Byte) (engine : Bool) : Access :=
  { id := 3, client := .body 0 0 0 0, alloc := 0, kind, addr := 0xFFFD_0000_0000_0008, size := 4, data := bytes,
    place := some (cpAddr 0 8, .normal), granted := true, engine }

def performing (i : Instr) (kind : AccKind) (bytes : List Byte) (engine : Bool) (tag : BitVec 12) : State :=
  { device (within member (waitingBlock i)) {} with
    accesses := [homeward kind bytes engine], nextId := 4
    mem := Memory.writeN [] (cpAddr 0 4) [1, 2, 3, 4, 5, 0, 0, 0x80, 9], gran := [(cpAddr 0 0 / 64, { tag })] }

theorem at_home (i : Instr) (kind : AccKind) (bytes : List Byte) (engine : Bool) (tag : BitVec 12)
    (h : (homeward kind bytes engine).homeDie = 0) (m : (homeward kind bytes engine).missing = none) :
    AtHome (performing i kind bytes engine tag) (homeward kind bytes engine) (cpAddr 0 8) := by
  refine ⟨rfl, rfl, rfl, m, rfl, rfl, rfl, rfl, h.trans (show 0 = dieOf (Client.core (.body 0 0 0 0)) from rfl), ?_, ?_, .cpMem 0, by decide, by decide⟩
  · show cpAddr 0 8 % 64 + 4 ≤ 64; decide
  · show 0 < 4; decide

theorem witness_AccessesArePerformed_home :
    AtHome (performing (.ldwx .always 0 0 0x081) .load [] false 1) (homeward .load [] false) (cpAddr 0 8) ∧
    AtHome (performing (.stw .always 0 0) .store [1, 2, 3, 4] false 1) (homeward .store [1, 2, 3, 4] false) (cpAddr 0 8) ∧
    AtHome (performing (.amominu .always 0 .rlx .die true 0x081) (.atomic .minu) [7, 0, 0, 0, 0, 0, 0, 0] false 1)
      (homeward (.atomic .minu) [7, 0, 0, 0, 0, 0, 0, 0] false) (cpAddr 0 8) ∧
    (performing (.ldwx .always 0 0 0x081) .load [] false 1).clientGen (homeward .load [] false) = 1 :=
  ⟨at_home _ _ _ _ _ (by decide) (by decide), at_home _ _ _ _ _ (by decide) (by decide),
    at_home _ _ _ _ _ (by decide) (by decide), by decide⟩

theorem witness_AccessesArePerformed :
    Memory.wf (performing (.ldwx .always 0 0 0x081) .load [] false 1).mem = true ∧
    (homeward .load [] false).place = some (cpAddr 0 8, .normal) ∧ cpAddr 0 8 % 64 + 4 ≤ 64 ∧
    homeOf (cpAddr 0 8) = some (.cpMem 0) ∧
    (performing (.ldwx .always 0 0 0x081) .load [] false 1).ctx? 0 0 = some (within member (waitingBlock (.ldwx .always 0 0 0x081))) ∧
    (waitingBlock (.ldwx .always 0 0 0x081)).num = 0 ∧ ((waitingBlock (.ldwx .always 0 0 0x081)).fields 0).isSome = true ∧
    (waitingBlock (.ldwx .always 0 0 0x081)).ops.look 0 = some (.ldwx .always 0 0 0x081) ∧
    OwnLines (performing (.ldwx .always 0 0 0x081) .load [] false 1) 1 (cpAddr 0 8) 4 ∧
    (performing (.ldwx .always 0 0 0x081) .load [] false 1).genAt 0 1 (cpAddr 0 8) = 1 ∧
    taggedAt (cpAddr 0 8 / 64 * 64) = true := by
  unfold OwnLines; decide +kernel

theorem test_accesses_performed :
    accepts (exec (.accessPerformed 3) (performing (.ldwx .always 0 0 0x081) .load [] false 1)) 0xFFFFFFFF80000005 = true ∧
    leads (exec (.accessPerformed 3) (performing (.stw .always 0 0) .store [0xA, 0xB, 0xC, 0xD] false 1)) (fun t =>
      Memory.readN t.mem (cpAddr 0 4) 9 == [1, 2, 3, 4, 0xA, 0xB, 0xC, 0xD, 9] && t.accesses.isEmpty) = true ∧
    leads (exec (.accessPerformed 3) (performing (.stw .always 0 0) .store [0xA, 0xB, 0xC, 0xD] false 6)) (fun t =>
      Memory.readN t.mem (cpAddr 0 4) 9 == [0, 0, 0, 0, 0xA, 0xB, 0xC, 0xD, 0]) = true ∧
    accepts (exec (.accessPerformed 3) (performing (.amominu .always 0 .rlx .die true 0x081) (.atomic .minu) [7, 0, 0, 0, 0, 0, 0, 0] false 1))
      0xFFFFFFFF80000005 = true ∧
    leads (exec (.accessPerformed 3) (performing (.amominu .always 0 .rlx .die true 0x081) (.atomic .minu) [7, 0, 0, 0, 0, 0, 0, 0] false 1)) (fun t =>
      Memory.readN t.mem (cpAddr 0 4) 9 == [1, 2, 3, 4, 7, 0, 0, 0, 9]) = true := by
  decide +kernel

/-- An access at a virtual address, not yet translated; a TLB that maps its page, or none. The tables stand at 0x10000. -/
def untranslated : Access := { id := 3, client := .body 0 0 0 0, alloc := 0, kind := .load, addr := 0x30010, size := 4 }

def walking (l : List TlbEntry) : State :=
  { device member { tlb := l } with accesses := [untranslated], nextId := 4, allocs := [(0, { st := .running, root := 0x10000 })] }

/-- The walk of that page has come to its leaf, whose entry maps page 3 to itself (R435). -/
def leafWalk : Walk := { id := 3, core := 0, alloc := 0, va := 0x30010, level := 2, note := { cause := 0, src := 0 } }

def leafRead : Access :=
  { id := 9, client := .walk 0 3, alloc := 0, kind := .load, addr := 0x20018, size := 8, place := some (0x20018, .normal),
    granted := true }

def leafReading : State :=
  { device member {} with accesses := [leafRead], dies := [(0, { walks := [leafWalk] })]
                          mem := Memory.writeN [] 0x20018 [0x31, 0, 3] }

/-- A request that waits at the arbiter of core 0: stream 2, home on die d, with the budget given. -/
def request (d : Nat) : Access := { untranslated with place := some (d * 0x4_0000_0000, .normal), payer := .member 0 0 }

def arbiting (d : Nat) (limit : Option Nat) : State :=
  { device { member with stream := 2, budget := { dram := { limit } } } {} with accesses := [request d] }

def semHere : AccKind := .atomic .semWait

theorem witness_WalksArbiterAndSemaphores :
    Memory.wf (walking [pageEntry]).mem = true ∧ untranslated.missing = some 0x30010 ∧
    ((walking [pageEntry]).die (dieOf 0)).walks = [] ∧
    ((walking [pageEntry]).core 0).tlb.find? (·.hits 0 0x30010) = some pageEntry ∧
    ((walking []).core 0).tlb.find? (·.hits 0 0x30010) = none ∧
    ((walking []).alloc? 0).map (·.root) = some 0x10000 ∧ homeOf (tableEntry 0 0x10000 0x30010) = some (.dram 0) ∧
    (arbiting 0 none).waiting 0 = [request 0] ∧ (arbiting 1 none).waiting 0 = [request 1] ∧
    (request 0).homeDie = 0 ∧ (request 1).homeDie = 1 ∧
    (arbiting 0 none).arbStanding (request 0) = .go ∧ (arbiting 1 none).arbStanding (request 1) = .go ∧
    (arbiting 0 (some 0)).arbStanding (request 0) = .defer ∧
    (arbiting 0 (some 0)).payerStream (request 0).payer = some 2 := by
  decide +kernel

/-- A request of two lines, of a member whose quota is one line a round. -/
def wideRequest : Access := { request 0 with place := some (0x3C, .normal), size := 8 }

def arbitingWide : State := { arbiting 0 none with accesses := [wideRequest] }

theorem witness_WalksArbiterAndSemaphores_lines :
    arbitingWide.waiting 0 = [wideRequest] ∧ arbitingWide.arbStanding wideRequest = .go ∧ (request 0).parts.length = 1 ∧
    wideRequest.grants + 1 < wideRequest.parts.length ∧ arbitingWide.quotaOf wideRequest.payer = 1 := by
  decide +kernel

theorem witness_WalksArbiterAndSemaphores_leaf :
    AtHome leafReading leafRead 0x20018 ∧ (leafReading.die (dieOf 0)).walks = [leafWalk] ∧
    OwnLines leafReading (leafReading.genAt 0 (leafReading.clientGen leafRead) 0x20018) 0x20018 8 ∧
    walkNext leafWalk.level (leNat (Memory.readN leafReading.mem 0x20018 8)) leafWalk.va = .ends (.page 0x30000 false .normal true true) :=
  ⟨⟨rfl, rfl, rfl, by decide, rfl, rfl, rfl, rfl, by decide, by decide, by decide, .dram 0, by decide, by decide⟩, rfl,
    by unfold OwnLines; decide +kernel, by decide +kernel⟩

theorem witness_WalksArbiterAndSemaphores_place :
    placeOf .load (pageEntry.place 0x30010) .normal true true = .ok (0x50010, .normal) := rfl

theorem witness_WalksArbiterAndSemaphores_sem :
    (performing (.semWait .always .acq .die 0x081) semHere [3, 0, 0, 0, 0, 0, 0, 0] true 1).teasel.packets = [] ∧
    (((waitingBlock (.semWait .always .acq .die 0x081)).fields 0).map isEngine) = some true ∧
    (waitingBlock (.semWait .always .acq .die 0x081)).memWords = [] ∧
    (homeward semHere [3, 0, 0, 0, 0, 0, 0, 0] true).homeDie = 0 ∧ (homeward semHere [3, 0, 0, 0, 0, 0, 0, 0] true).missing = none ∧
    OwnLines (performing (.semWait .always .acq .die 0x081) semHere [3, 0, 0, 0, 0, 0, 0, 0] true 1) 1 (cpAddr 0 8) 4 := by
  unfold OwnLines; decide +kernel

theorem test_walks_and_arbiter :
    leads (exec (.walk 0 3) (walking [pageEntry])) (fun t => t.accesses.map (·.place) == [some (0x50010, .normal)]) = true ∧
    leads (exec (.walk 0 3) (walking [])) (fun t => (t.die 0).walks.map (fun w => (w.id, w.va)) == [(3, 0x30010)] &&
      t.accesses.map (fun a => (a.client, a.place)) == [(.body 0 0 0 0, none), (.walk 0 3, some (0x10000, .normal))]) = true ∧
    leads (exec (.accessPerformed 9) leafReading) (fun t => (t.die 0).walks.isEmpty &&
      (t.core 0).tlb.map (fun e => (e.page, e.pa, e.big)) == [(3, 0x30000, false)]) = true ∧
    leads (exec (.arbitrationRound 0) (arbiting 0 none)) (fun t => t.accesses.map (fun a => (a.granted, a.crossing)) == [(true, false)]) = true ∧
    leads (exec (.arbitrationRound 0) (arbiting 1 none)) (fun t =>
      t.accesses.map (fun a => (a.granted, a.crossing)) == [(true, true)] && t.flights.map (·.hops) == [[(0, false)]]) = true ∧
    leads (exec (.arbitrationRound 0) (arbiting 0 (some 0))) (fun t =>
      t.accesses.map (fun a => (a.granted, a.deferred)) == [(false, some 0)] && (t.stream 2).defer == 1) = true := by
  decide +kernel

theorem test_semaphores :
    accepts (exec (.semRetest 3) (performing (.semWait .always .acq .die 0x081) semHere [3, 0, 0, 0, 0, 0, 0, 0] true 1)) 0x80000005 = true ∧
    leads (exec (.semRetest 3) (performing (.semWait .always .acq .die 0x081) semHere [3, 0, 0, 0, 0, 0, 0, 0] true 1)) (fun t =>
      Memory.readN t.mem (cpAddr 0 8) 4 == [2, 0, 0, 0x80]) = true ∧
    leads (exec (.semRetest 3) (performing (.semWait .always .acq .die 0x081) semHere [6, 0, 0, 0x80, 0, 0, 0, 0] true 1)) (fun t =>
      t.accesses.length == 1 && t.acts == 0) = true := by
  decide +kernel

/-! ## Upkeep, marks and events -/

/-- A granule of a live member and one of generation 9, which no member has. -/
def sweeping : State :=
  { device member { sweepDue := true } with
    mem := Memory.writeN (Memory.writeN [] (sbufAddr 0 0) [1]) (sbufAddr 0 64) [2]
    gran := [(sbufAddr 0 0 / 64, { tag := 1 }), (sbufAddr 0 64 / 64, { tag := 9 })] }

def dieSweeping : State :=
  { allocs := [(0, { st := .running, sgens := [1, 1, 1, 1] })], dies := [(1, { sweepDue := true })]
    mem := Memory.writeN (Memory.writeN [] 0x10_0080_0000 [1]) 0x10_0080_0040 [2]
    gran := [(0x10_0080_0000 / 64, { tag := 1 }), (0x10_0080_0040 / 64, { tag := 9 })] }

theorem witness_SweepsClearDeadGranules : (sweeping.core 0).sweepDue = true ∧ (dieSweeping.die 1).sweepDue = true := by
  decide

theorem test_sweeps :
    leads (exec (.sweep 0) sweeping) (fun t =>
      Memory.read t.mem (sbufAddr 0 0) == 1 && Memory.read t.mem (sbufAddr 0 64) == 0 && (t.core 0).genNext == 1) = true ∧
    leads (exec (.stagingSweep 1) dieSweeping) (fun t =>
      Memory.read t.mem 0x10_0080_0000 == 1 && Memory.read t.mem 0x10_0080_0040 == 0 && (t.die 1).sgenNext == 1) = true := by
  decide +kernel

def oneRecord : FaultRec := { cause := 0x26, src := 4, addr := 0x1122334455667788, info := 1, slot := 2, gen := 3 }

def recording (log2n : BitVec 4) (head tail : W32) : State := { faultQ := [oneRecord], dev := { boot := .ready, log2n, offset := 0x1000, head, tail, seq := 7 } }

theorem witness_ErrorsRecordsAndService :
    Memory.wf (recording 4 0 5).mem = true ∧ (device member {}).ctx? 0 0 = some member ∧
    (({ gran := [(5, { bad := true })] } : State).granule 5).bad = true ∧
    (({ gran := [(5, { bad := true })] } : State).granule 5).reported = false ∧ (recording 4 0 5).dev.ringOn = true ∧ (recording 4 0 5).dev.campionUp = true ∧
    ((recording 4 0 5).dev.tail - (recording 4 0 5).dev.head).toNat ≠ 2 ^ 4 ∧ (recording 0 0 5).dev.ringOn = false ∧
    ((recording 4 0 16).dev.tail - (recording 4 0 16).dev.head).toNat = 2 ^ 4 := by
  decide

theorem test_errors_and_records :
    leads (exec (.softErrorDetect (.register 0 0 4)) (device member {})) (fun t =>
      ((t.ctx? 0 0).map fun q => (q.reg 4).poison) == some true && t.faultQ.map (·.cause) == [0x87]) = true ∧
    leads (exec (.patrolScrub 5) { gran := [(5, { bad := true })], dev := { boot := .ready } }) (fun t =>
      (t.granule 5).poison && !(t.granule 5).bad && t.faultQ.map (fun f => (f.cause, f.info)) == [(0x26, 320)]) = true ∧
    leads (exec .faultRecordWrite (recording 4 0 5)) (fun t =>
      Memory.readN t.mem (portBase + 0x1000 + 160) 32 == [0x26, 4, 0xFF, 0, 0, 0xFF, 0xFF, 0, 0x88, 0x77, 0x66, 0x55, 0x44, 0x33, 0x22,
        0x11, 1, 0, 0, 0, 0, 0, 0, 0, 2, 0, 0, 0, 3, 0, 7, 0] && t.dev.tail == 6 && t.dev.seq == 8) = true ∧
    leads (exec .faultRecordWrite (recording 4 0 16)) (fun t => t.mem.isEmpty && t.dev.ovf && t.dev.lost == 1 && t.dev.tail == 16) = true ∧
    leads (exec (.serviceAccess (.readReg 0 0 4)) ({ device { member with regs := [(4, { val := 6, tag := 1 })] } {} with dev := { boot := .ready } })) (fun t =>
      t.serviceOut == [6, 0, 0, 0, 0, 0, 0, 0, 1, 0]) = true ∧
    leads (exec (.serviceAccess (.writeGranule 5 (List.replicate 64 7) 3 true 0xF0)) { dev := { boot := .ready } }) (fun t =>
      Memory.read t.mem 383 == 7 && Memory.read t.mem 384 == 0 && (t.granule 5).tag == 3) = true := by
  decide +kernel

/-- Stream 2, with a slot mark at the unit or at core 0; its only member is the device's. -/
def marking (kind : Bool) : State :=
  { device { member with stream := 2 } { markQ := [{ stream := 2, slotMark := kind, view := { sym := 3, slot := 8, kind, index := 5, ldram := 100 } }] }
    with allocs := [(0, { st := .running, strm := 2, members := [⟨0, 0⟩] })]
         streams := [(2, { view := { sym := 3, slot := 7 }, ldram := 100, pend := true })]
         teasel := { marks := [{ stream := 2, kind, index := 5 }] }
         eventMsgs := [{ core := 0, ctx := 0, event := 80, alloc := 0 }] }

theorem witness_MarksAndEvents :
    (marking true).teasel.marks = [{ stream := 2, kind := true, index := 5 }] ∧ (marking true).boundMembers 2 = [⟨0, 0⟩] ∧
    ((marking true).core 0).markQ.map (·.slotMark) = [true] ∧ (marking true).lateBindings 0 2 8 = [] ∧
    (marking true).eventMsgs[0]? = some { core := 0, ctx := 0, event := 80, alloc := 0 } ∧
    (marking false).teasel.marks = [{ stream := 2, kind := false, index := 5 }] := by
  decide

theorem test_marks_and_events :
    leads (exec .markUnitApply (marking true)) (fun t =>
      (t.stream 2).view.slot == 8 && (t.stream 2).view.ldram == 100 && (t.core 0).markQ.length == 2) = true ∧
    leads (exec .markUnitApply (marking false)) (fun t =>
      (t.stream 2).view.sym == 4 && (t.stream 2).view.slot == 7 && (t.stream 2).view.ldram == 0xFFFFFFFF) = true ∧
    leads (exec (.markApply 0) (marking true)) (fun t =>
      ((t.core 0).marks.lookD 2 {}).slot == 8 && ((t.ctx? 0 0).map fun k => k.budget.dram.limit) == some (some 100)) = true ∧
    leads (exec (.eventDelivery 0) (marking true)) (fun t => eventOf t 80 == some 1 && t.eventMsgs.isEmpty) = true := by
  decide +kernel

/-! ## Teasel

Queue 3 with a ring of 16 slots at 0x1000 of port memory; the packet in its strip is number 7. -/

def packet (d : List Word) : Packet := { id := 7, queue := 3, d, addr := 0x2000 }

def stripOf (d : List Word) (st : PacketState) : State :=
  { dev := { boot := .ready, feath := 0x1F }, nextId := 8,
    queues := [(3, { base := 0x1000, log2n := 4, head := 2, tail := 5, cur := if st = .read then some 7 else none,
                     infl := if st = .read then 0 else 1, waiting := st = .started })],
    teasel := { packets := [{ packet d with st }] } }

/-- The same beside a running allocation 0 with its member. -/
def stripBeside (d : List Word) : State :=
  { stripOf d .read with cores := (device member {}).cores, allocs := (device member {}).allocs }

/-- MARK of stream 2, a slot mark, of index 5; a packet of no type; a SIGNAL with a reserved bit set. -/
def markPacket : List Word := [0x220002, 5, 0, 0, 0, 0, 0, 0]
def signalBad : List Word := [0x10003, 0x100, 9, 0, 0, 0, 0, 0]

/-- The ring's slot 2 holds a MARK. -/
def ringWith : State :=
  { stripOf [] .read with teasel := {}, queues := [(3, { base := 0x1000, log2n := 4, head := 2, tail := 5 })],
                          mem := Memory.writeN [] (portBase + 0x1080) [2, 0, 0x22, 0, 0, 0, 0, 0, 5] }

theorem inStrip_of {d : List Word} {ty : Nat} (h : (packet d).type = ty) : InStrip (stripOf d .read) 3 ty (packet d) :=
  ⟨rfl, rfl, rfl, rfl, h⟩

theorem inStrip_beside {d : List Word} {ty : Nat} (h : (packet d).type = ty) : InStrip (stripBeside d) 3 ty (packet d) :=
  ⟨rfl, rfl, rfl, rfl, h⟩

theorem witness_PacketsAreReadOrRefused :
    (ringWith.dev.boot = .ready ∧ ringWith.inStrip < 4 ∧ ringWith.chooseQueue = some (3, false) ∧ ringWith.openIndirect 3 = none ∧
      (ringWith.granule ((portBase + 0x1000 + 64 * 2) / 64)).bad = false ∧
      leNat ((Memory.readN ringWith.mem (portBase + 0x1080) 64).take 8) % 256 ≤ 0x0C) ∧
    InStrip (stripOf signalBad .read) 3 3 (packet signalBad) ∧ (stripOf signalBad .read).packetCheck (packet signalBad) = some 0x62 ∧
    (({ queues := [(3, { noticed := false, irqDue := true, done := true })] } : State).queue 3).noticed = false := by
  refine ⟨?_, inStrip_of (by decide), ?_, ?_⟩ <;> decide +kernel

theorem test_packets_read :
    leads (exec .packetRead ringWith) (fun t =>
      (t.queue 3).head == 3 && (t.queue 3).cur == some 8 && t.teasel.packets.map (·.d) == [markPacket]) = true ∧
    leads (exec (.signal 3) (stripOf signalBad .read)) (fun t =>
      t.faultQ.map (fun f => (f.cause, f.src, f.addr)) == [(0x62, 6, 0x2000)] && (t.queue 3).refused &&
      t.teasel.packets.map (fun p => (decide (p.st = .finished), p.refused)) == [(true, true)]) = true ∧
    leads (exec (.teaselWake 3) { queues := [(3, { noticed := false })], teasel := { asleep := true } }) (fun t =>
      (t.queue 3).noticed && !t.teasel.asleep) = true ∧
    leads (exec (.irqToleranceExpiry 3) { queues := [(3, { irqDue := true, done := true })] }) (fun t =>
      !(t.queue 3).irqDue && t.dev.irqN) = true := by
  decide +kernel

/-- Packet and state after a packet of the strip has started. -/
def starts (i : Instr) (s : State) (st : PacketState) (holds : Bool) (f : State → Bool) : Bool :=
  leads (exec i s) fun t => t.teasel.packets.map (·.st) == [st] && (t.queue 3).waiting == holds && (t.queue 3).cur.isNone && f t

/-- The smallest image (R198 to R200): 16 bytes of code, one region of one element, 4 KB of partition. -/
def tinyFile : List Byte :=
  [0x4D, 0x4F, 0x41, 0x32, 1, 0, 1, 0] ++ List.replicate 20 0 ++ [0, 0x10, 0, 0, 0x80, 0, 0, 0, 1, 0, 0, 0xFF, 0xA0, 0, 0, 0, 0, 0, 0, 0,
    8, 0, 0, 0, 0, 0, 0, 0] ++ List.replicate 72 0
    ++ [1, 0, 0, 0, 0, 0, 0, 0, 0xC0, 0, 0, 0, 0, 0, 0, 0, 16, 0, 0, 0, 0, 0, 0, 0, 0, 0, 0, 0, 0, 0, 0, 0]
    ++ List.replicate 48 0

/-- Tables at 0x10000 and 0x20000 that map the first 512 MiB to themselves (R121), and the file at 0x30000. -/
def mapped : List Host.Cell := Memory.writeN (Memory.writeN [] 0x10000 [3, 0, 2]) 0x20000 [0x31]

def launchPacket : List Word := [0x5220001, 0x10000, 0x40000, 0x30000, 11, 12, 13, 0]
def launching : State := { stripOf launchPacket .read with mem := Memory.writeN mapped 0x30000 tinyFile }

def budgetPacket : List Word := [0x20007, 100, 200, 300, 0x15, 0, 0, 0]
def copyPacket : List Word := [0x100005, 0x1000, 0x2000, 100, 0, 0, 0, 0]
def freezePacket : List Word := [8, 0x40000, 0x100000, 0, 0, 0, 0, 0]
def attestPacket : List Word := [11, BitVec.ofNat 64 portBase, 1, 2, 3, 4, 0, 0]
def indirectPacket : List Word := [12, 0x1000, 6, 0, 0, 0, 0, 0]
def signalPacket : List Word := [3, 0x100, 9, 0, 0, 0, 0, 0]
def waitPacket : List Word := [4, 0x100, 9, 0, 0, 0, 0, 0]

theorem witness_PacketsStart :
    (∀ d, d ∈ [[0, 0, 0, 0, 0, 0, 0, 0], markPacket, signalPacket, waitPacket, copyPacket, [6, 0, 0, 0, 0, 0, 0, 0], budgetPacket,
      attestPacket, indirectPacket, launchPacket] → (stripOf d .read).packetCheck (packet d) = none) ∧
    (∀ d, d ∈ [freezePacket, [10, 0, 0, 0, 0, 0, 0, 0]] → (stripBeside d).packetCheck (packet d) = none) ∧
    InStrip (stripOf launchPacket .read) 3 1 (packet launchPacket) ∧ InStrip (stripOf markPacket .read) 3 2 (packet markPacket) ∧
    InStrip (stripOf copyPacket .read) 3 5 (packet copyPacket) ∧ InStrip (stripBeside freezePacket) 3 8 (packet freezePacket) ∧
    InStrip (stripBeside [10, 0, 0, 0, 0, 0, 0, 0]) 3 10 (packet [10, 0, 0, 0, 0, 0, 0, 0]) := by
  refine ⟨?_, ?_, inStrip_of (by decide), inStrip_of (by decide), inStrip_of (by decide), inStrip_beside (by decide),
    inStrip_beside (by decide)⟩ <;> decide +kernel

theorem witness_PacketsStart_launch :
    launching.packetCheck (packet launchPacket) = none ∧
    (launching.readImageFile 0x10000 (bitsOf ((packet launchPacket).arg 3).toNat 0 48)) = (launching, some (imageOf tinyFile)) ∧
    launching.everFits (imageOf tinyFile) = true ∧
    ((device member {}).alloc? 0).map (fun al => decide ((stripBeside freezePacket).areaBound 0 al ≤ 0x100000)) = some true ∧
    portBase + 0x8E40 ≤ portEnd := by
  decide +kernel

theorem test_packets_start :
    starts (.nop 3) (stripOf [0, 0, 0, 0, 0, 0, 0, 0] .read) .finished false (fun t => (t.queue 3).infl == 1) = true ∧
    starts (.launch 3) launching .started true (fun t => t.teasel.placing == [7] &&
      ((t.alloc? 5).map fun a => (a.strm, a.strict, a.segbase, a.args, a.seed1)) == some (2, true, 0x40000, 11, 13)) = true ∧
    starts (.mark 3) (stripOf markPacket .read) .started false (fun t =>
      t.teasel.marks == [{ stream := 2, kind := true, index := 5, packet := some 7 }]) = true ∧
    starts (.signal 3) (stripOf signalPacket .read) .started false (fun _ => true) = true ∧
    starts (.wait 3) (stripOf waitPacket .read) .started true (fun _ => true) = true ∧
    starts (.copy 3) (stripOf copyPacket .read) .started false (fun t =>
      t.teasel.pieces.map (fun k => (k.id, k.packet, k.src, k.dst, k.len, k.strm)) == [(8, 7, 0x1000, 0x2000, 100, 16)]) = true ∧
    starts (.fencePacket 3) (stripOf [6, 0, 0, 0, 0, 0, 0, 0] .read) .started true (fun _ => true) = true ∧
    starts (.budget 3) (stripOf budgetPacket .read) .finished false (fun t =>
      let k := t.stream 2
      (k.ldram, k.llink, k.lload) == (100, 200, 300) && (k.latepol, k.wt) == (1, 5) && k.pend) = true := by
  decide +kernel

theorem test_packets_start_allocations :
    starts (.freeze 3) (stripBeside freezePacket) .started false (fun t => ((t.ctx? 0 0).map (·.freezing)) == some true) = true ∧
    starts (.abort 3) (stripBeside [10, 0, 0, 0, 0, 0, 0, 0]) .started false (fun t =>
      ((t.alloc? 0).map fun a => (decide (a.st = .ending), a.aborting)) == some (true, true) &&
      ((t.ctx? 0 0).map (·.run)) == some .stopped) = true ∧
    starts (.indirect 3) (stripOf indirectPacket .read) .started false (fun t => t.teasel.packets.map (·.left) == [6]) = true := by
  decide +kernel

def thawPacket : List Word := [0x5000009, 0x30000, 0, 0, 0, 0, 0, 0]

/-- An image area of no member: its header line alone (R404). -/
def areaLine : List Byte := leBytes 0x4146_5A52_325A_4C47 8 ++ leBytes 0x40 8 ++ List.replicate 16 0 ++ hashBytes [] 32

def frozenArea : Frozen := { area := some 5, bytes := areaLine }

def frozenAlloc : Alloc := { st := .frozen, root := 0x10000 }

def thawingArea (m : List Host.Cell) : State :=
  { stripOf thawPacket .read with mem := m, allocs := [(5, frozenAlloc)], frozen := [frozenArea] }

theorem thawing_reads (m : List Host.Cell) (h1 : Memory.readN m 0x10000 8 = [3, 0, 2, 0, 0, 0, 0, 0])
    (h2 : Memory.readN m 0x20000 8 = [0x31, 0, 0, 0, 0, 0, 0, 0]) (h3 : Memory.readN m 0x30000 64 = areaLine) :
    (thawingArea m).areaAt 5 frozenAlloc 0x30000 = (thawingArea m, .ok frozenArea) := by
  have w : ∀ va r, va = 0x30000 → (thawingArea m).walk 0x10000 va r = (thawingArea m, .page 0 true .normal true true) := by
    rintro _ r rfl
    have e1 : (thawingArea m).entryAt 0x10000 r = (thawingArea m, some 0x20003) := by
      show (thawingArea m, some (leNat (Memory.readN m 0x10000 8))) = _
      rw [h1]; rfl
    have e2 : (thawingArea m).entryAt 0x20000 r = (thawingArea m, some 0x31) := by
      show (thawingArea m, some (leNat (Memory.readN m 0x20000 8))) = _
      rw [h2]; rfl
    simp only [State.walk, State.walkFrom, show tableEntry 0 0x10000 0x30000 = 0x10000 by decide, e1,
      show walkNext 0 0x20003 0x30000 = .table 0x20000 by decide, show tableEntry (0 + 1) 0x20000 0x30000 = 0x20000 by decide, e2]
    rfl
  have p : ∀ r, (thawingArea m).linePlace 0 5 0x30000 false r = (thawingArea m, .ok (0x30000, .normal)) := by
    intro r
    unfold State.linePlace
    rw [show (thawingArea m).alloc? 5 = some frozenAlloc from rfl]
    simp only [show frozenAlloc.root = 0x10000 from rfl, w _ r rfl]
    rfl
  have i : ∀ r k, (thawingArea m).readImage 0 5 0x30000 64 r (k + 1) = { st := thawingArea m, bytes := areaLine } := by
    intro r k
    unfold State.readImage
    rw [if_neg (by decide), show min 64 64 = 64 from rfl, p]
    show ({ ((thawingArea m).readImage 0 5 0x30040 0 r k) with
      bytes := Memory.readN m 0x30000 64 ++ ((thawingArea m).readImage 0 5 0x30040 0 r k).bytes, poison := _ } : Span) = _
    rw [h3]
    have z : (thawingArea m).readImage 0 5 0x30040 0 r k = { st := thawingArea m } := by cases k <;> rfl
    rw [z, List.append_nil]
    cases k <;> rfl
  have n : areaLine.length = 64 := by
    simp only [areaLine, List.length_append, hashBytes]
    rfl
  have f0 : fieldAt areaLine 0 8 = 0x4146_5A52_325A_4C47 := rfl
  have f8 : fieldAt areaLine 8 8 = 0x40 := rfl
  have hh : bytesFrom areaLine 0x20 32 = hashBytes (areaLine.drop 0x40) 32 := by
    rw [show areaLine.drop 0x40 = [] from List.drop_eq_nil_of_le (Nat.le_of_eq n)]
    rfl
  have ok : areaOk areaLine = true := by simp [areaOk, f0, f8, n, hh]
  unfold State.areaAt
  simp only [show bitsOf (0x30000 : Word).toNat 0 48 = 0x30000 by decide, i, f0, f8, ok]
  simp [thawingArea, frozenArea]

/-- The memory with the tables and that area at 0x30000. -/
def areaMem : List Host.Cell := Memory.writeN mapped 0x30000 areaLine

theorem areaMem_below (a n : Nat) (h : a + n ≤ 0x30000) : Memory.readN areaMem a n = Memory.readN mapped a n := by
  induction n generalizing a with
  | zero => rfl
  | succ n ih =>
    simp only [Memory.readN]
    rw [ih (a + 1) (by omega), areaMem, Memory.read_writeN_other _ _ _ _ (.inl (by omega))]

theorem witness_PacketsStart_thaw :
    (thawingArea areaMem).packetCheck (packet thawPacket) = none ∧ InStrip (thawingArea areaMem) 3 9 (packet thawPacket) ∧
    (thawingArea areaMem).areaAt 5 frozenAlloc 0x30000 = (thawingArea areaMem, .ok frozenArea) ∧
    (thawingArea areaMem).alloc? 5 = some frozenAlloc ∧
    (∀ m, m ∈ frozenArea.members → ∃ c, c < 160 ∧ m.runsOn (thawingArea areaMem) c = true) := by
  refine ⟨rfl, ⟨rfl, rfl, rfl, rfl, rfl⟩, thawing_reads _ ?_ ?_ (Memory.readN_writeN _ _ _ (by decide)), rfl,
    fun m h => by cases h⟩
  · rw [areaMem_below _ _ (by omega)]; decide
  · rw [areaMem_below _ _ (by omega)]; decide

/-! How packets end. The semaphore word at 0x100 holds 5. -/

def ends5 (d : List Word) (st : PacketState) : State := { stripOf d st with mem := Memory.writeN [] 0x100 [5, 0, 0, 0, 7] }

def waitsFor (v : Word) : List Word := [4, 0x100, v, 0, 0, 0, 0, 0]

/-- A NOP with IRQ and a completion word. -/
def nopPosted : List Word := [0x100, 0, 0, 0, 0, 0, 0, 0x100]

def placing : State :=
  { stripOf launchPacket .started with
    allocs := [(5, { st := .placing, strm := 2, root := 0x10000, segbase := 0x40000, args := 11, img := imageOf tinyFile, launch := some 7 })]
    teasel := { packets := [{ packet launchPacket with st := .started }], placing := [7] } }

def piece : Piece := { id := 8, packet := 7, core := 0, unit := 0, src := 0x1010, dst := 0x2020, len := 4, clear := false, strm := 16 }

def copying : State :=
  { stripOf copyPacket .started with
    mem := Memory.writeN [] 0x1010 [1, 2, 0, 4]
    teasel := { packets := [{ packet copyPacket with st := .started, pieces := 2 }], pieces := [piece] } }

theorem witness_PacketsComplete :
    Memory.wf (ends5 signalPacket .started).mem = true ∧
    (ends5 signalPacket .started).packet? 7 = some { packet signalPacket with st := .started } ∧
    (packet signalPacket).arg 7 = 0 ∧ (packet signalPacket).irq = false ∧ (packet signalPacket).type = 3 ∧
    ((ends5 signalPacket .started).granule (0x100 / 64)).bad = false ∧ (ends5 (waitsFor 3) .started).word 0x100 = 5 ∧
    (packet nopPosted).arg 7 = 0x100 ∧ (packet nopPosted).irq = true ∧
    placing.alloc? 5 = some { st := .placing, strm := 2, root := 0x10000, segbase := 0x40000, args := 11, img := imageOf tinyFile, launch := some 7 } ∧
    placing.plan (imageOf tinyFile) 0 = some { regions := [(0, { core := 0, row := 0, col := 0, rows := 1, cols := 1 })], cores := [0] } ∧
    placing.gensReady [0] true = true ∧ copying.teasel.pieces = [piece] ∧ copying.pieceReaches piece = true ∧
    piece.off < piece.len ∧ piece.line = none ∧ 4 = min (piece.len - piece.off) (64 - (piece.dst + piece.off) % 64) := by
  decide +kernel

/-- The same on a device whose core 0 holds another region at its origin: the search takes the next free columns. -/
def placingBeside : State := { placing with cores := [(0, fieldCore field)] }

theorem witness_PacketsComplete_search :
    placingBeside.plan (imageOf tinyFile) 0 = some { regions := [(0, { core := 0, row := 0, col := 4, rows := 1, cols := 1 })], cores := [0] } ∧
    placingBeside.gensReady [0] true = true ∧ 0 * 16 + 3 < 0 * 16 + 4 ∧
    placingBeside.hasFeatures 0 (imageOf tinyFile).feat0 (imageOf tinyFile).feat1 = true ∧ placingBeside.available 0 = true ∧
    placingBeside.memberRoom (imageOf tinyFile) {} 0 = true ∧ (imageOf tinyFile).affin = none ∧
    (imageOf tinyFile).ringSides 0 = [] ∧
    (placingBeside.taken 0).any (·.meets { core := 0, row := 0, col := 3, rows := 1, cols := 1 }) = true := by
  decide +kernel

/-- The access with which that piece reads, or writes, its line. -/
def pieceAcc (kind : AccKind) (pa : Nat) (bs : List Byte) : Access :=
  { id := 9, client := .piece 0 0 8, alloc := 256, kind, addr := BitVec.ofNat 64 pa, size := 4, data := bs,
    place := some (pa, .normal), granted := true }

theorem witness_PacketsComplete_copy :
    AtHome { copying with accesses := [pieceAcc .load 0x1010 []] } (pieceAcc .load 0x1010 []) 0x1010 ∧
    AtHome { copying with accesses := [pieceAcc .store 0x2020 [1, 2, 0, 4]] } (pieceAcc .store 0x2020 [1, 2, 0, 4]) 0x2020 ∧
    (copying.granule (0x1010 / 64)).bad = false ∧ (copying.granule (0x1010 / 64)).poison = false :=
  ⟨⟨rfl, rfl, rfl, by decide, rfl, rfl, rfl, rfl, by decide, by decide, by decide, .dram 0, by decide, by decide⟩,
    ⟨rfl, rfl, rfl, by decide, rfl, rfl, rfl, rfl, by decide, by decide, by decide, .dram 0, by decide, by decide⟩,
    by decide, by decide⟩

theorem test_copy_piece :
    leads (exec (.copyPiece 8) copying) (fun t =>
      t.accesses.map (fun a => (a.kind, a.place, a.size)) == [(.load, some (0x1010, .normal), 4)]) = true ∧
    leads (exec (.accessPerformed 9) { copying with accesses := [pieceAcc .load 0x1010 []] }) (fun t =>
      t.teasel.pieces.map (·.line) == [some (.bytes [1, 2, 0, 4] none)]) = true ∧
    leads (exec (.accessPerformed 9) { copying with accesses := [pieceAcc .store 0x2020 [1, 2, 0, 4]] }) (fun t =>
      Memory.readN t.mem 0x2020 5 == [1, 2, 0, 4, 0] && t.teasel.pieces.map (fun k => (k.off, k.moved)) == [(4, 4)]) = true := by
  decide +kernel

theorem test_packets_complete :
    leads (exec (.packetComplete 7) (ends5 signalPacket .started)) (fun t => t.word 0x100 == 14 && t.teasel.packets.isEmpty) = true ∧
    leads (exec (.packetComplete 7) (ends5 (waitsFor 3) .started)) (fun t =>
      t.word 0x100 == 2 && Memory.read t.mem 0x104 == 7 && !(t.queue 3).waiting) = true ∧
    leads (exec (.packetComplete 7) (ends5 (waitsFor 6) .started)) (fun t => t.word 0x100 == 5 && t.acts == 0) = true ∧
    leads (exec (.packetComplete 7) (ends5 nopPosted .finished)) (fun t =>
      t.word 0x100 == 6 && (t.queue 3).done && (t.queue 3).infl == 0) = true ∧
    leads (exec .placement placing) (fun t =>
      ((t.alloc? 5).map fun a => (a.count, a.inits, a.members, a.sgens)) == some (1, 1, [⟨0, 0⟩], [1, 1, 1, 1]) &&
      t.teasel.placing.isEmpty && ((t.ctx? 0 0).map fun k => (k.gen, (k.reg 3).val, (k.reg 31).val)) ==
        some (1, 11, 0xFFFD000000001000) && ((t.region? 0 0).map (·.phase)) == some .joining) = true ∧
    leads (exec (.copyPiece 8) { copying with
        teasel := { packets := [{ packet copyPacket with st := .started, pieces := 2 }], pieces := [{ piece with off := 4, moved := 4 }] } })
      (fun t => t.teasel.pieces.isEmpty && t.teasel.packets.map (fun p => (p.pieces, p.bytes)) == [(1, 4)]) = true := by
  decide +kernel

/-! ## The host port -/

/-- Bank and column of a BL16 burst at window offset 0x1040, in row 0 that an ACTIVATE opens before it (R343). -/
def burst (reserved : Bool) : HostCmd := { channel := 1, lead := .activate 0, bank := 2, col := 32, bl32 := false, reserved }

def hosted : State := { mem := Memory.writeN [] (portBase + 0x1040) [1, 2, 3, 4, 5] }

theorem witness_HostPortCommands :
    Memory.wf hosted.mem = true ∧ hosted.hostCause (burst false) = none ∧ hosted.openRow (burst false) = some 0 ∧
    (burst false).start 0 = 0x1040 ∧ (burst false).bytes = 32 ∧
    ({ hosted with host := { rows := [(16 + 2, 5)] } } : State).openRow { burst false with lead := .stay } = some 5 ∧
    (hosted.granule ((portBase + 0x1040) / 64)).bad = false ∧ hosted.hostCause (burst true) = some 0x80 := by
  decide +kernel

theorem test_host_port :
    leads (exec (.hostWrite (burst false) (List.replicate 32 9) ([true, false, true] ++ List.replicate 29 false)) hosted) (fun t =>
      Memory.readN t.mem (portBase + 0x1040) 5 == [9, 2, 9, 4, 5]) = true ∧
    leads (exec (.hostRead (burst false)) hosted) (fun t => t.host.readData == [1, 2, 3, 4, 5] ++ List.replicate 27 0) = true ∧
    leads (exec (.hostRead (burst true)) hosted) (fun t =>
      t.host.readData == List.replicate 32 0 && t.faultQ.map (fun f => (f.cause, f.src, f.unit)) == [(0x80, 8, 1)]) = true ∧
    leads (exec (.hostWrite (burst true) (List.replicate 32 9) (List.replicate 32 true)) hosted) (fun t => t.mem == hosted.mem) = true ∧
    leads (exec (.modeRegisterWrite ⟨1, 11⟩ 0x47) hosted) (fun t => t.host.mrs.lookD 11 0 == 0x47) = true ∧
    leads (exec (.modeRegisterRead ⟨1, 11⟩) { host := { mrs := [(11, 0x47)] } }) (fun t => t.host.readData == [0x47]) = true ∧
    leads (exec (.modeRegisterRead ⟨1, 5⟩) hosted) (fun t => t.host.readData == [0xE7]) = true := by
  decide +kernel

theorem test_host_port_commands :
    leads (exec (.powerDown 1 true) hosted) (fun t => t.host.down.lookD 1 false) = true ∧
    leads (exec (.selfRefresh 1 true) hosted) (fun t => t.host.selfRef.lookD 1 false) = true ∧
    leads (exec (.readDqCalibration 1) { host := { mrs := [(15, 1), (20, 2), (32, 3), (40, 4)] } }) (fun t => t.host.readData == [1, 2, 3, 4]) = true ∧
    leads (exec (.writeFifo 1 [7, 8]) { host := { fifo := [(1, [6])] } }) (fun t => t.host.fifo.lookD 1 [] == [6, 7, 8]) = true ∧
    leads (exec (.readFifo 1) { host := { fifo := [(1, [6, 7])] } }) (fun t => t.host.readData == [6, 7] && t.host.fifo.lookD 1 [] == []) = true ∧
    leads (exec (.refresh 1) hosted) (fun t => t.mem == hosted.mem) = true ∧
    leads (exec (.commandBusTraining 1) hosted) (fun t => t.mem == hosted.mem) = true ∧
    leads (exec (.wck2ckLevelling 1) hosted) (fun t => t.mem == hosted.mem) = true := by
  decide +kernel

/-! ## The register pages -/

def readyDev : State := { dev := { boot := .ready, featd := 0x13, feath := 1 } }

theorem witness_RegisterWrites : readyDev.dev.boot = .ready ∧ readyDev.allIdle = true ∧
    ({ readyDev with queues := [(3, { tail := 1 })] } : State).allIdle = false ∧ (0x0000000000000001 : Word).getLsbD 0 = true ∧
    (∀ x, x ∈ readyDev.dev.temps → x.toInt < readyDev.dev.tlim.toInt) := by
  decide

theorem test_register_writes :
    leads (exec (.qtailWrite 3 0x105 0xFF) readyDev) (fun t => (t.queue 3).tail == 0x105) = true ∧
    leads (exec (.qsizeWrite 3 4 0xFF) { readyDev with queues := [(3, { tail := 5, head := 5 })] }) (fun t =>
      ((t.queue 3).log2n, (t.queue 3).head, (t.queue 3).tail) == (4, 0, 0)) = true ∧
    leads (exec (.qbaseWrite 3 0x1000 0xFF) readyDev) (fun t => (t.queue 3).base == 0x1000) = true ∧
    leads (exec (.qstatWrite 3 0x100 0xFF) { readyDev with queues := [(3, { done := true, refused := true })] }) (fun t =>
      !(t.queue 3).done && (t.queue 3).refused) = true ∧
    leads (exec (.markwWrite 2 0x10007 0xFF) readyDev) (fun t => t.teasel.marks == [{ stream := 2, kind := true, index := 7 }]) = true ∧
    leads (exec (.limitWrite 2 1 99 0xFF) readyDev) (fun t => (t.stream 2).llink == 99 && (t.stream 2).pend) = true ∧
    leads (exec (.bctlWrite 2 0x25 0xFF) readyDev) (fun t => ((t.stream 2).latepol, (t.stream 2).wt) == (2, 5)) = true ∧
    leads (exec (.bctlWrite 2 0x35 0xFF) readyDev) (fun t => ((t.stream 2).latepol, (t.stream 2).wt) == (0, 5)) = true := by
  decide +kernel

theorem test_device_registers :
    leads (exec (.bootctlStart 1 0xFF) {}) (fun t => decide (t.dev.boot = .verify) && t.dev.irqBoot) = true ∧
    leads (exec (.bootctlStart 1 0xFF) readyDev) (fun t => decide (t.dev.boot = .ready)) = true ∧
    leads (exec (.feath0Write 0x1F 0xFF) readyDev) (fun t => t.dev.feath == 0x13) = true ∧
    leads (exec (.feath0Write 0x1F 0xFF) { readyDev with queues := [(3, { tail := 1 })] }) (fun t =>
      t.dev.feath == 1 && t.dev.feathNext == some 0x13) = true ∧
    leads (exec (.pwrcapWrite 450 0xFF) readyDev) (fun t => t.dev.pwrcap == 450 && t.dev.capNow == 600) = true ∧
    leads (exec (.irqstatWrite 0x100000 0xFF) { dev := { irqBoot := true, irqPwr := true } }) (fun t => !t.dev.irqBoot && t.dev.irqPwr) = true ∧
    leads (exec (.irqmaskWrite 0 0xFF) { dev := { irqBoot := true, irqN := true } }) (fun t => t.dev.irqMask == 0 && !t.dev.irqN) = true ∧
    leads (exec (.fltringWrite 0x000000034_0001000 0xFF) { dev := { head := 4, tail := 5 } }) (fun t =>
      (t.dev.offset, t.dev.log2n, t.dev.qsel, t.dev.head) == (0x1000, 4, 3, 0)) = true ∧
    leads (exec (.fltptrWrite 0x7_0000_0009 0xFF) { dev := { tail := 5 } }) (fun t => (t.dev.head, t.dev.tail) == (7, 5)) = true ∧
    leads (exec (.registerWrite (3 * 64 + 0x28) 77 0xFF) readyDev) (fun t => (t.queue 3).tol == 77) = true := by
  decide +kernel

/-! ## Die links, power and start-up -/

/-- A flit of core 0 that crosses link 0 to die 1, and one that goes on to die 2. -/
def flight (hops : List (Nat × Bool)) : Flight :=
  { what := .request 3, cls := 1, core := 0, src := 0, payer := .member 0 0, hops }

/-- The member with the link budget given. -/
def linking (f : List Flight) (k : Link) (limit : Option Nat := none) : State :=
  { device { member with stream := 2, budget := { link := { limit } } } {} with
    flights := f, links := [(0, k)], accesses := [{ request 1 with granted := true, crossing := true }] }

/-- The first port of core 0 sends into a ring of core 40, from which eight slots come back. -/
def slotsBack : State :=
  { (linking [] {}).updPort 0 0 fun p => { p with tx := some { core := 40, port := 0, ctx := 1, buf := 4, slots := 3 } } with
    slotReturns := [{ core := 0, port := 0, rxCore := 40, ctx := 1, buf := 4, units := 1, hops := [(0, true)] }] }

theorem witness_LinksCarryFlits :
    (linking [flight [(0, false)]] {}).flights = [flight [(0, false)]] ∧ (flight [(0, false)]).hops.head? = some (0, false) ∧
    (flight [(0, false)]).cls = 1 ∧ linkKey 1 false = 1 ∧ ((linking [flight [(0, false)]] {}).link 0).down = false ∧
    (linking [flight [(0, false)]] {}).flitStanding (0, false) (flight [(0, false)]) = .go ∧
    (linking [flight [(0, false)]] {} (some 0)).flitStanding (0, false) (flight [(0, false)]) = .defer ∧
    (linking [flight [(0, false)]] {} (some 0)).payerStream (flight [(0, false)]).payer = some 2 := by
  decide +kernel

/-- A ring token on its way, and a device that is up, whose allocation 0 runs on die 0, or none. -/
def tokenFlight : Flight :=
  { what := .token 0 40 1 4 1 (data 7), cls := 0, core := 0, src := 0, payer := .member 0 0, hops := [(0, false)] }

def linkUp (f : List Flight) (k : Link) (al : SMap Alloc) : State :=
  { linking f k with dev := { boot := .ready }, allocs := al }

theorem witness_LinksCarryFlits_token :
    (linking [tokenFlight] {}).flitStanding (0, false) tokenFlight = .go ∧ tokenFlight.hops.head? = some (0, false) ∧
    tokenFlight.cls = 0 ∧ tokenFlight.what = .token 0 40 1 4 1 (data 7) := by
  decide +kernel

theorem witness_LinksCarryFlits_down :
    (linkUp [] { buffers := [(1, [flight [(0, false)]])] } []).dev.campionUp = true ∧
    (linkUp [] { buffers := [(1, [flight [(0, false)]])] } []).accesses.map (·.id) = [3] ∧
    ((linkUp [] {} [(0, { st := .running, members := [⟨0, 0⟩] })]).link 4).down = false ∧ dieOf 0 = 4 - 4 ∧
    ((linkUp [] {} [(0, { st := .running, members := [⟨0, 0⟩] })]).link 0).buffers = [] := by
  decide

theorem test_links_down :
    leads (exec (.linkdown 0) (linkUp [] { buffers := [(1, [flight [(0, false)]])] } [])) (fun t =>
      t.accesses.map (fun a => (a.crossing, a.fault)) == [(false, some 0x84)]) = true ∧
    leads (exec (.linkdown 4) (linkUp [] {} [(0, { st := .running, members := [⟨0, 0⟩] })])) (fun t =>
      t.faultQ.map (fun f => (f.cause, f.fatal)) == [(0x84, false), (0x84, true)] &&
      (t.alloc? 0).map (·.st) == some .ending) = true ∧
    leads (exec (.linkdown 0) (linkUp [] {} [(0, { st := .running, members := [⟨0, 0⟩] })])) (fun t =>
      t.faultQ.length == 1 && (t.alloc? 0).map (·.st) == some .running) = true := by
  decide +kernel

theorem witness_LinksCarryFlits_receive :
    ((linking [] { buffers := [(1, [flight [(0, false)]])] }).link 0).buffers.lookD (linkKey 1 false) [] = [flight [(0, false)]] ∧
    (linking [] {}).accesses.map (·.id) = [3] ∧ (flight [(0, false)]).what = .request 3 ∧
    (flight [(0, false), (1, false)]).hops = (0, false) :: (1, false) :: [] ∧
    (∀ n, ((linking [] {}).link n).down = false) ∧
    ((linking [] { owed := [(5, 3)] }).link 0).owed.lookD (linkKey 1 true) 0 ≠ 0 ∧
    (((linking [] { owed := [(5, 3)] }).link 0).owed.map (·.1)).Nodup ∧
    (slotsBack.link 0).down = false ∧ slotsBack.slotReturns.map (·.hops) = [[(0, true)]] ∧
    (slotsBack.port 0 0).tx = some { core := 40, port := 0, ctx := 1, buf := 4, slots := 3 } := by
  refine ⟨by decide, by decide, rfl, rfl, fun n => ?_, by decide, by decide, by decide, by decide, by decide⟩
  cases n <;> rfl

theorem test_links :
    leads (exec (.linkArbitrationRound 0 false) (linking [flight [(0, false)]] {})) (fun t =>
      t.flights.isEmpty && (t.link 0).buffers.lookD 1 [] == [{ flight [(0, false)] with sent := 2 }] && (t.link 0).creditsOf 1 == 31 &&
      ((t.link 0).wire.look 0).map (·.length) == some 256) = true ∧
    leads (exec (.flitReceive 0 false 1) (linking [] { buffers := [(1, [flight [(0, false)]])] })) (fun t =>
      t.accesses.map (·.crossing) == [false] && (t.link 0).owed.lookD 1 0 == 1) = true ∧
    leads (exec (.flitReceive 0 false 1) (linking [] { buffers := [(1, [flight [(0, false), (1, false)]])] })) (fun t =>
      t.flights == [flight [(1, false)]]) = true ∧
    leads (exec (.creditFlit 0 false) (linking [] { owed := [(5, 3)], credits := [(5, 2)] })) (fun t =>
      (t.link 0).creditsOf 5 == 5 && (t.link 0).owed.lookD 5 0 == 0) = true ∧
    leads (exec (.creditFlit 0 true) slotsBack) (fun t => ((t.port 0 0).tx.map (·.slots)) == some 11 && t.slotReturns.isEmpty) = true ∧
    leads (exec (.linkArbitrationRound 0 false) (linking [flight [(0, false)]] {} (some 0))) (fun t =>
      t.flights.map (fun f => (f.deferred, f.credit)) == [(some 0, true)] && (t.stream 2).defer == 1) = true ∧
    leads (exec (.linkretrain 0) readyDev) (fun t => t.faultQ.map (·.cause) == [0x83]) = true ∧
    leads (exec (.linkdown 0) readyDev) (fun t => (t.link 0).down && t.faultQ.map (·.cause) == [0x84]) = true := by
  decide +kernel

def badBundle : State := { dev := { boot := .verify, tries := 1 } }
def hotDie : State := { dev := { boot := .ready, temps := [20, 0x7D, 20, 20, 20] } }
def initialising : State :=
  { dev := { boot := .init, tries := 2 }, mem := Memory.writeN (Memory.writeN [] 0x100 [7]) (sbufAddr 0 0) [8] }

theorem witness_PowerAndStartUp :
    capOf badBundle.dev.pwrcap < (601 : W32).toNat ∧ hotDie.dev.tlim.toInt ≤ (0x7D : BitVec 8).toInt ∧ 125 ≤ (0x7D : BitVec 8).toInt ∧
    hotDie.dev.boot ≠ .minimal ∧ badBundle.dev.boot = .verify ∧
    (match badBundle.bundle with | .error r => r == 1 | .ok _ => false) = true ∧ initialising.dev.boot = .init ∧
    2 ≤ initialising.dev.tries.toNat ∧ initialising.dev.tries.toNat < 255 := by
  decide +kernel

theorem test_power_and_start :
    leads (exec (.powerEstimate 601 []) { dev := { boot := .ready, pstep := 5 } }) (fun t => t.dev.pstep == 6 && t.dev.irqPwr) = true ∧
    leads (exec .thermalTrip hotDie) (fun t => decide (t.dev.boot = .minimal) && t.dev.reason == 0x30) = true ∧
    leads (exec .bundleVerify badBundle) (fun t => decide (t.dev.boot = .waitfw) && t.dev.reason == 1 && t.dev.tries == 2) = true ∧
    leads (exec (.initComplete .ready) initialising) (fun t =>
      decide (t.dev.boot = .ready) && Memory.read t.mem 0x100 == 7 && Memory.read t.mem (sbufAddr 0 0) == 0) = true ∧
    leads (exec .campionTimeout initialising) (fun t => decide (t.dev.boot = .minimal) && t.dev.reason == 0x10) = true := by
  decide +kernel

theorem test_power_on : ∃ t, exec .powerOn hotDie = .next t ∧ t.allocs = [] ∧ t.dev.boot = .waitfw := by
  cases h : Config.fusesReadable
  · exact ⟨((({ State.reset with acts := hotDie.acts, coresReset := hotDie.acts } : State).failStart 0x20 0)).acted,
      by simp only [exec, execPowerOn, attempt, powerOn, h]; rfl, rfl, rfl⟩
  · exact ⟨({ State.reset with acts := hotDie.acts, coresReset := hotDie.acts } : State).acted,
      by simp only [exec, execPowerOn, attempt, powerOn, h]; rfl, rfl, rfl⟩
end Sys2Proof.Tests
end

/-! PROOF. Integer instructions (R205, R211 to R216): what each operation computes as an operation on bit vectors, what
a firing that only computes sends, and the statements about results. -/

namespace Sys2Proof.Machine

/-! ## Integers and numbers taken mod 2^n -/

theorem ofInt_toNat {n : Nat} (x : BitVec n) : BitVec.ofInt n x.toNat = x := by
  rw [ofInt_natCast, BitVec.ofNat_toNat, BitVec.setWidth_eq]

theorem ofInt_sub {n : Nat} (i j : Int) : BitVec.ofInt n (i - j) = BitVec.ofInt n i - BitVec.ofInt n j := by
  rw [Int.sub_eq_add_neg, BitVec.ofInt_add, BitVec.ofInt_neg, BitVec.sub_eq_add_neg]

theorem ofInt_neg_one (n : Nat) : BitVec.ofInt n (-1) = BitVec.allOnes n := by
  rw [BitVec.ofInt_neg, ← BitVec.neg_one_eq_allOnes]
  rfl

theorem toNat_eq_zero_iff {n : Nat} (y : BitVec n) : y.toNat = 0 ↔ y = 0 := by
  rw [← BitVec.toNat_inj]
  rfl

theorem emod_sq_ediv_emod (z : Int) {m : Int} (hm : m ≠ 0) : z % (m * m) / m % m = z / m % m := by
  have h : z % (m * m) = z + m * (m * -(z / (m * m))) := by rw [Int.emod_def]; ring
  rw [h, Int.add_mul_ediv_left _ _ hm, Int.add_mul_emod_self_left]

/-- The upper half of 2n bits: MULH and MULHU take it from the whole product (R211). -/
theorem extract_upper_ofInt (n : Nat) (z : Int) :
    (BitVec.ofInt (2 * n) z).extractLsb' n n = BitVec.ofInt n (z / (2 ^ n : Nat)) := by
  have hm : ((2 ^ n : Nat) : Int) ≠ 0 := by positivity
  have hsq : ((2 ^ (2 * n) : Nat) : Int) = (2 ^ n : Nat) * (2 ^ n : Nat) := by rw [two_mul, pow_add, Int.natCast_mul]
  have hz : ((z % (2 ^ (2 * n) : Nat)).toNat : Int) = z % ((2 ^ n : Nat) * (2 ^ n : Nat)) := by
    rw [Int.toNat_of_nonneg (Int.emod_nonneg _ (by positivity)), hsq]
  apply BitVec.eq_of_toNat_eq
  rw [← Int.natCast_inj, BitVec.extractLsb'_toNat, BitVec.toNat_ofInt, BitVec.toNat_ofInt, Nat.shiftRight_eq_div_pow,
    Int.toNat_of_nonneg (Int.emod_nonneg _ hm), Int.natCast_emod, Int.natCast_ediv, hz, emod_sq_ediv_emod z hm]

/-! ## Signed quotients and remainders (R211) -/

theorem sdiv_eq_ofInt {n : Nat} (x y : BitVec n) : x.sdiv y = BitVec.ofInt n (x.toInt.tdiv y.toInt) := by
  apply BitVec.eq_of_toInt_eq
  rw [BitVec.toInt_sdiv, BitVec.toInt_ofInt]

theorem srem_eq_ofInt {n : Nat} (x y : BitVec n) : x.srem y = BitVec.ofInt n (x.toInt.tmod y.toInt) := by
  rw [← BitVec.toInt_srem, BitVec.ofInt_toInt]

/-- The overflowing quotient is the dividend: 2^(n-1) and -2^(n-1) have the same n bits. -/
theorem sdiv_overflow {n : Nat} (hn : 0 < n) {x y : BitVec n} (hx : x.toInt = -(2 ^ (n - 1) : Nat))
    (hy : y.toInt = -1) :
    x.sdiv y = x := by
  have h2 : 2 ^ n = 2 * 2 ^ (n - 1) := by rw [← pow_succ', Nat.sub_add_cancel hn]
  have hp : (0 : Int) < 2 ^ (n - 1) := by positivity
  apply BitVec.eq_of_toInt_eq
  rw [BitVec.toInt_sdiv, hx, hy, Int.neg_tdiv_neg, Int.tdiv_one, Int.bmod_def, h2]
  push_cast
  rw [Int.emod_eq_of_lt hp.le (by omega), if_neg (by omega)]
  ring

/-! ## Shifts and rotations (R212) -/

theorem ofNat_mul_two_pow {n : Nat} (x : BitVec n) (k : Nat) : BitVec.ofNat n (x.toNat * 2 ^ k) = x <<< k := by
  apply BitVec.eq_of_toNat_eq
  rw [BitVec.toNat_ofNat, BitVec.toNat_shiftLeft, Nat.shiftLeft_eq]

theorem ofNat_div_two_pow {n : Nat} (x : BitVec n) (k : Nat) : BitVec.ofNat n (x.toNat / 2 ^ k) = x >>> k := by
  rw [← Nat.shiftRight_eq_div_pow, ← BitVec.toNat_ushiftRight, BitVec.ofNat_toNat, BitVec.setWidth_eq]

/-- The r low bits moved to the top: the bits above them leave the word. -/
theorem ofNat_mod_mul_two_pow {n r : Nat} (x : BitVec n) (hr : r ≤ n) :
    BitVec.ofNat n (x.toNat % 2 ^ r * 2 ^ (n - r)) = x <<< (n - r) := by
  have h2 : 2 ^ n = 2 ^ r * 2 ^ (n - r) := by rw [← pow_add, Nat.add_sub_cancel' hr]
  rw [← ofNat_mul_two_pow]
  apply BitVec.eq_of_toNat_eq
  rw [BitVec.toNat_ofNat, BitVec.toNat_ofNat, h2, Nat.mul_mod_mul_right, Nat.mul_mod_mul_right, Nat.mod_mod]

/-- The part moved up r places and the part moved down n - r share no bit. -/
theorem shiftLeft_and_ushiftRight {n r : Nat} (x : BitVec n) (hr : r ≤ n) : x <<< r &&& x >>> (n - r) = 0#n := by
  ext i hi
  simp only [BitVec.getElem_and, BitVec.getElem_shiftLeft, BitVec.getElem_ushiftRight, BitVec.getElem_zero]
  by_cases h : i < r
  · simp [h]
  · rw [BitVec.getLsbD_of_ge x _ (by omega), Bool.and_false]

theorem rotateLeft_eq_add {n r : Nat} (x : BitVec n) (hr : r < n) : x.rotateLeft r = x <<< r + x >>> (n - r) := by
  rw [BitVec.rotateLeft_def, Nat.mod_eq_of_lt hr,
    BitVec.add_eq_or_of_and_eq_zero _ _ (shiftLeft_and_ushiftRight x hr.le)]

theorem rotateRight_eq_add {n r : Nat} (x : BitVec n) (hr : r < n) : x.rotateRight r = x >>> r + x <<< (n - r) := by
  have h := shiftLeft_and_ushiftRight x (Nat.sub_le n r)
  rw [Nat.sub_sub_self hr.le] at h
  rw [BitVec.rotateRight_def, Nat.mod_eq_of_lt hr, BitVec.add_comm,
    BitVec.add_eq_or_of_and_eq_zero _ _ h, BitVec.or_comm]

/-- Shifted by its width, a signed number is only its sign. -/
theorem sshiftRight_width {n : Nat} (x : BitVec n) :
    x.sshiftRight n = BitVec.ofInt n (if x.toInt < 0 then -1 else 0) := by
  have hlt := BitVec.two_mul_toInt_lt (x := x)
  have hle := BitVec.le_two_mul_toInt (x := x)
  rw [BitVec.sshiftRight_eq, Int.shiftRight_eq_div_pow]
  congr 1
  push_cast
  split
  · exact Int.ediv_eq_neg_one_of_neg_of_le ‹_› (by omega)
  · exact Int.ediv_eq_zero_of_lt (by omega) (by omega)

/-- A field wider than the word is cut at the word's end: no bit lies beyond it. -/
theorem div_mod_two_pow_min {n : Nat} (x : BitVec n) (d l : Nat) : x.toNat / d % 2 ^ min l n = x.toNat / d % 2 ^ l := by
  rcases Nat.le_total l n with h | h
  · rw [Nat.min_eq_left h]
  · have hx : x.toNat / d < 2 ^ n := Nat.lt_of_le_of_lt (Nat.div_le_self ..) x.isLt
    rw [Nat.min_eq_right h, Nat.mod_eq_of_lt hx, Nat.mod_eq_of_lt (hx.trans_le (Nat.pow_le_pow_right (by decide) h))]

/-! ## Bit counts and reversals (R213) -/

theorem leadingZeros_eq {n a : Nat} (ha : a < 2 ^ n) : leadingZeros n a = if a = 0 then n else n - 1 - a.log2 := by
  induction n with
  | zero => simp [leadingZeros]
  | succ n ih =>
    unfold leadingZeros
    by_cases hlt : a < 2 ^ n
    · rw [Nat.testBit_lt_two_pow hlt, ih hlt, if_neg Bool.false_ne_true]
      split
      · omega
      · have := (Nat.log2_lt ‹_›).2 hlt
        omega
    · have h0 : a ≠ 0 := by have := Nat.two_pow_pos n; omega
      have hlog : a.log2 = n := (Nat.log2_eq_iff h0).2 ⟨by omega, ha⟩
      have hb : a.testBit n = true := hlog ▸ Nat.testBit_log2 h0
      rw [if_pos hb, if_neg h0, hlog]
      omega

theorem trailingZeros_eq (n a : Nat) :
    trailingZeros n a = ((List.range n).takeWhile fun i => !a.testBit i).length := by
  induction n generalizing a with
  | zero => rfl
  | succ n ih =>
    rw [List.range_succ_eq_map, List.takeWhile_cons, trailingZeros, ih]
    by_cases h : a % 2 = 1
    · simp [h]
    · simp [h, List.takeWhile_map, Function.comp_def, Nat.testBit_succ, Nat.add_comm]

theorem popCount_eq (n a : Nat) : popCount n a = (List.range n).countP fun i => a.testBit i := by
  induction n generalizing a with
  | zero => rfl
  | succ n ih =>
    have h : a % 2 = if a.testBit 0 then 1 else 0 := by
      rcases Nat.mod_two_eq_zero_or_one a with h | h <;> simp [h]
    simp only [List.range_succ_eq_map, List.countP_cons, popCount, ih, List.countP_map, h, Function.comp_def,
      Nat.testBit_succ, Nat.add_comm]

theorem reverseBits_lt (n a : Nat) : reverseBits n a < 2 ^ n := by
  induction n generalizing a with
  | zero => simp [reverseBits]
  | succ n ih =>
    have hr := ih (a / 2)
    have hm : a % 2 * 2 ^ n ≤ 1 * 2 ^ n := Nat.mul_le_mul_right _ (by omega)
    rw [reverseBits, pow_succ]
    omega

theorem testBit_reverseBits {n i : Nat} (a : Nat) (hi : i < n) :
    (reverseBits n a).testBit i = a.testBit (n - 1 - i) := by
  induction n generalizing a with
  | zero => omega
  | succ n ih =>
    rw [reverseBits, Nat.mul_comm, Nat.testBit_two_pow_mul_add _ (reverseBits_lt n _)]
    by_cases h : i < n
    · rw [if_pos h, ih _ h, Nat.testBit_div_two, show n - 1 - i + 1 = n + 1 - 1 - i by omega]
    · obtain rfl : i = n := by omega
      simp

theorem ofNat_reverseBits {n : Nat} (x : BitVec n) : BitVec.ofNat n (reverseBits n x.toNat) = x.reverse := by
  apply BitVec.eq_of_getLsbD_eq
  intro i hi
  rw [BitVec.getLsbD_reverse, BitVec.getMsbD, BitVec.getLsbD_ofNat, testBit_reverseBits _ hi, BitVec.testBit_toNat]

theorem leBytes_eq_map (v k : Nat) : leBytes v k = (List.range k).map fun i => BitVec.ofNat 8 (v >>> (8 * i)) := by
  induction k generalizing v with
  | zero => rfl
  | succ k ih =>
    rw [leBytes, ih, List.range_succ_eq_map, List.map_cons, List.map_map]
    congr 1
    · apply BitVec.eq_of_toNat_eq
      simp
    · apply List.map_congr_left
      intro i _
      rw [show v / 256 = v >>> 8 from (Nat.shiftRight_eq_div_pow v 8).symm, ← Nat.shiftRight_add, Function.comp_apply,
        Nat.succ_eq_add_one, Nat.mul_add, Nat.add_comm 8]

/-- Putting one more byte below a number, as `leNat` does. -/
theorem ofNat_byte_add (m v : Nat) (b : Byte) : BitVec.ofNat (m + 8) (b.toNat + 256 * v) = BitVec.ofNat m v ++ b := by
  have hb : b.toNat < 2 ^ 8 := b.isLt
  apply BitVec.eq_of_toNat_eq
  rw [BitVec.toNat_append, ← Nat.shiftLeft_add_eq_or_of_lt hb, Nat.shiftLeft_eq, BitVec.toNat_ofNat,
    BitVec.toNat_ofNat, Nat.pow_add, Nat.mul_comm (2 ^ m), Nat.mod_mul, show 256 = 2 ^ 8 by rfl,
    Nat.add_mul_mod_self_left, Nat.add_mul_div_left _ _ (by decide), Nat.mod_eq_of_lt hb, Nat.div_eq_of_lt hb,
    Nat.zero_add, Nat.mul_comm, Nat.add_comm]

theorem ofNat_reversed_bytes_32 (x : BitVec 32) : BitVec.ofNat 32 (leNat (leBytes x.toNat (32 / 8)).reverse) =
    x.extractLsb' 0 8 ++ x.extractLsb' 8 8 ++ x.extractLsb' 16 8 ++ x.extractLsb' 24 8 := by
  rw [leBytes_eq_map]
  simp only [List.range, List.range.loop, List.map, List.reverse, List.reverseAux, leNat, Nat.reduceDiv, Nat.mul_zero,
    Nat.add_zero, ofNat_byte_add 24, ofNat_byte_add 16, ofNat_byte_add 8, BitVec.ofNat_toNat, BitVec.setWidth_eq]
  rfl

theorem ofNat_reversed_bytes_64 (x : BitVec 64) : BitVec.ofNat 64 (leNat (leBytes x.toNat (64 / 8)).reverse) =
    x.extractLsb' 0 8 ++ x.extractLsb' 8 8 ++ x.extractLsb' 16 8 ++ x.extractLsb' 24 8 ++
      x.extractLsb' 32 8 ++ x.extractLsb' 40 8 ++ x.extractLsb' 48 8 ++ x.extractLsb' 56 8 := by
  rw [leBytes_eq_map]
  simp only [List.range, List.range.loop, List.map, List.reverse, List.reverseAux, leNat, Nat.reduceDiv, Nat.mul_zero,
    Nat.add_zero, ofNat_byte_add 56, ofNat_byte_add 48, ofNat_byte_add 40, ofNat_byte_add 32, ofNat_byte_add 24,
    ofNat_byte_add 16, ofNat_byte_add 8, BitVec.ofNat_toNat, BitVec.setWidth_eq]
  rfl

/-! ## Arithmetic (R211) -/

theorem opAdd_eq (w : Bool) (a b : Word) : opAdd w a b = byWidth w (fun _ x y => x + y) a b :=
  intOp_eq _ _ _ _ _ fun n _ x y => by rw [BitVec.ofInt_add, ofInt_toNat, ofInt_toNat]

theorem opSub_eq (w : Bool) (a b : Word) : opSub w a b = byWidth w (fun _ x y => x - y) a b :=
  intOp_eq _ _ _ _ _ fun n _ x y => by rw [ofInt_sub, ofInt_toNat, ofInt_toNat]

theorem opMul_eq (w : Bool) (a b : Word) : opMul w a b = byWidth w (fun _ x y => x * y) a b :=
  intOp_eq _ _ _ _ _ fun n _ x y => by rw [BitVec.ofInt_mul, ofInt_toNat, ofInt_toNat]

theorem opMulh_eq (w : Bool) (a b : Word) : opMulh w a b =
    byWidth w (fun n x y => (x.signExtend (2 * n) * y.signExtend (2 * n)).extractLsb' n n) a b :=
  intOp_eq _ _ _ _ _ fun n _ x y => by
    rw [← extract_upper_ofInt, BitVec.ofInt_mul]
    rfl

theorem opMulhu_eq (w : Bool) (a b : Word) : opMulhu w a b =
    byWidth w (fun n x y => (x.setWidth (2 * n) * y.setWidth (2 * n)).extractLsb' n n) a b :=
  intOp_eq _ _ _ _ _ fun n _ x y => by
    rw [Int.natCast_ediv, ← extract_upper_ofInt, ofInt_natCast, BitVec.ofNat_mul, BitVec.ofNat_toNat,
      BitVec.ofNat_toNat]

theorem opDiv_eq (w : Bool) (a b : Word) : opDiv w a b =
    byWidth w (fun n x y => if y = 0 then BitVec.allOnes n else x.sdiv y) a b :=
  intOp_eq _ _ _ _ _ fun n hn x y => by
    simp only [toNat_eq_zero_iff]
    split
    · exact ofInt_neg_one n
    · split
      next h => rw [BitVec.ofInt_toInt, sdiv_overflow (by omega) h.1 h.2]
      · exact (sdiv_eq_ofInt x y).symm

theorem opDivu_eq (w : Bool) (a b : Word) : opDivu w a b =
    byWidth w (fun n x y => if y = 0 then BitVec.allOnes n else x / y) a b :=
  intOp_eq _ _ _ _ _ fun n _ x y => by
    simp only [toNat_eq_zero_iff]
    split
    · rw [← Int.natCast_pred_of_pos (Nat.two_pow_pos n), ← BitVec.toNat_allOnes, ofInt_toNat]
    · rw [← BitVec.toNat_udiv, ofInt_toNat]

theorem opRem_eq (w : Bool) (a b : Word) : opRem w a b = byWidth w (fun _ x y => if y = 0 then x else x.srem y) a b :=
  intOp_eq _ _ _ _ _ fun n _ x y => by
    simp only [toNat_eq_zero_iff, srem_eq_ofInt]
    split
    · exact BitVec.ofInt_toInt
    · split
      next h => rw [h.2, Int.tmod_neg, Int.tmod_one]
      · rw [Int.tmod_def]

theorem opRemu_eq (w : Bool) (a b : Word) : opRemu w a b = byWidth w (fun _ x y => if y = 0 then x else x % y) a b :=
  intOp_eq _ _ _ _ _ fun n _ x y => by
    simp only [toNat_eq_zero_iff]
    split
    · exact ofInt_toNat x
    · rw [← BitVec.toNat_umod, ofInt_toNat]

theorem opMin_eq (w : Bool) (a b : Word) : opMin w a b = byWidth w (fun _ x y => if x.sle y then x else y) a b :=
  intOp_eq _ _ _ _ _ fun n _ x y => by
    simp only [BitVec.sle_iff_toInt_le, apply_ite (BitVec.ofInt n), BitVec.ofInt_toInt]

theorem opMax_eq (w : Bool) (a b : Word) : opMax w a b = byWidth w (fun _ x y => if x.sle y then y else x) a b :=
  intOp_eq _ _ _ _ _ fun n _ x y => by
    simp only [BitVec.sle_iff_toInt_le, apply_ite (BitVec.ofInt n), BitVec.ofInt_toInt]

theorem opMinu_eq (w : Bool) (a b : Word) : opMinu w a b = byWidth w (fun _ x y => if x ≤ y then x else y) a b :=
  intOp_eq _ _ _ _ _ fun n _ x y => by
    simp only [Nat.min_def, BitVec.le_def, apply_ite (Nat.cast (R := Int)), apply_ite (BitVec.ofInt n), ofInt_toNat]

theorem opMaxu_eq (w : Bool) (a b : Word) : opMaxu w a b = byWidth w (fun _ x y => if x ≤ y then y else x) a b :=
  intOp_eq _ _ _ _ _ fun n _ x y => by
    simp only [Nat.max_def, BitVec.le_def, apply_ite (Nat.cast (R := Int)), apply_ite (BitVec.ofInt n), ofInt_toNat]

/-! ## Logic and shifts (R212)

A shift or rotation takes its count from all 64 bits of B, not from the operand of n bits that `byWidth` hands on. -/

theorem byWidth_unread (w : Bool) (f : (n : Nat) → BitVec n → BitVec n) (a b c : Word) :
    byWidth w (fun n x _ => f n x) a b = byWidth w (fun n x _ => f n x) a c := rfl

theorem opAnd_eq (w : Bool) (a b : Word) : opAnd w a b = byWidth w (fun _ x y => x &&& y) a b :=
  intOp_eq _ _ _ _ _ fun n _ x y => by rw [← BitVec.toNat_and, ofInt_toNat]

theorem opOr_eq (w : Bool) (a b : Word) : opOr w a b = byWidth w (fun _ x y => x ||| y) a b :=
  intOp_eq _ _ _ _ _ fun n _ x y => by rw [← BitVec.toNat_or, ofInt_toNat]

theorem opXor_eq (w : Bool) (a b : Word) : opXor w a b = byWidth w (fun _ x y => x ^^^ y) a b :=
  intOp_eq _ _ _ _ _ fun n _ x y => by rw [← BitVec.toNat_xor, ofInt_toNat]

theorem opAndn_eq (w : Bool) (a b : Word) : opAndn w a b = byWidth w (fun _ x y => x &&& ~~~y) a b :=
  intOp_eq _ _ _ _ _ fun n _ x y => by rw [← BitVec.toNat_not, ← BitVec.toNat_and, ofInt_toNat]

theorem opOrn_eq (w : Bool) (a b : Word) : opOrn w a b = byWidth w (fun _ x y => x ||| ~~~y) a b :=
  intOp_eq _ _ _ _ _ fun n _ x y => by rw [← BitVec.toNat_not, ← BitVec.toNat_or, ofInt_toNat]

theorem opShl_eq (w : Bool) (a b : Word) : opShl w a b =
    byWidth w (fun n x _ => if n ≤ b.toNat then 0 else x <<< b.toNat) a b :=
  intOp_eq _ _ _ _ _ fun n _ x _ => by
    split
    · rfl
    · rw [ofInt_natCast, ofNat_mul_two_pow]

theorem opShr_eq (w : Bool) (a b : Word) : opShr w a b =
    byWidth w (fun n x _ => if n ≤ b.toNat then 0 else x >>> b.toNat) a b :=
  intOp_eq _ _ _ _ _ fun n _ x _ => by
    split
    · rfl
    · rw [ofInt_natCast, ofNat_div_two_pow]

theorem opSra_eq (w : Bool) (a b : Word) : opSra w a b =
    byWidth w (fun n x _ => x.sshiftRight (min b.toNat n)) a b :=
  intOp_eq _ _ _ _ _ fun n _ x _ => by
    split
    next h => rw [Nat.min_eq_right h, sshiftRight_width]
    next h => rw [Nat.min_eq_left (by omega), BitVec.sshiftRight_eq, Int.shiftRight_eq_div_pow]

theorem opRol_eq (w : Bool) (a b : Word) : opRol w a b =
    byWidth w (fun n x _ => x.rotateLeft (b.toNat % n)) a b :=
  intOp_eq _ _ _ _ _ fun n hn x _ => by
    rw [ofInt_natCast, BitVec.ofNat_add, ofNat_mul_two_pow, ofNat_div_two_pow,
      rotateLeft_eq_add x (Nat.mod_lt _ (by omega))]

theorem opRor_eq (w : Bool) (a b : Word) : opRor w a b =
    byWidth w (fun n x _ => x.rotateRight (b.toNat % n)) a b :=
  intOp_eq _ _ _ _ _ fun n hn x _ => by
    have hr : b.toNat % n < n := Nat.mod_lt _ (by omega)
    rw [ofInt_natCast, BitVec.ofNat_add, ofNat_div_two_pow, ofNat_mod_mul_two_pow x hr.le, rotateRight_eq_add x hr]

theorem opBfx_eq (w : Bool) (a b : Word) : opBfx w a b =
    byWidth w (fun n x _ =>
      if n ≤ b.toNat % 256 then 0
      else BitVec.ofNat n (x.toNat / 2 ^ (b.toNat % 256) % 2 ^ (b.toNat / 256 % 256))) a b :=
  intOp_eq _ _ _ _ _ fun n _ x _ => by
    split
    · rfl
    · rw [ofInt_natCast, div_mod_two_pow_min]

/-! ## One operand (R213) -/

theorem opClz_eq (w : Bool) (a : Word) : opClz w a =
    byWidth w (fun n x _ => BitVec.ofNat n (if x = 0 then n else n - 1 - x.toNat.log2)) a 0 :=
  intOp_eq _ _ _ _ _ fun n _ x _ => by
    simp only [ofInt_natCast, leadingZeros_eq x.isLt, toNat_eq_zero_iff]

theorem opCtz_eq (w : Bool) (a : Word) : opCtz w a =
    byWidth w (fun n x _ => BitVec.ofNat n ((List.range n).takeWhile fun i => !x.getLsbD i).length) a 0 :=
  intOp_eq _ _ _ _ _ fun n _ x _ => by
    rw [ofInt_natCast, trailingZeros_eq]
    rfl

theorem opPopc_eq (w : Bool) (a : Word) : opPopc w a =
    byWidth w (fun n x _ => BitVec.ofNat n ((List.range n).countP fun i => x.getLsbD i)) a 0 :=
  intOp_eq _ _ _ _ _ fun n _ x _ => by
    rw [ofInt_natCast, popCount_eq]
    rfl

theorem opBrev_eq (w : Bool) (a : Word) : opBrev w a = byWidth w (fun _ x _ => x.reverse) a 0 :=
  intOp_eq _ _ _ _ _ fun n _ x _ => by rw [ofInt_natCast, ofNat_reverseBits]

theorem opBswap_eq (w : Bool) (a : Word) : opBswap w a =
    if w then (a.extractLsb' 0 8 ++ a.extractLsb' 8 8 ++ a.extractLsb' 16 8 ++ a.extractLsb' 24 8).signExtend 64
    else a.extractLsb' 0 8 ++ a.extractLsb' 8 8 ++ a.extractLsb' 16 8 ++ a.extractLsb' 24 8
      ++ a.extractLsb' 32 8 ++ a.extractLsb' 40 8 ++ a.extractLsb' 48 8 ++ a.extractLsb' 56 8 := by
  have h : opBswap w a = byWidth w (fun n x _ => BitVec.ofNat n (leNat (leBytes x.toNat (n / 8)).reverse)) a 0 :=
    intOp_eq _ _ _ _ _ fun n _ x _ => ofInt_natCast n _
  rw [h, byWidth, ofNat_reversed_bytes_32, ofNat_reversed_bytes_64]
  simp only [BitVec.extractLsb'_setWidth_of_le, Nat.reduceAdd, Nat.reduceLeDiff]

theorem opNeg_eq (w : Bool) (a : Word) : opNeg w a = byWidth w (fun _ x _ => -x) a 0 :=
  intOp_eq _ _ _ _ _ fun n _ x _ => by rw [BitVec.ofInt_neg, ofInt_toNat]

theorem opNot_eq (w : Bool) (a : Word) : opNot w a = byWidth w (fun _ x _ => ~~~x) a 0 :=
  intOp_eq _ _ _ _ _ fun n _ x _ => by rw [← BitVec.toNat_not, ofInt_toNat]

/-- The low k bits, read as a signed number. -/
theorem ofInt_signedOf_mod {n : Nat} (x : BitVec n) (k : Nat) :
    BitVec.ofInt n (signedOf (x.toNat % 2 ^ k) k) = (x.setWidth k).signExtend n := by
  rw [← BitVec.toNat_setWidth, signedOf_eq]
  rfl

/-- The low k bits, read as an unsigned number. -/
theorem ofInt_mod {n : Nat} (x : BitVec n) (k : Nat) :
    BitVec.ofInt n (x.toNat % 2 ^ k : Nat) = (x.setWidth k).setWidth n := by
  rw [← BitVec.toNat_setWidth, ofInt_natCast, BitVec.ofNat_toNat]

theorem opSext8_eq (w : Bool) (a : Word) : opSext8 w a = byWidth w (fun n x _ => (x.setWidth 8).signExtend n) a 0 :=
  intOp_eq _ _ _ _ _ fun _ _ x _ => ofInt_signedOf_mod x 8

theorem opSext16_eq (w : Bool) (a : Word) : opSext16 w a = byWidth w (fun n x _ => (x.setWidth 16).signExtend n) a 0 :=
  intOp_eq _ _ _ _ _ fun _ _ x _ => ofInt_signedOf_mod x 16

theorem opSext32_eq (w : Bool) (a : Word) : opSext32 w a = byWidth w (fun n x _ => (x.setWidth 32).signExtend n) a 0 :=
  intOp_eq _ _ _ _ _ fun _ _ x _ => ofInt_signedOf_mod x 32

theorem opZext8_eq (w : Bool) (a : Word) : opZext8 w a = byWidth w (fun n x _ => (x.setWidth 8).setWidth n) a 0 :=
  intOp_eq _ _ _ _ _ fun _ _ x _ => ofInt_mod x 8

theorem opZext16_eq (w : Bool) (a : Word) : opZext16 w a = byWidth w (fun n x _ => (x.setWidth 16).setWidth n) a 0 :=
  intOp_eq _ _ _ _ _ fun _ _ x _ => ofInt_mod x 16

theorem opZext32_eq (w : Bool) (a : Word) : opZext32 w a = byWidth w (fun n x _ => (x.setWidth 32).setWidth n) a 0 :=
  intOp_eq _ _ _ _ _ fun _ _ x _ => ofInt_mod x 32

/-! ## Tests (R216) -/

theorem opTeq_eq (w : Bool) (a b : Word) : opTeq w a b = testWidth w (fun _ x y => x == y) a b :=
  testOp_eq _ _ _ _ _ fun _ _ x y => by simp only [beq_eq_decide, BitVec.toNat_inj]

theorem opTne_eq (w : Bool) (a b : Word) : opTne w a b = testWidth w (fun _ x y => x != y) a b :=
  testOp_eq _ _ _ _ _ fun _ _ x y => by simp only [bne, beq_eq_decide, BitVec.toNat_inj]

theorem opTlt_eq (w : Bool) (a b : Word) : opTlt w a b = testWidth w (fun _ x y => x.slt y) a b :=
  testOp_eq _ _ _ _ _ fun _ _ _ _ => BitVec.slt_eq_decide.symm

theorem opTle_eq (w : Bool) (a b : Word) : opTle w a b = testWidth w (fun _ x y => x.sle y) a b :=
  testOp_eq _ _ _ _ _ fun _ _ _ _ => BitVec.sle_eq_decide.symm

theorem opTltu_eq (w : Bool) (a b : Word) : opTltu w a b = testWidth w (fun _ x y => x.ult y) a b :=
  testOp_eq _ _ _ _ _ fun _ _ _ _ => BitVec.ult_eq_decide.symm

theorem opTleu_eq (w : Bool) (a b : Word) : opTleu w a b = testWidth w (fun _ x y => x.ule y) a b :=
  testOp_eq _ _ _ _ _ fun _ _ _ _ => BitVec.ule_eq_decide.symm

/-- A test with its operands exchanged: TGTI, TGEI and TGTUI are written with the test of the other direction. -/
theorem testWidth_swap (w : Bool) (f : (n : Nat) → BitVec n → BitVec n → Bool) (a b : Word) :
    testWidth w f b a = testWidth w (fun n x y => f n y x) a b := rfl

/-! ## What a firing sends -/

/-- A word that computes from A and B sends the value computed. -/
theorem fireResult_ab {s : State} {p : Pred} {h : Here} {a b v : Word} {t0 t1 : Target} {f : Word → Word → Word}
    (e : FiresAt s p h) (ha : h.a = some a) (hb : h.b = some b) (hv : f a b = v) :
    fireResult p t0 t1 s (fun h => h.ab.map fun o => f o.1 o.2) = .next (s.sends h t0 t1 v) :=
  fireResult_some t0 t1 e (by rw [Here.ab_some ha hb, Option.map_some, hv])

/-- A word that computes from A, or from A and its immediate, sends the value computed. -/
theorem fireResult_a {s : State} {p : Pred} {h : Here} {a v : Word} {t0 t1 : Target} {f : Word → Word}
    (e : FiresAt s p h) (ha : h.a = some a) (hv : f a = v) :
    fireResult p t0 t1 s (fun h => h.a.map f) = .next (s.sends h t0 t1 v) :=
  fireResult_some t0 t1 e (by rw [ha, Option.map_some, hv])

/-! ## The statements -/

/-- Settles O9: each operation of R211 over integers is one on bit vectors, with the zero divisor and the overflowing
quotient apart. -/
theorem arithmeticResults : Obligations.ArithmeticResults := by
  intro p w t0 t1 s h a b e ha hb
  exact ⟨fireResult_ab e ha hb (opAdd_eq w a b), fireResult_ab e ha hb (opSub_eq w a b),
    fireResult_ab e ha hb (opMul_eq w a b), fireResult_ab e ha hb (opMulh_eq w a b),
    fireResult_ab e ha hb (opMulhu_eq w a b), fireResult_ab e ha hb (opDiv_eq w a b),
    fireResult_ab e ha hb (opDivu_eq w a b), fireResult_ab e ha hb (opRem_eq w a b),
    fireResult_ab e ha hb (opRemu_eq w a b), fireResult_ab e ha hb (opMin_eq w a b),
    fireResult_ab e ha hb (opMax_eq w a b), fireResult_ab e ha hb (opMinu_eq w a b),
    fireResult_ab e ha hb (opMaxu_eq w a b)⟩

/-- Settles O10: a rotation is the sum of its two parts, a shift past the width leaves nothing or the sign, and a field
of BFX is cut at the word's end. -/
theorem logicResults : Obligations.LogicResults := by
  intro p w t0 t1 s h a b e ha hb
  exact ⟨fireResult_ab e ha hb (opAnd_eq w a b), fireResult_ab e ha hb (opOr_eq w a b),
    fireResult_ab e ha hb (opXor_eq w a b), fireResult_ab e ha hb (opAndn_eq w a b),
    fireResult_ab e ha hb (opOrn_eq w a b), fireResult_ab e ha hb (opShl_eq w a b),
    fireResult_ab e ha hb (opShr_eq w a b), fireResult_ab e ha hb (opSra_eq w a b),
    fireResult_ab e ha hb (opRol_eq w a b), fireResult_ab e ha hb (opRor_eq w a b),
    fireResult_ab e ha hb (opBfx_eq w a b)⟩

/-- Settles O11: the recursive bit counts and reversals of the model, by induction on the width. -/
theorem unaryResults : Obligations.UnaryResults := by
  intro p w t0 t1 s h a e ha
  exact ⟨fireResult_a e ha (opClz_eq w a), fireResult_a e ha (opCtz_eq w a), fireResult_a e ha (opPopc_eq w a),
    fireResult_a e ha (opBrev_eq w a), fireResult_a e ha (opBswap_eq w a), fireResult_a e ha (opNeg_eq w a),
    fireResult_a e ha (opNot_eq w a), fireResult_a e ha (opSext8_eq w a), fireResult_a e ha (opSext16_eq w a),
    fireResult_a e ha (opSext32_eq w a), fireResult_a e ha (opZext8_eq w a), fireResult_a e ha (opZext16_eq w a),
    fireResult_a e ha (opZext32_eq w a)⟩

/-- Settles O12: the register form's operation with B := sext9(IMM9), `imm64`. -/
theorem immediateResults : Obligations.ImmediateResults := by
  intro p w imm t0 s h a e ha
  exact ⟨fireResult_a e ha (opAdd_eq w a (imm64 imm)), fireResult_a e ha (opAnd_eq w a (imm64 imm)),
    fireResult_a e ha (opOr_eq w a (imm64 imm)), fireResult_a e ha (opXor_eq w a (imm64 imm)),
    fireResult_a e ha ((opShl_eq w a (imm64 imm)).trans (byWidth_unread w _ a _ 0)),
    fireResult_a e ha ((opShr_eq w a (imm64 imm)).trans (byWidth_unread w _ a _ 0)),
    fireResult_a e ha ((opSra_eq w a (imm64 imm)).trans (byWidth_unread w _ a _ 0)),
    fireResult_a e ha (opMul_eq w a (imm64 imm))⟩

/-- Settles O13: a test over integers is one on bit vectors; TGTI, TGEI and TGTUI exchange its operands. -/
theorem testResults : Obligations.TestResults := by
  intro p w t0 t1 imm s h a e ha
  exact ⟨fun b hb => ⟨fireResult_ab e ha hb (opTeq_eq w a b), fireResult_ab e ha hb (opTne_eq w a b),
      fireResult_ab e ha hb (opTlt_eq w a b), fireResult_ab e ha hb (opTle_eq w a b),
      fireResult_ab e ha hb (opTltu_eq w a b), fireResult_ab e ha hb (opTleu_eq w a b)⟩,
    fireResult_a e ha (opTeq_eq w a (imm64 imm)), fireResult_a e ha (opTne_eq w a (imm64 imm)),
    fireResult_a e ha (opTlt_eq w a (imm64 imm)), fireResult_a e ha (opTle_eq w a (imm64 imm)),
    fireResult_a e ha ((opTlt_eq w (imm64 imm) a).trans (testWidth_swap w _ a _)),
    fireResult_a e ha ((opTle_eq w (imm64 imm) a).trans (testWidth_swap w _ a _)),
    fireResult_a e ha (opTltu_eq w a (imm64 imm)),
    fireResult_a e ha ((opTltu_eq w (imm64 imm) a).trans (testWidth_swap w _ a _))⟩

end Sys2Proof.Machine
